-- ==== Sys2Proof/Word.lean ====
section
/-! DEFINITION. The word types of the Utenal T4896 and the plain records that commands and state share.
Bit vectors stand only for what the manual treats as bits: cells, payloads, digests, register contents, keys. -/

namespace Sys2Proof

/-- One byte of a frame, a message or a record. -/
abbrev Byte := BitVec 8

/-- A 64-bit register or memory word (R17, R205). -/
abbrev Word := BitVec 64

/-- A whole 64-byte cell, byte k in bits [8k+7:8k] (R301). -/
abbrev FabCell := BitVec 512

/-- The 48 payload bytes of a cell, byte k in bits [8k+7:8k] (R301). -/
abbrev Payload := BitVec 384

/-- A SHA-384 digest, byte k in bits [8k+7:8k]. -/
abbrev Digest := BitVec 384

/-- The identity of a flow (R309). -/
structure FlowKey where
  src : Nat
  dst : Nat
  vc : Nat
  flow : Nat
  deriving DecidableEq, Repr

/-- A loss entry (R346): KIND 1 fabric port, 2 lane die, 3 engine, 4 device. -/
structure Loss where
  node : Nat
  kind : Nat
  unit : Nat
  deriving DecidableEq, Repr

/-- A fault message: the fields of a fault record less SEQ and the collector's flags (R550). `failed` says of a FLASH message that a
write failed, which makes it CONTAINED, and of a PWR_PHASE message that it is an over-current (R552). -/
structure FaultMsg where
  time : Nat
  page : Nat
  kind : Nat
  merged : Nat
  node : Nat
  sub : Nat
  exec : Nat
  addr : Nat
  detail : Nat
  failed : Bool
  deriving DecidableEq, Repr

/-- The four kinds of frame on a lane (R362). -/
inductive FrameKind where
  | cell | idle | marker | training
  deriving DecidableEq, Repr

/-- The content of a training frame as it is read, before any polarity correction of the probe (R368): code groups 1 and 3 (D21.5, or
D10.2 on an inverted lane), the lane identity byte, the stage, the fail mask, and the flags READY and SPLIT. -/
structure TrainFrame where
  probe : Byte
  ident : Byte
  stage : Byte
  mask : Byte
  flags : Byte
  deriving DecidableEq, Repr

/-- A marker frame as a lane's receiver sees it (R366 to R368): the identity byte, the index, and the last training frame that the lane
received before it in bring-up. -/
structure RxMarker where
  ident : Byte
  index : BitVec 32
  train : Option TrainFrame
  deriving DecidableEq, Repr

/-- What the lanes of a port saw of a cell's frame (R363, R376): no violation and K27.7 before it; a code or disparity violation; or no
violation and no K27.7 before it. -/
inductive CellLine where
  | sound
  | codeError
  | noK277
  deriving DecidableEq, Repr

/-- A code group as a lane's receiver sees it (R360 to R363): the kind of frame that it stands in, its number in the frame, its ten line
bits (the first bit lowest), and whether no cell frame follows this frame. -/
structure RxGroup where
  kind : FrameKind
  index : Nat
  bits : BitVec 10
  lone : Bool
  deriving DecidableEq, Repr

/-- What a verifier finds of the certificates of a received IDENT beyond their signatures, keys and dates, which the device reads from CHAIN
itself: their names, extensions and algorithms are what X.509 asks of a chain (R398, R524). -/
structure IdentAuth where
  formed : Bool
  deriving DecidableEq, Repr

/-- A READ entry (R500). -/
structure ReadEntry where
  addr : Nat
  flags : Nat
  value : Word
  deriving DecidableEq, Repr

/-- A WRITE entry (R502); `zero` is the field of 4 bytes that must be zero. -/
structure WriteEntry where
  addr : Nat
  zero : Nat
  mask : Word
  value : Word
  deriving DecidableEq, Repr

/-- Position of a RoCEv2 packet within its message (R467). -/
inductive PktPos where
  | first | middle | last | only
  deriving DecidableEq, Repr

/-- Where an answer of the device goes (R454): the host port, the source MAC, VID and PCP of the frame that it answers, and its source IP
address and UDP port. -/
structure ReplyTo where
  port : Nat
  mac : Nat
  vid : Nat
  pcp : Nat
  v6 : Bool
  ip : Nat
  udp : Nat
  deriving DecidableEq, Repr

/-- What the FEC of a host port found in the codewords of a frame (R447, R450): how many it corrected, and whether it could not correct
one. -/
structure FecResult where
  corrected : Nat
  bad : Bool
  deriving DecidableEq, Repr

/-- A RoCEv2 request packet at the responder (R467 to R469). `qp` is its destination QPN, `station` the station entry its source matches,
`ce` the congestion mark, `icrcOk` the ICRC check, `other` a request outside the supported subset; of its frame the PCP, whether it is
tagged, and its source address. -/
structure RdmaPkt where
  qp : Nat
  psn : Nat
  station : Nat
  pos : PktPos
  rkey : Nat
  va : Nat
  len : Nat
  data : List Byte
  ce : Bool
  icrcOk : Bool
  other : Bool
  pcp : Nat
  tagged : Bool
  v6 : Bool
  ip : Nat
  deriving DecidableEq, Repr

/-- The header data of a control-channel request that the executing command needs (R493, R496): session and TAG, the sequence number of its
DTLS record, and the PCP of its frame. -/
structure MsgHdr where
  session : Nat
  tag : Nat
  seq : Nat
  pcp : Nat
  deriving DecidableEq, Repr

/-- What the device finds of a DTLS record (R465, R466, R493): it is authentic, it is a KeyUpdate of the client, its sequence number, the PCP
of its frame. -/
structure RecordAuth where
  ok : Bool
  update : Bool
  seq : Nat
  pcp : Nat
  deriving DecidableEq, Repr

/-- What the records of a DTLS handshake show to the responder (R465, R543): whether the client offers the supported cipher suite, group and
signature, whether it asks for a full handshake and not for resumption with a PSK, the cookie is right, the client's chain ends at the
OPERATOR key with this KEY_ID (none: a self-signed certificate), and where the answers go. -/
structure HelloAuth where
  suite : Bool
  group : Bool
  sign : Bool
  full : Bool
  cookie : Bool
  anchor : Option (BitVec 128)
  peer : ReplyTo
  deriving DecidableEq, Repr

end Sys2Proof
end

