-- ==== Sys2Proof/Syntax.lean ====
section
/-! DEFINITION. The commands of the block: one constructor for each row of spec/opcode_table.json, in the table's order.
Ports are RESOURCE bits [8:0] (R57), engine units RESOURCE bits [11:0], dies and lanes their numbers. -/

namespace Sys2Proof

/-- The commands. -/
inductive Instr where
  | load
  | loadComplete
  | arm
  | abort
  | discard
  | startBarrierLateArm
  | startBarrierUp
  | startBarrierZenith
  | startOutcomeCell
  | stepInfoSend
  | engineRun (unit : Nat)
  | recordComplete (unit : Nat)
  | releaseTick (unit : Nat)
  | deadlineJudgement
  | outcomeCut
  | obarUpSend
  | obarDownSend
  | outcomeHeld
  | outcomeCellSend
  | outcomeLost
  | stepBoundary
  | fwHandoverTimeout
  | holdIntervalEnd
  | rejoinAdmit
  | stepInfoReceive (port : Nat) (payload : Payload)
  | cellReceive (port : Nat) (cell : FabCell) (line : CellLine)
  | ackIdleTimeout (key : FlowKey)
  | ackReceive (port : Nat) (cell : FabCell)
  | resendReqTimeout (key : FlowKey)
  | resendReqReceive (port : Nat) (cell : FabCell)
  | ackWaitTimeout (port : Nat) (key : FlowKey)
  | cellEgress (resource : Nat)
  | markerFrameSend (port : Nat)
  | markerFrameReceive (port lane : Nat) (marker : RxMarker) (arrival64 : Nat)
  | timeCellSend (port : Nat)
  | timeCellReceive (port : Nat) (payload : Payload)
  | timeParentTimeout
  | identSend (port : Nat)
  | identReceive (port : Nat) (msg : List Byte) (auth : IdentAuth)
  | noIdentTimeout (port : Nat)
  | laneLos (die lane : Nat)
  | laneLol (die lane : Nat)
  | laneRelock (die lane : Nat)
  | laneRelockTimeout (die lane : Nat)
  | laneCode (die lane : Nat) (half : Bool) (groups : List RxGroup)
  | mgmtRequestReceive (port : Nat) (payload : Payload)
  | spareSubstitution (die lane : Nat) (spareOk : Bool)
  | recoveryCheckStart (port lane : Nat)
  | recoveryCheckEnd (die lane errors : Nat) (detected : Bool)
  | bringupStageComplete (port : Nat)
  | bringupStageTimeout (port lane reason : Nat)
  | bringupIdleEnd (port : Nat)
  | prbsStart (port : Nat)
  | prbsEnd (port heard : Nat) (detected : Byte) (errors : List Nat)
  | cellServiceBegin (port : Nat)
  | loopbackStart (port lane : Nat)
  | loopbackEnd (port : Nat)
  | laneTestWrite (die : Nat) (value : Word)
  | faultMessage (msg : Option FaultMsg)
  | softRepairDone (stack sub : Nat)
  | standbySelfCheck (page : Nat) (pass : Bool)
  | vacateStart (stack pc : Nat)
  | segmentCopyDone (stack pc : Nat)
  | pinRepairDone (stack pc : Nat) (ok : Bool)
  | memPcLost (stack pc : Nat)
  | thermalReading (stack temp : Nat)
  | refreshPeriod
  | commitStageEmpty
  | vacate (stack pc : Nat)
  | restore (stack pc : Nat)
  | memSplitWrite (units : Nat)
  | start (mov channel : Nat)
  | cancel (mov channel : Nat)
  | recover (mov : Nat)
  | moverTransferDone (mov channel : Nat)
  | frameReceive (port : Nat) (frame : List Byte) (fec : FecResult)
  | frameDequeue (port : Nat)
  | hostLinkDown (port : Nat)
  | rdmaWritePacket (die : Nat) (pkt : RdmaPkt)
  | rdmaWriteAck (die qp : Nat)
  | rdmaReadRequest (die : Nat) (pkt : RdmaPkt)
  | finish (die window : Nat)
  | reopen (die window : Nat)
  | stagingDigestDone (die : Nat)
  | dtlsClientHello (die : Nat) (auth : HelloAuth)
  | dtlsRecord (session : Nat) (authentic : RecordAuth) (message : List Byte)
  | dtlsIdleTimeout (session : Nat)
  | keyUpdate (session : Nat)
  | hello (hdr : MsgHdr)
  | read (hdr : MsgHdr) (count : Nat) (entries : List ReadEntry)
  | readSample
  | write (hdr : MsgHdr) (count : Nat) (entries : List WriteEntry)
  | writeApply
  | accessTimeout
  | ledgerRead (hdr : MsgHdr) (first count : Nat)
  | certGet (hdr : MsgHdr) (kind : Nat)
  | nop (hdr : MsgHdr)
  | attest (hdr : MsgHdr) (form part : Nat) (nonce : BitVec 128)
  | image (hdr : MsgHdr) (obj chunk total : Nat) (data : List Byte)
  | advance
  | select (slot : Nat)
  | erase (slot : Nat)
  | pending
  | sign
  | secCtAckWrite (value : Word)
  | clear
  | fltAckWrite (page : Nat) (mask : BitVec 3)
  | fltAckSeqWrite (seq : Word)
  | fltSelWrite (seq : Word)
  | bruLagSelWrite (index : Nat)
  | cntFreezeWrite (page : Nat) (freeze : Bool)
  | hostPolBurstWrite (die : Nat) (value : Word)
  | qpValidWrite (die : Nat) (cfg : Word) (psn : Nat)
  | registerWrite (page offset : Nat) (mask value : Word)
  | blockReset (page unit : Nat)
  | blockIdle (page unit : Nat) (idle : Bool)
  | blockResetRelease (page unit : Nat)
  | reset
  | exitDusk
  | enterDusk
  | modResetNAssert (long : Bool)
  | modResetNRelease
  | flashInterlockEnd
  | powerOn
  | startSequence (result detail : Nat)
  | selfTimedAckTimeout (page : Nat)
  | startTimeout
  | scrubDone
  | pwrCmdRun
  | pwrCmdQuiet
  | pwrCmdStandby
  | pwrCmdSleep
  | pwrCmdOff
  | powerStateEntered
  | vinUndervoltage (millivolt : Nat) (lasting : Bool)
  | vinOvervoltage (millivolt : Nat)
  | vinStable (millivolt : Nat)
  | railInRegulation (rail : Nat)
  | railSequenceTimeout (rail : Nat)
  | railSequenceRetry
  | pwrPhase (rail phase milliamp : Nat) (overcurrent : Bool)
  | pwrRail (rail millivolt : Nat)
  | overtemp (die temp : Nat)
  | frefLoss
  | frefReturn
  | hrefLoss
  | smbusReadWord (code : Nat)
  | smbusWrite (code : Nat) (data : List Byte)
  | lifetimeSave
  | outcomeWindowOpen
  | fwHandoverDone
  | hostLinkUp (port : Nat)
  | hrefReturn
  | signalDetect (port : Nat)
  deriving DecidableEq, Repr

end Sys2Proof
end

