-- ==== Sys2Proof/Config.lean ====
section
/-! DEFINITION. The constants that the manual fixes for every T4896, the assembly grades, and the free values: what the
manual leaves open is an opaque constant here, so that no proof can lean on a value of it. -/

namespace Sys2Proof.Config

/-- The code of stepping A1 (R48). -/
def stepping : Nat := 0x01

/-- Fabric ports of a grade by its code (R2, R48). -/
def ports : Nat → Nat
  | 3 => 72
  | 4 => 48
  | 5 => 48
  | _ => 96

/-- Lane dies of a grade (R2). -/
def laneDies (grade : Nat) : Nat := ports grade / 6

/-- Stacks on each memory die (R2, R4). -/
def stacksPerDie : Nat → Nat
  | 2 => 4
  | 5 => 3
  | _ => 5

/-- Addressable bytes of a grade before any stripe is withdrawn: 22.5 GiB per stack (R2). -/
def capacity (grade : Nat) : Nat := 4 * stacksPerDie grade * 24159191040

/-- 1 GiB. -/
def gib : Nat := 1073741824

/-- Bytes of HBM undefined at an address, for each event that made them undefined (R77, R252, R255, R258, R263, R290). -/
opaque freeByte : Nat → Nat → Byte

/-- A fresh bit vector for each count: signature values, nonces, cookies and keys that the device draws (12 R438, 16 R541). -/
opaque freeBits : Nat → BitVec 384

/-- A fresh choice for each count where the manual allows either of two outcomes (R228, R459). -/
opaque freeBool : Nat → Bool

/-- A fresh number for each count, for the random draw of WRED (R459) and measured values the manual does not fix. -/
opaque freeNat : Nat → Nat

/-- The value that a READ returns of a word that does not exist, for each count and offset (R210, R217). -/
opaque freeWord : Nat → Nat → Word

/-- The firmware verification keys FWK0 and FWK1 of the boot ROM, SEC1 uncompressed (16 R521). -/
opaque fwKey : Nat → List Byte

/-- The Utenal root public key of the boot ROM, SEC1 uncompressed (16 R521). -/
opaque utenalRoot : List Byte

/-- Bytes of the headers of the device's own frames that the manual leaves open: IPv4 identification, time to live and type of service,
the IPv6 traffic class, flow label and hop limit, the UDP source port of RoCEv2, and what the InfiniBand Architecture Specification alone
fixes (13 R454, R467). -/
opaque netByte : Nat → Byte

/-- The ICRC of a RoCEv2 packet (13 R467). -/
opaque icrcByte : List Byte → Nat → Byte

/-- The bytes of an encrypted DTLS record, for each count (13 R465). -/
opaque cipherByte : Nat → Nat → Byte

/-- The datagram of a HelloRetryRequest, and that of a KeyUpdate, for each count (13 R465). -/
opaque helloRetry : Nat → List Byte
opaque keyUpdate : Nat → List Byte

/-- Utenal's device CA certificate and the IK certificate of an IK_PUB, issued at manufacture (16 R524). -/
opaque caCert : List Byte
opaque ikCert : List Byte → List Byte

/-- Bytes of the AK certificate that the manual leaves open: its serial number, names, notBefore and the object identifier of its extension
(16 R524). -/
opaque certByte : Nat → Byte

/-- The nonce with which IK signs the AK certificate of a start (16 R524). -/
opaque certNonce : Nat → Nat

end Sys2Proof.Config
end

