-- ==== Sys2Proof/Machine/State.lean ====
section
/-! DEFINITION. The state of a T4896 as plain data: every register, queue, bank, table and mode that the manual gives the
device, the waiting commands, and the state right after reset. -/

namespace Sys2Proof.Machine

/-- Why a command stops with a fault. -/
inductive Fault where
  /-- Raised by an event of a port, lane, die, stack, unit or page that does not exist or that the grade does not fit
  (R6), and by a register command whose operand its field cannot hold. Safe: the device has no such unit that could act. -/
  | absentUnit
  deriving DecidableEq, Repr

/-- Why a command has no meaning here. -/
inductive Refusal where
  /-- Raised by an arm of exec whose command has no meaning yet. Safe: nothing follows from it. -/
  | notModelled (mnemonic : String)
  deriving DecidableEq, Repr

/-! ## What the device puts on its wires and channels -/

/-- What an answer of the device says: a RoCEv2 packet (R467), the response that a DTLS record carries (15 R496), or a handshake message
(R465). -/
inductive Says where
  | rdma (die qp psn opcode : Nat) (data : List Byte)
  | response (session : Nat) (bytes : List Byte)
  | hello (die : Nat)
  | keyUpdate (session : Nat)
  deriving DecidableEq, Repr

/-- One output. Nothing in the device reads these back. -/
inductive Out where
  | cell (tick port : Nat) (cell : FabCell)
  | marker (tick port lane : Nat) (ident : Byte) (index : BitVec 32)
  | training (tick port lane : Nat) (frame : TrainFrame)
  | loop (tick port : Nat) (laneMask : BitVec 8) (ticks : Nat)
  | prbs (tick port : Nat) (laneMask : BitVec 8) (ticks : Nat)
  | frame (tick port : Nat) (bytes : List Byte)
  | said (tick port : Nat) (what : Says)
  | smbus (value : Option Nat)
  deriving DecidableEq, Repr

/-! ## The plan (02) -/

/-- A slot run (R58). -/
structure Run where
  start : Nat
  len : Nat
  use : Nat
  vc : Nat
  flow : Nat
  peer : Nat
  arg : Nat
  deriving DecidableEq, Repr

/-- A slot table (R56). -/
structure SlotTable where
  resource : Nat
  cycle : Nat
  bands : Nat
  alt : Nat
  tableSet : Nat
  runs : List Run
  deriving DecidableEq, Repr

/-- A STEPS record (R54). -/
structure StepRec where
  no : Nat
  onVoid : Nat
  retryMax : Nat
  sign : Bool
  rejoin : Bool
  lenNom : Nat
  lenWarm : Nat
  lenHot : Nat
  outwin : Nat
  drain : Nat
  tableSet : Nat
  deriving DecidableEq, Repr

/-- A REGIONS record (R64). -/
structure Region where
  id : Nat
  placement : Nat
  die : Nat
  flags : Nat
  base : Nat
  size : Nat
  deriving DecidableEq, Repr

/-- A node record of a tree (R132). -/
structure TreeNode where
  node : Nat
  parent : Nat
  level : Nat
  deriving DecidableEq, Repr

/-- A tree of the TREE section (R131). -/
structure Tree where
  id : Nat
  zenith : Nat
  depth : Nat
  nodes : List TreeNode
  deriving DecidableEq, Repr

/-- A MANIFEST record (R52). -/
structure ManRec where
  node : Nat
  kind : Nat
  digest : Digest
  deriving DecidableEq, Repr

/-- A unit-map entry of an alternate set (R621). -/
structure UnitMap where
  kind : Nat
  src : Nat
  dst : Nat
  deriving DecidableEq, Repr

/-- An ALTERNATES record (R65, R621). -/
structure AltSet where
  set : Nat
  losses : List Loss
  maps : List UnitMap
  deriving DecidableEq, Repr

/-- A route record (R322). -/
structure Route where
  dst : Nat
  vcmask : Nat
  up : Bool
  target : Nat
  spread : Bool
  alt : Nat
  deriving DecidableEq, Repr

/-- A spread record (R324). -/
structure Spread where
  set : Nat
  ports : List Nat
  deriving DecidableEq, Repr

/-- A group record (R325); `map` has one bit for each port or half as PORT_UP (R321). -/
structure Group where
  group : Nat
  upstream : Nat
  alt : Nat
  localCopy : Bool
  map : BitVec 192
  deriving DecidableEq, Repr

/-- A sink record (R326). -/
structure Sink where
  src : Nat
  flow : Nat
  region : Nat
  ofs : Nat
  maxCells : Nat
  deriving DecidableEq, Repr

/-- The ROUTES section (R321). -/
structure Routes where
  ackWait : Nat
  level : Nat
  portUp : BitVec 192
  routes : List Route
  spreads : List Spread
  groups : List Group
  sinks : List Sink
  deriving DecidableEq, Repr

/-- An output conversion descriptor (R118). -/
structure Ocd where
  fmt : Nat
  rnd : Nat
  ovf : Nat
  clip : Bool
  scale : BitVec 32
  bias : BitVec 32
  lo : BitVec 32
  hi : BitVec 32
  deriving DecidableEq, Repr

/-- A reduction record (R137). -/
structure RedRec where
  tree : Nat
  op : Nat
  inFmt : Nat
  n : Nat
  inFlow : Nat
  outFlow : Nat
  shares : Nat
  shareLen : Nat
  region : Nat
  ofs : Nat
  ocd : Ocd
  deriving DecidableEq, Repr

/-- A barrier record (R148). -/
structure BarRec where
  tree : Nat
  ops : List Nat
  inFlow : Nat
  outFlow : Nat
  region : Nat
  ofs : Nat
  deriving DecidableEq, Repr

/-- A pool record (R179). -/
structure PoolRec where
  tableRegion : Nat
  rowLen : Nat
  elemFmt : Nat
  weightMode : Nat
  tableOfs : Nat
  rowStride : Nat
  rows : Nat
  fabricIdx : Bool
  skip : Bool
  emptyCfg : Bool
  partitioned : Bool
  inFlow : Nat
  inSrc : Nat
  maxBags : Nat
  maxIndices : Nat
  idxRegion : Nat
  idxOfs : Nat
  fabricDest : Bool
  outFlow : Nat
  destNode : Nat
  destRegion : Nat
  outStride : Nat
  destOfs : Nat
  ocd : Ocd
  empty : BitVec 32
  deriving DecidableEq, Repr

/-- A flow entry of a home record (R222). -/
structure HomeFlow where
  submitter : Nat
  reqFlow : Nat
  rspFlow : Nat
  groups : Nat
  voteBase : Nat
  voteCount : Nat
  deriving DecidableEq, Repr

/-- A home record (R222). -/
structure HomeRec where
  maxActions : Nat
  regions : List Nat
  flows : List HomeFlow
  deriving DecidableEq, Repr

/-- A Mover command record (R238). -/
structure MovRec where
  fill : Bool
  digest : Bool
  fabricSrc : Bool
  fabricDst : Bool
  srcRegion : Nat
  srcOfs : Nat
  dstRegion : Nat
  inFlow : Nat
  inSrc : Nat
  dstOfs : Nat
  len : Nat
  outFlow : Nat
  destNode : Nat
  deriving DecidableEq, Repr

/-- The body of a work record. -/
inductive Work where
  | red (r : RedRec)
  | bar (r : BarRec)
  | pool (r : PoolRec)
  | home (r : HomeRec)
  | mov (r : MovRec)
  deriving DecidableEq, Repr

/-- A work record (R62): its UNIT as RESOURCE bits [11:0] (R57), its step, its SEQ and its body. -/
structure WorkRec where
  unit : Nat
  step : Nat
  seq : Nat
  body : Work
  deriving DecidableEq, Repr

/-- A plan in a table bank (R67): header fields (R48) and sections. -/
structure Plan where
  planDigest : Digest
  imageDigest : Digest
  treeDigest : Digest
  fwDigest : Digest
  planId : BitVec 128
  serial : Nat
  node : Nat
  devices : Nat
  endpoints : Nat
  slackMargin : Nat
  strict : Bool
  loopFirst : Nat
  loopLast : Nat
  loopCount : Nat
  numericMode : Word
  keyId : BitVec 128
  manifest : List ManRec
  steps : List StepRec
  tables : List SlotTable
  routes : Routes
  regions : List Region
  cableMax : Nat
  trees : List Tree
  work : List WorkRec
  alts : List AltSet
  deriving DecidableEq, Repr

/-! ## The plan sequencer (02, 04, 11) -/

/-- A VOID cause reported on this device, or combined from below (R76, R346). -/
structure Report where
  cause : Nat
  source : Nat
  tick : Nat
  deriving DecidableEq, Repr

/-- A lag slot as R150 lays it out: the slowest member, MISSED, NONE, VOIDED, and two 40-bit offsets; in an upward slot
the slowest arrival, in a downward slot the lag. -/
structure LagSlot where
  node : Nat
  missed : Bool
  none : Bool
  voided : Bool
  value : Nat
  earliest : Nat
  deriving DecidableEq, Repr

/-- The content of an OBAR_UP or OBAR_DOWN message (R346). `losses` none: more than 30 (R347). -/
structure ObarMsg where
  ok : Bool
  abort : Bool
  band : Nat
  losses : Option (List Loss)
  report : Report
  lag : LagSlot
  votes : BitVec 512
  deriving DecidableEq, Repr

/-- The plan sequencer on the CD: the two banks and the run in progress. `ups` holds the children's OBAR_UP messages with the K27.7
tick of their last cell. What PLN_STATE, PLN_STEP, PLN_EXEC and PLN_STEP_BASE show stands in those registers. -/
structure Sequencer where
  loading : Option (Nat × Nat × Bool)
  staged : Option Plan
  active : Option Plan
  follow : Bool
  startAt : Nat
  loops : Nat
  reports : List Report
  nextReports : List Report
  losses : List Loss
  nextLosses : List Loss
  abort : Bool
  nextAbort : Bool
  cutDone : Bool
  own : Option ObarMsg
  ups : List (Nat × ObarMsg × Nat)
  upSent : Bool
  downSent : Bool
  cellsSent : Bool
  obar : Option (ObarMsg × Nat)
  held : Option ObarMsg
  window : Bool
  starting : Bool
  startBand : Nat
  hold : Option Nat
  holdNext : Option (Nat × Nat × Nat)
  heldBefore : Bool
  rejoin : Bool
  idleExec : Bool
  outOfStart : Bool
  prevOutcome : Nat
  prevCause : Nat
  fwStep : Bool
  refreshBase : Nat
  infoSent : Bool
  repairRan : Bool
  rejoinDone : Bool
  handover : Option Nat
  deriving DecidableEq, Repr

/-! ## Engines (04 to 07) -/

/-- An accumulation (R108). -/
structure Exa where
  value : Int
  pinf : Bool
  ninf : Bool
  nan : Bool
  negz : Bool
  count : Nat
  deriving DecidableEq, Repr

/-- A cell that a consumer took in this execution: the record (its SEQ × 4096 + its logical unit), the cell's source, flow, KIND, OFS
and payload, the tick of its K27.7, the tick in which it reaches the consumer (01 R35) and the ingress port. -/
structure Arrival where
  rid : Nat
  src : Nat
  flow : Nat
  kind : Nat
  ofs : Nat
  payload : Payload
  tick : Nat
  reach : Nat
  port : Nat
  deriving DecidableEq, Repr

/-- A cell that a record or a unit sends: KIND, VC, destination, flow, OFS and payload. -/
structure TxCell where
  kind : Nat
  vc : Nat
  dst : Nat
  flow : Nat
  ofs : Nat
  payload : Payload
  deriving DecidableEq, Repr

/-- A record running in this execution: its logical unit, its SEQ, the tick of its first RUN, its state as R182 numbers them, the tick of
its completion flag, a pool record's accumulations by bag SLOT until CONVERT (05 R182), the bytes that a Mover has read by their place in
the transfer, how many of them have left its buffer and how many cells it has formed (07 R243, R244), what it holds in its output stage
until RELEASE and the boundary, its component item or AUX record for Contrail (12 R429, R433), and the counter increments that wait for
COMMIT. -/
structure Job where
  unit : Nat
  seq : Nat
  startAt : Nat
  state : Nat
  doneAt : Option Nat
  released : Bool
  busErr : Bool
  skipped : Bool
  flags : BitVec 4
  sums : List (Nat × List (Exa × BitVec 4))
  got : List (Nat × List Byte)
  moved : Nat
  formed : Nat
  cells : List TxCell
  writes : List (Nat × List Byte)
  item : List Byte
  counts : List (Nat × Nat)
  lag : LagSlot
  deriving DecidableEq, Repr

/-- An action of an atomic group (R215). -/
structure Action where
  op : Nat
  signed : Bool
  index : Nat
  offset : Nat
  operand : Word
  deriving DecidableEq, Repr

/-- A group part with its local status (R210) as the home executes it (R226); `mods` holds its modifications with the snapshot of
their words (R207). -/
structure Part where
  submitter : Nat
  seq : Nat
  vote : Nat
  nact : Nat
  nhome : Nat
  status : Nat
  failIndex : Nat
  reads : List Word
  mods : List (Action × Word)
  deriving DecidableEq, Repr

/-- A bad index that waits for COMMIT (R199). -/
structure BadIdx where
  unit : Nat
  index : Nat
  slot : Nat
  pos : Nat
  seq : Nat
  batch : Nat
  deriving DecidableEq, Repr

/-- A control-channel Mover transfer in progress (R254). -/
structure MovJob where
  mover : Nat
  channel : Nat
  cmd : MovRec
  deriving DecidableEq, Repr

/-- A sealed source range (R249). -/
structure Seal where
  base : Nat
  len : Nat
  deriving DecidableEq, Repr

/-- Who accesses HBM in planned burst positions: a record on a logical unit, a sink (09 R326), or the drain of the commit stage (06
R227). -/
inductive MemUser where
  | record (unit seq : Nat)
  | sink
  | drain
  deriving DecidableEq, Repr

/-- An access to HBM that waits for its burst positions (01 R36; 08 R266, R270): its user, the region that its slots name, a write or a
read, its node offset and length within one burst, or one 64-byte unit of a far stack, its place in the user's transfer, the bytes of a
write that are known from the start, the first tick in which it may be served, and the positions that it still needs. -/
structure MemAcc where
  user : MemUser
  region : Nat
  write : Bool
  base : Nat
  len : Nat
  ofs : Nat
  bytes : List Byte
  ready : Nat
  left : Nat
  deriving DecidableEq, Repr

/-- What a cell brings about as it reaches its consumer, 24 ticks after its K27.7 (01 R35): a fault with its VOID cause, a malformed request
of a transaction, or a barrier's release with its lag slot. -/
inductive Due where
  | void (cause kind page sub node addr detail : Nat)
  | txn (src flow ofs check : Nat)
  | down (rid : Nat) (lag : LagSlot)
  deriving DecidableEq, Repr

/-- The engines, home agents and Movers with what the execution holds back. `missed` lists (record, node, deadline) of the
contributions that missed their deadline; `badRecs` the records whose index list is already refused; `downs` the flow of the release
cells that each barrier record has taken (04 R160); `todo` the accesses to HBM that wait for burst positions, oldest first, and `sunk` the
regions that a sink of the step writes (02 R77), `due` what cells on their way bring about, each with its tick. -/
structure Engines where
  jobs : List Job
  arrivals : List Arrival
  parts : List Part
  partsDone : Bool
  partActions : Nat
  badIdx : List BadIdx
  missed : List (Nat × Nat × Nat)
  badRecs : List Nat
  downs : List (Nat × Nat)
  todo : List MemAcc
  sunk : List Nat
  due : List (Nat × Due)
  failed : List Nat
  toSpare : List Nat
  spared : Bool
  stage : List (Nat × Word)
  movJobs : List MovJob
  seals : List Seal
  checked : List (Nat × Nat)
  deriving DecidableEq, Repr

/-! ## The memory system (08) -/

/-- A set of bytes whose contents are undefined: `len` bytes from `base`, of one (stack, pseudo-channel) from a line on only if
`onlyPc` names it, and the number of its free values. -/
structure Undef where
  base : Nat
  len : Nat
  onlyPc : Option (Nat × Nat × Nat)
  epoch : Nat
  deriving DecidableEq, Repr

/-- A relocated pseudo-channel (R276 to R283): its map of segment to (target, spare segment), direction, segments copied, and how
its repair stands. -/
structure Reloc where
  stack : Nat
  pc : Nat
  map : List (Nat × Nat)
  restoring : Bool
  copied : Nat
  commanded : Bool
  repairing : Bool
  repaired : Bool
  lost : Bool
  deriving DecidableEq, Repr

/-- A repaired row (R285). Level 1 soft repair, 2 remapped, 3 retired. -/
structure RowFix where
  stack : Nat
  pc : Nat
  bank : Nat
  row : Nat
  level : Nat
  deriving DecidableEq, Repr

/-- HBM and its controllers. `ue` lists the uncorrectable bursts, `dead` the pseudo-channels (stack, pseudo-channel) that were lost and
could not be relocated (R292), `judged` the bursts that the decoder has corrected, with the pins named and whether it was a miscorrection
(R272), `waiting` the vacates that wait, each with its being commanded (R277), `rowWait` and `retireWait` the rows (stack, SUB, offset)
whose repair or retirement waits (R288, R296), `refresh` the banks that each stack refreshes in the current period (R274). -/
structure MemSys where
  hbm : List Host.Cell
  undef : List Undef
  epoch : Nat
  ue : List Nat
  judged : List (Nat × Nat × Bool)
  dead : List (Nat × Nat)
  relocs : List Reloc
  waiting : List (Nat × Nat × Bool)
  rowFix : List RowFix
  redirects : List RowFix
  spprUsed : List (Nat × Nat × Nat)
  rowWait : List (Nat × Nat × Nat)
  retireWait : List (Nat × Nat × Nat)
  refresh : List (Nat × BitVec 16)
  refreshAt : Option Nat
  retained : List (Nat × Nat)
  deriving DecidableEq, Repr

/-! ## The tensor fabric (09, 14) -/

/-- A cell in a queue: the first tick in which it may leave (R314), and its buffer in the cell pool. -/
structure QCell where
  cell : FabCell
  readyAt : Nat
  buf : Nat
  deriving DecidableEq, Repr

/-- A retained cell (R332): the tick in which it was last sent. -/
structure RetCell where
  key : FlowKey
  seq : Nat
  cell : FabCell
  sentAt : Nat
  buf : Nat
  deriving DecidableEq, Repr

/-- The queues of an egress port or half (R315), by port code (R57). -/
structure Egress where
  code : Nat
  plan : List QCell
  req : List QCell
  rsp : List QCell
  resend : List QCell
  svc : List QCell
  ret : List RetCell
  unret : List (FlowKey × Nat)
  deriving DecidableEq, Repr

/-- A cell in a reorder window: its K27.7 tick and its buffer in the cell pool (R330; 14 R482). -/
structure WinCell where
  seq : Nat
  cell : FabCell
  tick : Nat
  buf : Nat
  deriving DecidableEq, Repr

/-- A received flow (R330 to R333), by its key and, on a group leg, the neighbour that it comes from; `port` is the ingress port of its
last cell: NEXT, the reorder window, the cells delivered since the last ACK, the tick of the last new cell, the last RESEND_REQ, and of
the cells above the window that were dropped the highest SEQ and the tick of the first (R330, R333). -/
structure RxFlow where
  key : FlowKey
  leg : Nat
  port : Nat
  next : Nat
  window : List WinCell
  sinceAck : Nat
  lastNew : Nat
  lastReq : Option (Nat × Nat)
  above : Option (Nat × Nat)
  deriving DecidableEq, Repr

/-- A lag entry of an attached member (R161). -/
structure LagEntry where
  node : Nat
  misses : Nat
  last : Nat
  max : Nat
  stale : Nat
  late : Nat
  bins : List Nat
  deriving DecidableEq, Repr

/-- A cell of the step that waits for its unit position of a die link (R313; 01 R30): the link as RESOURCE bits [31:28] and [4:0] name it,
its USE, the cell, the tick in which it reaches the far end of its way (01 R34, R35), and for a
sink's cell the region and node offset of its bytes (R326). -/
structure Transit where
  dir : Nat
  link : Nat
  use : Nat
  cell : FabCell
  reach : Nat
  sink : Option (Nat × Nat)
  deriving DecidableEq, Repr

/-- The fabric side of the CD and the lane dies, less the lanes. `obarRx` holds the cells of OBAR messages as (KIND, source, OFS,
payload, K27.7 tick), `badObar` the (KIND, source) of those that proved malformed (R347), `ingress` the cells in the ingress buffers as
(port, VC, the tick in which they leave) (R315), `transit` those on the die links. Of the cell pool, `freed` holds the buffers released in
the tick `freedAt` (R483), `taken` those allocated in the tick `takenAt` as (requester, buffer) (R481), and `home` those of the cells on
their way to a local consumer, with the tick in which it has them (R482). -/
structure Fabric where
  egress : List Egress
  txSeq : List (FlowKey × Nat)
  rx : List RxFlow
  obarRx : List (Nat × Nat × Nat × Payload × Nat)
  badObar : List (Nat × Nat)
  ingress : List (Nat × Nat × Nat)
  transit : List Transit
  outStore : List (Nat × FabCell)
  freedAt : Nat
  freed : List Nat
  takenAt : Nat
  taken : List (Nat × Nat)
  home : List (Nat × Nat)
  lags : List LagEntry
  lagNow : List (Nat × Nat)
  deriving DecidableEq, Repr

/-! ## Lanes, discovery and time (10, 11) -/

/-- The fields of an accepted far-end IDENT (R397), with its leaf key's digest. -/
structure Ident where
  node : Nat
  kind : Nat
  flags : Nat
  port : Nat
  pair : Nat
  foreseen : Nat
  startAt : Nat
  fw : Digest
  plan : Digest
  repro : Digest
  next : Digest
  leafKey : Digest
  deriving DecidableEq, Repr

/-- What bring-up knows of a port or half: the stage of ALIGN to DESKEW that it runs again after PRBS, 0 for none; the fail mask of its last
PRBS31 check and whether the check of this stage has ended; the far end's fail mask, and in a repeat the one of its first check; the marker
interval in which the far end last reported a stage of 6 or more, and the tick of its second report in succession (R370, R371); the tick at
which READY was set, and the first marker interval in which READY arrived (R372); and LANE_SPARE_REACH as this bring-up took it, bit k for
spare k (R389). -/
structure BringUp where
  sub : Nat
  mask : BitVec 8
  checked : Bool
  far : Option (BitVec 8)
  first : Option (BitVec 8)
  sixLast : Option Nat
  sixAt : Option Nat
  readyAt : Option Nat
  readyRx : Option Nat
  reach : Nat
  deriving DecidableEq, Repr

/-- A port or half: its STATE (R352), its bring-up stage (0 none, 1 to 8 as R369, 9 cell service, 14 a test) and the tick in which
it began, electrical idle until a tick, consecutive failed attempts, whether PRBS is being repeated, whether incoming cell frames
are dropped and from which tick cells may resume (R377, R379), the end of a PRBS sequence or a test, what discovery knows of the
far end (R396 to R402), the marker arrivals (R411): those measured since the last TIME cell, and the last 64, newest first, each with its
marker count; its bring-up; the tick of the last cell frame that arrived (R363); and its own REASON (R402) and cable delay in 1/64 tick
(R412), which on a split port each half has for itself. -/
structure Link where
  code : Nat
  state : Nat
  stage : Nat
  since : Nat
  idleUntil : Option Nat
  fails : Nat
  redo : Bool
  dropping : Bool
  resumeAt : Option Nat
  testEnd : Option Nat
  nonce : BitVec 128
  peer : BitVec 128
  rx : List (Nat × Payload)
  ident : Option Ident
  owed : Bool
  greetAt : Option Nat
  sentAt : Option Nat
  sentMsg : List Byte
  txMsg : List FabCell
  timedOut : Bool
  markers : List (Nat × Int)
  heard : List (Nat × Int)
  up : BringUp
  lastCell : Option Nat
  reason : Nat
  delay : Nat
  deriving DecidableEq, Repr

/-- A lane that lost signal or lock in service: its die, its physical lane and the tick of the loss (R377). -/
structure LaneLoss where
  die : Nat
  lane : Nat
  since : Nat
  deriving DecidableEq, Repr

/-- A lane request that this end sent or accepted (R378): the port, whether it is this end's own, OPCODE, logical lane, SPARE, TICKS,
AT, and the copies still to send. -/
structure LaneReq where
  port : Nat
  own : Bool
  opcode : Nat
  lane : Nat
  spare : Nat
  ticks : Nat
  start : Nat
  copies : Nat
  deriving DecidableEq, Repr

/-- A substitution that took place: die, spare number, port, logical lane and AT, the marker frames on the spare that have shown the lane, and,
where logical lane 0 itself moved, the last marker arrival on its old lane in 1/64 tick (R381, R383). -/
structure Subst where
  die : Nat
  spare : Nat
  port : Nat
  lane : Nat
  start : Nat
  seen : Nat
  old : Option Int
  deriving DecidableEq, Repr

/-- A lane's transmitter: its running disparity, positive or not, before the code group that stands at tick `upTo`, and whether the last
code group of the frame before that tick is still open, as the next frame decides it (R360, R363). -/
structure LineTx where
  rd : Bool
  upTo : Nat
  owed : Bool
  deriving DecidableEq, Repr

/-- The lanes and the links. By lane, numbered die * 64 + lane: `lastIndex` holds the last marker index, `codeAt` the marker interval in
which the lane last raised LANE_CODE (R376), `rxIdent` the identity byte of the last marker frame (R367), `rxTrain` the last training
frame (R368), `rxAt` the arrival of the last marker frame against its index in 1/64 tick, `rxRd` the receiver's running disparity, positive
or not, and `tx` the transmitter (R360). `taken` holds the far end's requests that were accepted (R378), `remap` the
logical port that a physical port or half carries where it is another (11 R403). -/
structure Lanes where
  links : List Link
  losses : List LaneLoss
  reqs : List LaneReq
  lastIndex : List (Nat × Nat)
  codeAt : List (Nat × Nat)
  rxIdent : List (Nat × Byte)
  rxTrain : List (Nat × TrainFrame)
  rxAt : List (Nat × Int)
  rxRd : List (Nat × Bool)
  taken : List LaneReq
  subs : List Subst
  tx : List (Nat × LineTx)
  remap : List (Nat × Nat)
  deriving DecidableEq, Repr

/-- Time synchronisation (R410 to R415): the node of the time parent that the next two fields count for, whether the count and phase were
set by it, and its successive exchanges within 12/64 tick; the phase in 1/64
tick, the tick of the last phase step and of the last TIME cell from the parent. -/
structure Sync where
  parent : Option Nat
  set : Bool
  good : Nat
  phase : Int
  steppedAt : Option Nat
  heardAt : Nat
  deriving DecidableEq, Repr

/-! ## Contrail (12) -/

/-- A record of the ledger ring (R434): its number, TYPE and its bytes with their prefix. -/
structure LedgerRec where
  no : Nat
  kind : Nat
  bytes : List Byte
  deriving DecidableEq, Repr

/-- The run whose chains are open: what its certificates say (R439). -/
structure RunRec where
  planId : BitVec 128
  startAt : Nat
  firstExec : Nat
  execs : Nat
  commits : Nat
  lastEnd : Nat
  numericMode : Word
  fwDigest : Digest
  planDigest : Digest
  treeDigest : Digest
  repro : Digest
  flags : Nat
  prevCert : Digest
  dropped : Nat
  deriving DecidableEq, Repr

/-- Contrail on SD0: the ring, the kept certificates by KIND, the open run, a SIGN command that waits, and the STAGE AUX records
that wait for an entry, each with the tick in which its digest was finished (R444). -/
structure Contrail where
  ring : List LedgerRec
  certs : List (Nat × List Byte)
  run : Option RunRec
  signReq : Bool
  stageAux : List (Nat × List Byte)
  backlog : Bool
  deriving DecidableEq, Repr

/-! ## The fault collector (17) -/

/-- A fault record in the log (R550). Classes: 0 CORRECTED, 1 CONTAINED, 2 FATAL. -/
structure FaultRec where
  seq : Nat
  msg : FaultMsg
  native : Nat
  raised : Nat
  escalated : Bool
  lasting : Bool
  acked : Bool
  deriving DecidableEq, Repr

/-- A counting entry (R557): its key (page, SUB, NODE, KIND, and a pin number plus 1 for a MEM_CE pin key). -/
structure CountEntry where
  page : Nat
  sub : Nat
  node : Nat
  kind : Nat
  pin : Nat
  start : Nat
  n : Nat
  deriving DecidableEq, Repr

/-- The fault messages that wait in the blocks, the log and the counting entries. -/
structure FaultCol where
  queue : List FaultMsg
  log : List FaultRec
  counts : List CountEntry
  stopped : Bool
  deriving DecidableEq, Repr

/-! ## Host ports and frame pools (13, 14) -/

/-- A frame in an egress queue (R457): its bytes from DA to FCS as received, its VID and PCP (R451), policed length, colour (0 green,
1 yellow, 3 none), ingress stamp, virtual finish time, its pool (1 S, 2 M, 3 L) and buffer, and what it says if it is an answer. -/
structure QFrame where
  bytes : List Byte
  vid : Nat
  pcp : Nat
  policed : Nat
  colour : Nat
  stamp : Nat
  finish : Nat
  pool : Nat
  buf : Nat
  said : Option Says
  deriving DecidableEq, Repr

/-- A local frame that waits for its service (R454, R460): a RoCEv2 packet for the responder, or a frame of the control channel on its way
over the HD link to SD0, with the ticks of its positions there (R466). It holds its buffer (pool, index). -/
structure LocalFrame where
  port : Nat
  roce : Bool
  colour : Nat
  stamp : Nat
  bytes : List Byte
  buf : Nat × Nat
  slots : List Nat
  deriving DecidableEq, Repr

/-- An egress queue: its frames, the last finish time, the shaper's credit in 1/5120 byte as of a tick (R458), and the average
occupancy in 1/65536 byte (R459). -/
structure HostQueue where
  frames : List QFrame
  flast : Nat
  credit : Nat
  creditAt : Nat
  avg : Nat
  deriving DecidableEq, Repr

/-- A host port: the scheduler's virtual time and its eight queues (R457). -/
structure HostPort where
  port : Nat
  vtime : Nat
  queues : List HostQueue
  deriving DecidableEq, Repr

/-- The two buckets of a policer in 1/5120 byte as of a tick (R455). -/
structure Policer where
  die : Nat
  index : Nat
  c : Nat
  e : Nat
  since : Nat
  deriving DecidableEq, Repr

/-- A frame pool (R480): the index of its first free buffer, the words 0 and 1 of the descriptors that were written since the pool was built,
as (buffer, next free buffer, marker), the buffers released in a tick that join the store at its end (R483), and whether its list was
abandoned (R484). -/
structure FramePool where
  die : Nat
  pool : Nat
  first : Nat
  words : List (Nat × Nat × BitVec 32)
  late : List (Nat × Nat)
  broken : Bool
  deriving DecidableEq, Repr

/-- A frame buffer in use with its owner mask (R482). -/
structure FrameBuf where
  die : Nat
  pool : Nat
  index : Nat
  mask : BitVec 7
  deriving DecidableEq, Repr

/-- An accepted WRITE packet that is not in HBM yet, or a READ (`read` holds its length) that waits (R469 to R471): `left` are the pieces
that have no STAGE position yet (R37). -/
structure PendPkt where
  die : Nat
  qp : Nat
  psn : Nat
  window : Nat
  base : Nat
  data : List Byte
  ends : Bool
  pool : Nat
  buf : Nat
  left : List (Nat × List Byte)
  read : Option Nat
  peer : ReplyTo
  deriving DecidableEq, Repr

/-- A piece of a waiting packet that has its STAGE positions (R37): the tick on the HD link, the tick on the pseudo-channel, and where it
covers its burst in part the tick of the read before it (08 R270). -/
structure StageMove where
  die : Nat
  qp : Nat
  psn : Nat
  read : Bool
  base : Nat
  bytes : List Byte
  hd : Nat
  pc : Nat
  merge : Option Nat
  deriving DecidableEq, Repr

/-- A capture record that waits for its IDLE positions on the die links and its STAGE ticks (13 R464): the host die whose ring takes it, the
number of the link toward the CD (a lane die, or 20 and 21 for the host dies), its address once it has them, its bytes, for each burst the
tick on that link, on the memory die's link and on the pseudo-channel, and the frame buffer (pool, index) that the capture writer holds for
it (14 R482). -/
structure CapWait where
  die : Nat
  link : Nat
  base : Nat
  bytes : List Byte
  slots : List (Nat × Nat × Nat)
  buf : Option (Nat × Nat)
  deriving DecidableEq, Repr

/-- What a queue pair holds beside its registers (R467): the message in progress as (R_Key, next virtual address, bytes left), the PSN of a
finished message whose ACK is owed, whether a sequence NAK is out, the tick of its last CNP, the PSN of the last message that is in HBM
whole (R470), and where its answers go (R454). -/
structure QueuePair where
  die : Nat
  index : Nat
  message : Option (Nat × Nat × Nat)
  ackPsn : Option Nat
  naked : Bool
  cnpAt : Option Nat
  done : Option Nat
  peer : Option ReplyTo
  deriving DecidableEq, Repr

/-- The host dies. `digests` lists the (die, window) whose staging digests wait or run, in FINISH order, `finishes` the count of each
window's FINISH (R472), `digestAt` the tick from which the digest at the front of a die's list runs, `samples` the cells that sampling has
counted on each fabric port (R463), `caps` the capture records that wait, `locals` the local frames that wait (R460), and `ctlUse` the (link,
tick) that frames of the control channel have taken toward the CD (R466). -/
structure Hosts where
  ports : List HostPort
  policers : List Policer
  pools : List FramePool
  bufs : List FrameBuf
  packets : List PendPkt
  moves : List StageMove
  qps : List QueuePair
  digests : List (Nat × Nat)
  finishes : List (Nat × Nat)
  digestAt : List (Nat × Nat)
  samples : List (Nat × Nat)
  caps : List CapWait
  locals : List LocalFrame
  ctlUse : List (Nat × Nat)
  deriving DecidableEq, Repr

/-! ## The control channel (15) -/

/-- A request as SD0 decrypts it (R497); `bad` is a message that R496 to R509 do not allow, by its TYPE and COUNT. -/
inductive Msg where
  | hello
  | read (count : Nat) (entries : List ReadEntry)
  | write (count : Nat) (entries : List WriteEntry)
  | ledgerRead (first count : Nat)
  | certGet (kind : Nat)
  | nop
  | attest (form part : Nat) (nonce : BitVec 128)
  | image (obj chunk total : Nat) (data : List Byte)
  | bad (kind count : Nat)
  deriving DecidableEq, Repr

/-- A request that waits or is served (R493, R495): its session, TAG, body, the sequence number of its DTLS record, and the PCP of its
frame. -/
structure Request where
  session : Nat
  tag : Nat
  msg : Msg
  seq : Nat
  pcp : Nat
  deriving DecidableEq, Repr

/-- A kept response (R494): the TYPE and TAG of its request. -/
structure Kept where
  kind : Nat
  tag : Nat
  bytes : List Byte
  deriving DecidableEq, Repr

/-- A control-channel session (R493, R543): the anchor of its client certificate (none: self-signed), its privileges, the tick of its
last valid record, the records in each direction since the last KeyUpdate (R465), the last 16 responses, newest first, and where its
answers go: a session has one address at the client, as it has no Connection ID (R465). -/
structure Session where
  id : Nat
  anchor : Option (BitVec 128)
  priv : BitVec 8
  last : Nat
  rx : Nat
  tx : Nat
  kept : List Kept
  peer : ReplyTo
  deriving DecidableEq, Repr

/-- The control channel on SD0: the requests without a response in arrival order, the tick in which the first of them was sent to
its blocks and the first entry whose block does not answer (R501, R503, R506), the counter values that FREEZE holds, by register key, and
the lag entries where it holds the lag page (R512). -/
structure Control where
  sessions : List Session
  requests : List Request
  access : Option (Nat × Option Nat)
  frozen : List (Nat × Word)
  frozenLags : Option (List LagEntry)
  deriving DecidableEq, Repr

/-! ## Identity and records (16) -/

/-- The manufacturing record (R527) as stored and its fields, and the identity seed, which no access shows (R522, R526). `identity` is the
SHA-384 of IK_PUB. -/
structure Mfg where
  grade : Nat
  stepping : Nat
  serial : BitVec 128
  dumap : BitVec 64
  seed : BitVec 384
  ikPub : List Byte
  identity : Digest
  helperDigest : Digest
  transferDigest : Digest
  trailer : List Byte
  recordBytes : List Byte
  deriving DecidableEq, Repr

/-- A firmware slot's image as stored (16 R537), with its build digest and security version. -/
structure FwSlot where
  image : List Byte
  digest : Digest
  svn : Nat
  deriving DecidableEq, Repr

/-- The IMAGE upload in progress (16 R539): session, object, total length, next chunk and the bytes so far. -/
structure Upload where
  session : Nat
  obj : Nat
  total : Nat
  next : Nat
  data : List Byte
  deriving DecidableEq, Repr

/-- A key entry of the owner record (R530). -/
structure KeyEntry where
  role : Nat
  priv : BitVec 8
  pub : List Byte
  deriving DecidableEq, Repr

/-- The owner record in force (R530), with its bytes as stored. -/
structure Owner where
  epoch : Nat
  node : Nat
  cosign : Bool
  minSerial : Nat
  keys : List KeyEntry
  recordBytes : List Byte
  deriving DecidableEq, Repr

/-- What a write of NV that a reset may cut short would leave: the owner record and the epoch counter, the SVN counter, or ROLE and LOGICAL
of a unit's page, a Mover's mark or the marks of the home agents, as they were (16 R532, R537, R547; 18 R572). -/
inductive NvWas where
  | owner (record : Option Owner) (epoch : Nat)
  | svn (value : Nat)
  | role (page role logical : Nat)
  | mover (die : Nat)
  | homes (mask : Nat)
  deriving DecidableEq, Repr

/-- The firmware slots, the upload, and the slot to fall back to in a handover (20 R615). What runs shows in SEC_STATE,
SEC_SVN and SEC_FWDIG. `badFlash` lists the flash devices that SD0 no longer writes (17 R561), and
`writes` the writes of NV by their tick, with what stood there before (18 R572). -/
structure Firmware where
  slotA : Option FwSlot
  slotB : Option FwSlot
  upload : Option Upload
  prevSlot : Option Nat
  badFlash : List Nat
  writes : List (Nat × NvWas)
  deriving DecidableEq, Repr

/-! ## Reset and power (18, 19, 20) -/

/-- Where the module stands between Off and service: Off; the rails coming up (R596); the device held in reset (R570, R606); its
start sequence (R575); a start that failed and waits for a reset (R578); in service; in Dusk (R579). -/
inductive Phase where
  | off
  | rails
  | held
  | starting
  | failed
  | service
  | dusk
  deriving DecidableEq, Repr

/-- A block reset in progress (R582): its page and UNIT, whether its idle request waits for an access (R506), whether the block is
held in reset already, the tick since which its idle request runs or it is held, and whether it stays in reset for good (17 R558). -/
structure BlockReset where
  page : Nat
  unit : Nat
  waits : Bool
  held : Bool
  since : Nat
  forever : Bool
  deriving DecidableEq, Repr

/-- The reset controller and the module power controller. `ref` counts ticks of the fabric reference times four, `pin` is MOD_RESET_N
asserted, `cause` the CAUSE of the start to come, `flashAt` the last NV write, `pulse` a flash pulse that outlasts a reset, `freed` the tick
of the pin's release, `began` that of SD0's release, `scrub` a scrub that the start owes. `rails` holds the STATE of each rail by its number
of PWR_RAIL_SEL (0 OFF, 1 in regulation, 2 out), `shed` the (rail, phase) that were shed, `rail` the rail that is being started, by its
number of PWR_RAIL_SEL, `railAt` since when, `railTry` the attempt. `mfr` holds MFR_STATUS bits [7:3], `event` the CAUSE that the controller
keeps for PWR_EVENT, `vin` that the 48 V input has been present since a start was last asked for, `vinGood` that it has stood between 41 and
60 V for 10 ms and not left that range since (R593), `waitCmd` a PWR_CMD that waits for the commit stage, `changeAt` the tick in which a
change began. The last fields hold the parts of a second that the lifetime counters have not counted, the NV copies of the counters and the
tick of their last save. -/
structure Power where
  phase : Phase
  ref : Nat
  pin : Bool
  frefAbsent : Bool
  hrefAbsent : Bool
  cause : Nat
  flashAt : Option Nat
  pulse : Bool
  freed : Option Nat
  began : Nat
  scrub : Bool
  rails : List Nat
  shed : List (Nat × Nat)
  rail : Nat
  railAt : Nat
  railTry : Nat
  retryAt : Option Nat
  mfr : BitVec 5
  event : Option Nat
  vin : Bool
  vinGood : Bool
  waitCmd : Option Nat
  changeAt : Option Nat
  blocks : List BlockReset
  parts : Nat × Nat × Nat
  saved : List (Nat × Nat)
  savedAt : Nat
  deriving DecidableEq, Repr

/-! ## What falls on one tick -/

/-- What the present tick has done already, for the rules on events of one access cycle (00 R20; 03 R128; 05 R199): the numeric flags
that a COMMIT set, by page; the registers with RW bits that a write set, by key; and for each pool-engine page whose POE_BADIDX a
COMMIT offered a bad index, the earlier contents of POE_BADIDX and POE_BADIDX_AT and the new ones; and the Mover transfers whose
completion flag was set (07 R250); whether a plan ran before the tick changed that, if it has (15 R504); and the relocations as they stood
before the tick changed a copy bit, if it has (08 R296). It counts while `tick` is the Meridian count. -/
structure Tie where
  tick : Nat
  flags : List (Nat × Word)
  wrote : List Nat
  bad : List (Nat × Word × Word × Word × Word)
  ends : List MovJob
  ran : Option Bool
  relocs : Option (List Reloc)
  deriving DecidableEq, Repr

/-! ## The whole device -/

/-- The state of the device. `pending` is the queue of the model's commands, `out` what the device has sent,
`freeCtr` the count of free values drawn, `cmdStatus` the status of the last register command (15 R499), `mer` the
Meridian count (R13), and `regs` every register and counter by key: a register not listed holds its reset value. -/
structure State where
  pending : List Instr
  out : List Out
  freeCtr : Nat
  cmdStatus : Nat
  mer : Nat
  regs : List (Nat × Word)
  pln : Sequencer
  eng : Engines
  mem : MemSys
  fab : Fabric
  lanes : Lanes
  sync : Sync
  ct : Contrail
  flt : FaultCol
  mfg : Mfg
  owner : Option Owner
  fw : Firmware
  ctl : Control
  host : Hosts
  pwr : Power
  tie : Tie
  deriving DecidableEq, Repr

/-! ## Reset -/

/-- A lag slot that names no member (R150). -/
def LagSlot.empty : LagSlot := ⟨0, false, true, false, 0, 0⟩

/-- The sequencer after reset: both banks empty (R99). -/
def Sequencer.reset : Sequencer where
  loading := none
  staged := none
  active := none
  follow := false
  startAt := 0
  loops := 0
  reports := []
  nextReports := []
  losses := []
  nextLosses := []
  abort := false
  nextAbort := false
  cutDone := false
  own := none
  ups := []
  upSent := false
  downSent := false
  cellsSent := false
  obar := none
  held := none
  window := false
  starting := false
  startBand := 0
  hold := none
  holdNext := none
  heldBefore := false
  rejoin := false
  idleExec := false
  outOfStart := false
  prevOutcome := 0
  prevCause := 0
  fwStep := false
  refreshBase := 0
  infoSent := false
  repairRan := false
  rejoinDone := false
  handover := none

/-- The engines after reset. -/
def Engines.reset : Engines where
  jobs := []
  arrivals := []
  parts := []
  partsDone := false
  partActions := 0
  badIdx := []
  missed := []
  badRecs := []
  downs := []
  todo := []
  sunk := []
  due := []
  failed := []
  toSpare := []
  spared := false
  stage := []
  movJobs := []
  seals := []
  checked := []

/-- The memory after reset: every byte scrubbed to zero (18 R588), nothing relocated. -/
def MemSys.reset : MemSys where
  hbm := []
  undef := []
  epoch := 0
  ue := []
  judged := []
  dead := []
  relocs := []
  waiting := []
  rowFix := []
  redirects := []
  spprUsed := []
  rowWait := []
  retireWait := []
  refresh := []
  refreshAt := none
  retained := []

/-- The fabric after reset: every queue and store empty. -/
def Fabric.reset : Fabric where
  egress := []
  txSeq := []
  rx := []
  obarRx := []
  badObar := []
  ingress := []
  transit := []
  outStore := []
  freedAt := 0
  freed := []
  takenAt := 0
  taken := []
  home := []
  lags := []
  lagNow := []

/-- The lanes after reset: no link up, no spare in use. -/
def Lanes.reset : Lanes := ⟨[], [], [], [], [], [], [], [], [], [], [], [], []⟩

/-- Time synchronisation after reset: running free. -/
def Sync.reset : Sync := ⟨none, false, 0, 0, none, 0⟩

/-- Contrail after a power-on (R437). -/
def Contrail.reset : Contrail := ⟨[], [], none, false, [], false⟩

/-- The fault collector after a power-on: log and counting entries clear (R566). -/
def FaultCol.reset : FaultCol where
  queue := []
  log := []
  counts := []
  stopped := false

/-- The host dies after reset: every pool free, nothing queued, every policer full (log 8). -/
def Hosts.reset : Hosts := ⟨[], [], [], [], [], [], [], [], [], [], [], [], [], []⟩

/-- The control channel after reset. -/
def Control.reset : Control := ⟨[], [], none, [], none⟩

/-- Reset and power after a power-on that has succeeded (log 2): in service, every rail up. -/
def Power.reset : Power where
  phase := .service
  ref := 0
  pin := false
  frefAbsent := false
  hrefAbsent := false
  cause := 0
  flashAt := none
  pulse := false
  freed := none
  began := 0
  scrub := false
  rails := [1, 1, 1, 1, 1, 1, 1, 1, 1]
  shed := []
  rail := 9
  railAt := 0
  railTry := 0
  retryAt := none
  mfr := 0
  event := none
  vin := true
  vinGood := true
  waitCmd := none
  changeAt := none
  blocks := []
  parts := (0, 0, 0)
  saved := []
  savedAt := 0

/-- The low n bytes of a number, the least significant first. -/
def bytesOfNum (n v : Nat) : List Byte := (List.range n).map fun k => BitVec.ofNat 8 (v >>> (8 * k))

/-- The manufacturing record of the module as shipped: a UT-T4896-M20 of stepping A1 with no disabled unit. The record's
serial number and digests are DESIGN CHOICES (log 9). -/
def Mfg.shipped : Mfg where
  grade := 1
  stepping := Config.stepping
  serial := 0
  dumap := 0
  seed := 0
  ikPub := bytesOfNum 97 0x7b6b59ead375b2df004542b62f55cfc38fc5a5bc7698f1ed1ceb3a0310e1ce16500c28f794c51191308c048beeeab3da67f7138348e8d0cb697b33d9b7b7696d6ffa78f80ccc585f3b4a27c6c8b194a404a45b10b35e774bb11dbc864bb876ba04
  identity := 0xe3ae16736bfe8e59d47107518e214873780779854140ba5b9a47db270350490dce1fd7e6991f62bed2d25706c1d2fa98
  helperDigest := 0
  transferDigest := 0
  trailer := bytesOfNum 128 0
  recordBytes := bytesOfNum 384 0x7b6b59ead375b2df004542b62f55cfc38fc5a5bc7698f1ed1ceb3a0310e1ce16500c28f794c51191308c048beeeab3da67f7138348e8d0cb697b33d9b7b7696d6ffa78f80ccc585f3b4a27c6c8b194a404a45b10b35e774bb11dbc864bb876ba040000000000000000000000000000000000000000000000000101000152445455

/-- The firmware as shipped: slot A valid, slot B empty (16 R537). The digest and version are DESIGN CHOICES (log 9). -/
def Firmware.shipped : Firmware where
  slotA := some ⟨[], 0, 1⟩
  slotB := none
  upload := none
  prevSlot := none
  badFlash := []
  writes := []

/-- ROLE and LOGICAL of the engines as a start sets them from the device record (04 R165, 05 R197, 01 R26): keyed by page × 4096
+ offset, ROLE in bits [1:0], LOGICAL in bits [7:4]. RDE(3k), POE(3k) and BRU0 show their reset value. -/
def roleRegs : List (Nat × Word) :=
  [(0x0201100, 0x10), (0x0202100, 0xF1), (0x0204100, 0x10), (0x0205100, 0xF1), (0x0207100, 0x10), (0x0208100, 0xF1),
    (0x020A100, 0x10), (0x020B100, 0xF1), (0x0301100, 0x10), (0x0302100, 0x20), (0x0303100, 0x30), (0x0304100, 0xF1),
    (0x0501100, 0x10), (0x0502100, 0xF1), (0x0504100, 0x10), (0x0505100, 0xF1), (0x0507100, 0x10), (0x0508100, 0xF1),
    (0x050A100, 0x10), (0x050B100, 0xF1)]

/-- The device right after reset. -/
def State.reset : State where
  pending := []
  out := []
  freeCtr := 0
  cmdStatus := 0
  mer := 0
  regs := roleRegs
  pln := .reset
  eng := .reset
  mem := .reset
  fab := .reset
  lanes := .reset
  sync := .reset
  ct := .reset
  flt := .reset
  mfg := .shipped
  owner := none
  fw := .shipped
  ctl := .reset
  host := .reset
  pwr := .reset
  tie := ⟨0, [], [], [], [], none, none⟩

end Sys2Proof.Machine
end

