-- ==== Sys2Proof/Machine/Operands.lean ====
section
/-! DEFINITION. The operand forms of the engines: FP16 and FP32 codes, products, the Partial Sum Format, the exact
accumulators, and the packing of elements into cell payloads and bytes (03 R100 to R117). A finite number is a signed
magnitude in units of 2^-149 (an operand, EXA-S) or of 2^-298 (a product, EXA-P). -/

namespace Sys2Proof.Machine

/-- A floating-point value: NaN, an infinity, or a finite magnitude in the unit of its context, with the sign of zero. -/
inductive Num where
  | nan
  | inf (neg : Bool)
  | fin (neg : Bool) (mag : Nat)
  deriving DecidableEq, Repr

/-- Fraction bits of a format code (R100, R103). -/
def fracBits (fmt : Nat) : Nat := if fmt = 1 then 10 else 23

/-- Exponent bits of a format code (R100). -/
def expBits (fmt : Nat) : Nat := if fmt = 1 then 5 else 8

/-- Exponent of the smallest subnormal below 1, negated: 24 for FP16, 149 for FP32 (R100). -/
def minExp (fmt : Nat) : Nat := if fmt = 1 then 24 else 149

/-- The bit of the sign. -/
def signBit (fmt : Nat) : Nat := fracBits fmt + expBits fmt

/-- The code of +infinity, the first code beyond MAXF (R100). -/
def infCode (fmt : Nat) : Nat := (2 ^ expBits fmt - 1) * 2 ^ fracBits fmt

/-- The canonical NaN (R100, R102). -/
def canonicalNan (fmt : Nat) : Nat := infCode fmt + 2 ^ (fracBits fmt - 1)

/-- The code without its sign. -/
def codeMag (fmt code : Nat) : Nat := code % 2 ^ signBit fmt

/-- The sign of a code. -/
def codeNeg (fmt code : Nat) : Bool := code.testBit (signBit fmt)

/-- A code is a NaN (R101). -/
def codeIsNan (fmt code : Nat) : Bool := decide (infCode fmt < codeMag fmt code)

/-- A code is a signalling NaN (R101). -/
def codeIsSnan (fmt code : Nat) : Bool := codeIsNan fmt code && !code.testBit (fracBits fmt - 1)

/-- Magnitude of a finite code without sign, in units of the format's smallest subnormal. -/
def codeUnits (fmt m : Nat) : Nat :=
  let e := m / 2 ^ fracBits fmt
  let f := m % 2 ^ fracBits fmt
  if e = 0 then f else (f + 2 ^ fracBits fmt) * 2 ^ (e - 1)

/-- An operand as the engine reads it, in units of 2^-149; FLUSH_IN reads a subnormal as a zero of its sign (R104). -/
def readOperand (flushIn : Bool) (fmt code : Nat) : Num :=
  let m := codeMag fmt code
  let neg := codeNeg fmt code
  if infCode fmt < m then .nan
  else if m = infCode fmt then .inf neg
  else if flushIn && decide (m < 2 ^ fracBits fmt) then .fin neg 0
  else .fin neg (codeUnits fmt m * 2 ^ (149 - minExp fmt))

/-- The exact product of two operands in units of 2^-298, and whether it is invalid (R105). -/
def product : Num → Num → Num × Bool
  | .nan, _ => (.nan, false)
  | _, .nan => (.nan, false)
  | .inf a, .inf b => (.inf (a != b), false)
  | .inf a, .fin b m => if m = 0 then (.nan, true) else (.inf (a != b), false)
  | .fin a m, .inf b => if m = 0 then (.nan, true) else (.inf (a != b), false)
  | .fin a m, .fin b n => (.fin (a != b) (m * n), false)

/-- An accumulation with no terms (R108). -/
def exaInit : Exa := ⟨0, false, false, false, true, 0⟩

/-- One more term, and whether the two infinities meet and set INV (R108, R109). -/
def exaAdd (a : Exa) (t : Num) : Exa × Bool :=
  match t with
  | .nan => (⟨a.value, a.pinf, a.ninf, true, false, a.count + 1⟩, false)
  | .inf neg =>
    let p := a.pinf || !neg
    let n := a.ninf || neg
    (⟨a.value, p, n, a.nan, false, a.count + 1⟩, p && n && !(a.pinf && a.ninf) && !a.nan)
  | .fin neg m =>
    (⟨a.value + (if neg then -(m : Int) else (m : Int)), a.pinf, a.ninf, a.nan,
      a.negz && neg && decide (m = 0), a.count + 1⟩, false)

/-- The result of an accumulation (R109). -/
def exaResult (a : Exa) : Num :=
  if a.nan || (a.pinf && a.ninf) then .nan
  else if a.pinf then .inf false
  else if a.ninf then .inf true
  else if a.value = 0 then .fin (decide (0 < a.count) && a.negz) 0
  else .fin (decide (a.value < 0)) a.value.natAbs

/-- Shift of a natural number by a signed count; a right shift truncates. -/
def shiftInt (m : Nat) (k : Int) : Nat := if 0 ≤ k then m <<< k.toNat else m >>> (-k).toNat

/-- A finite or non-finite result as PSF, and whether the element is rounded (R112, R113); the magnitude is in units of
2^-unit. -/
def encodePsf (unit : Nat) : Num → BitVec 128 × Bool
  | .nan => (BitVec.ofNat 128 (0x7FFF * 2 ^ 112 + 3), false)
  | .inf neg => (BitVec.ofNat 128 (0x7FFF * 2 ^ 112 + (if neg then 2 else 1)), false)
  | .fin neg m =>
    if m = 0 then (if neg then BitVec.ofNat 128 (0x8000 * 2 ^ 112) else 0, false)
    else
      let k := m.log2
      let sh : Int := 110 - (k : Int)
      let t := shiftInt m sh
      let rounded := decide (sh < 0 ∧ t <<< (-sh).toNat ≠ m)
      let s : Nat := if rounded && decide (t % 2 = 0) then t + 1 else t
      let sv : Int := if neg then -(s : Int) else (s : Int)
      let e : Int := (k : Int) - (unit : Int) - 110
      (BitVec.ofInt 16 e ++ BitVec.ofInt 112 sv, rounded)

/-- A PSF element as a term in units of 2^-149; none if it is not well-formed (R111 to R114). -/
def decodePsf (w : BitVec 128) : Option Num :=
  let s := (w.extractLsb' 0 112).toInt
  let e := (w.extractLsb' 112 16).toInt
  if s = 0 ∧ e = 0 then some (.fin false 0)
  else if s = 0 ∧ e = -32768 then some (.fin true 0)
  else if e = 32767 ∧ s = 1 then some (.inf false)
  else if e = 32767 ∧ s = 2 then some (.inf true)
  else if e = 32767 ∧ s = 3 then some .nan
  else if 2 ^ 110 ≤ s.natAbs ∧ s.natAbs < 2 ^ 111 ∧ -259 ≤ e ∧ e ≤ 49 then
    let k := e + 149
    if 0 ≤ k then some (.fin (decide (s < 0)) (s.natAbs <<< k.toNat))
    else if s.natAbs % 2 ^ (-k).toNat = 0 then some (.fin (decide (s < 0)) (s.natAbs >>> (-k).toNat))
    else none
  else none

/-- Bytes of one element of a format code (R103). -/
def elemSize (fmt : Nat) : Nat := if fmt = 1 then 2 else if fmt = 2 then 4 else 16

/-- Elements in one cell payload (R103). -/
def perCell (fmt : Nat) : Nat := 48 / elemSize fmt

/-- ceil(a / b) for b above 0. -/
def ceilDiv (a b : Nat) : Nat := (a + b - 1) / b

/-- `n` bytes of a payload from byte `ofs`, as a little-endian number (R301). -/
def payNat (p : Payload) (ofs n : Nat) : Nat := (p.toNat >>> (8 * ofs)) % 2 ^ (8 * n)

/-- Element k of a payload in a format (R140). -/
def payElem (fmt : Nat) (p : Payload) (k : Nat) : Nat := payNat p (k * elemSize fmt) (elemSize fmt)

/-- A little-endian number as `n` bytes (R11). -/
def leBytes : Nat → Nat → List Byte
  | 0, _ => []
  | n + 1, v => BitVec.ofNat 8 v :: leBytes n (v / 256)

/-- Bytes as a little-endian number (R11). -/
def leNat : List Byte → Nat
  | [] => 0
  | b :: bs => b.toNat + 256 * leNat bs

/-- Bytes as a big-endian number, the order of a frame's fields. -/
def beNat (bs : List Byte) : Nat := bs.foldl (fun a b => a * 256 + b.toNat) 0

/-- A number as `n` bytes, most significant first. -/
def beBytes (n v : Nat) : List Byte := (leBytes n v).reverse

/-- A payload from a list of at most 48 bytes; unused bytes are zero. -/
def payOf (bs : List Byte) : Payload := BitVec.ofNat 384 (leNat (bs.take 48))

/-- The payload as 48 bytes. -/
def payBytes (p : Payload) : List Byte := leBytes 48 p.toNat

/-- A list cut into pieces of `n`, at most `fuel` of them. -/
def chunks {α : Type} (n : Nat) : Nat → List α → List (List α)
  | 0, _ => []
  | _ + 1, [] => []
  | f + 1, l => l.take n :: chunks n f (l.drop n)

/-- Element codes as the bytes of memory, in order (R140). -/
def elemBytes (fmt : Nat) (codes : List Nat) : List Byte := codes.flatMap (leBytes (elemSize fmt))

/-- Element codes packed into cell payloads from OFS 0 on (R103, R140). -/
def elemCells (fmt : Nat) (codes : List Nat) : List Payload :=
  (chunks (perCell fmt) codes.length codes).map fun c => payOf (elemBytes fmt c)

/-- Put back the element order: a payload list whose item k has OFS k. -/
def withOfs {α : Type} (l : List α) : List (Nat × α) := l.zipIdx.map fun p => (p.2, p.1)

end Sys2Proof.Machine
end

