-- ==== Sys2Proof/Machine/Ecdsa.lean ====
section
/-! DEFINITION. ECDSA P-384 verification in natural numbers (16 R525, R526). The manual names the algorithm; its curve
constants are those of the public standard (PRESUMED, log 11). -/

namespace Sys2Proof.Machine

/-- The field prime of P-384. -/
def p384 : Nat := 2 ^ 384 - 2 ^ 128 - 2 ^ 96 + 2 ^ 32 - 1

/-- The order of the base point. -/
def n384 : Nat := 0xFFFFFFFFFFFFFFFFFFFFFFFFFFFFFFFFFFFFFFFFFFFFFFFFC7634D81F4372DDF581A0DB248B0A77AECEC196ACCC52973

/-- The curve's b. -/
def b384 : Nat := 0xB3312FA7E23EE7E4988E056BE3F82D19181D9C6EFE8141120314088F5013875AC656398D8A2ED19D2A85C8EDD3EC2AEF

/-- The base point. -/
def gx384 : Nat := 0xAA87CA22BE8B05378EB1C71EF320AD746E1D3B628BA79B9859F741E082542A385502F25DBF55296C3A545E3872760AB7
def gy384 : Nat := 0x3617DE4A96262C6F5D9E98BF9292DC29F8F41DBD289A147CE9DA3113B5F0B8C00A60B1CE1D7E819D7A431D7C90EA0E5F

/-- base^e mod m over the low `fuel` bits of e. -/
def powMod (m : Nat) : Nat → Nat → Nat → Nat
  | 0, _, _ => 1 % m
  | fuel + 1, base, e =>
    let r := powMod m fuel (base * base % m) (e / 2)
    if e % 2 = 1 then base * r % m else r

/-- The inverse modulo a prime. -/
def invMod (m a : Nat) : Nat := powMod m 384 (a % m) (m - 2)

/-- A point in Jacobian coordinates; z 0 is the point at infinity. -/
structure Jac where
  x : Nat
  y : Nat
  z : Nat
  deriving DecidableEq, Repr

/-- Difference modulo the field prime. -/
def subP (a b : Nat) : Nat := (a + (p384 - b % p384)) % p384

/-- Doubling on a curve with a = -3. -/
def jacDouble (q : Jac) : Jac :=
  if q.z = 0 ∨ q.y = 0 then ⟨1, 1, 0⟩
  else
    let d := q.z * q.z % p384
    let g := q.y * q.y % p384
    let b := q.x * g % p384
    let a := 3 * (subP q.x d * (q.x + d)) % p384
    let x := subP (a * a) (8 * b)
    let z := 2 * (q.y * q.z) % p384
    ⟨x, subP (a * subP (4 * b) x) (8 * (g * g)), z⟩

/-- The sum of two points. -/
def jacAdd (p q : Jac) : Jac :=
  if p.z = 0 then q
  else if q.z = 0 then p
  else
    let z1 := p.z * p.z % p384
    let z2 := q.z * q.z % p384
    let u1 := p.x * z2 % p384
    let u2 := q.x * z1 % p384
    let s1 := p.y * (z2 * q.z % p384) % p384
    let s2 := q.y * (z1 * p.z % p384) % p384
    if u1 = u2 then (if s1 = s2 then jacDouble p else ⟨1, 1, 0⟩)
    else
      let h := subP u2 u1
      let r := subP s2 s1
      let h2 := h * h % p384
      let h3 := h2 * h % p384
      let v := u1 * h2 % p384
      let x := subP (r * r) (h3 + 2 * v)
      ⟨x, subP (r * subP v x) (s1 * h3), p.z * q.z % p384 * h % p384⟩

/-- k times a point over the low `fuel` bits of k. -/
def jacMul : Nat → Nat → Jac → Jac
  | 0, _, _ => ⟨1, 1, 0⟩
  | fuel + 1, k, q =>
    let r := jacMul fuel (k / 2) (jacDouble q)
    if k % 2 = 1 then jacAdd q r else r

/-- A point lies on the curve. -/
def onCurve (x y : Nat) : Bool :=
  decide (x < p384) && decide (y < p384) && y * y % p384 == subP (x * x % p384 * x + b384) (3 * x)

/-- The signature (r, s) over a digest verifies with the public key (x, y). -/
def ecdsaVerify (x y digest r s : Nat) : Bool :=
  if onCurve x y ∧ 0 < r ∧ r < n384 ∧ 0 < s ∧ s < n384 then
    let w := invMod n384 s
    let q := jacAdd (jacMul 384 (digest * w % n384) ⟨gx384, gy384, 1⟩) (jacMul 384 (r * w % n384) ⟨x, y, 1⟩)
    if q.z = 0 then false
    else
      let zi := invMod p384 q.z
      (q.x * (zi * zi % p384) % p384) % n384 == r
  else false

end Sys2Proof.Machine
end

