-- ==== Sys2Proof/Machine/Fields.lean ====
section
/-! DEFINITION. Every field of every register page and every counter of the T4896, one definition each, copied from the
register tables of spec/ (R14 to R17, R510, R511): the page kind, the offset, how many registers of that form stand in a
row, the lowest bit, the width, the access type, the value on power-on, and what it survives. -/

namespace Sys2Proof.Machine

/-- The access types (R17). -/
inductive Access where
  | ro | rw | w1c | rc | wo | rwl
  deriving DecidableEq, Repr

/-- What a field survives (R15, R16, R588): nothing, a pin reset ("kept"), also a power-on (NV), or both because
only the boot writes it ("Boot value" and "Start value"). -/
inductive Keep where
  | none | kept | nv | start
  deriving DecidableEq, Repr

/-- A field of a register table: page kind (0xFF: the common header), offset, registers in a row, lowest bit, width,
access, value on power-on and what it survives. -/
structure Fld where
  kind : Nat
  off : Nat
  count : Nat
  lo : Nat
  width : Nat
  acc : Access
  reset : Nat
  keep : Keep
  deriving DecidableEq, Repr

namespace Reg

/-! The common header (15 R511). -/

def pageId_page : Fld := ⟨0xFF, 0x0, 1, 0, 16, .ro, 0, .none⟩
def pageId_die : Fld := ⟨0xFF, 0x0, 1, 16, 8, .ro, 0, .none⟩
def pageVer_minor : Fld := ⟨0xFF, 0x4, 1, 0, 8, .ro, 0, .none⟩
def pageVer_major : Fld := ⟨0xFF, 0x4, 1, 8, 8, .ro, 0x1, .none⟩
def caps_ncount : Fld := ⟨0xFF, 0x8, 1, 0, 5, .ro, 0, .none⟩
def caps_resettable : Fld := ⟨0xFF, 0x8, 1, 5, 1, .ro, 0, .none⟩
def caps_faults : Fld := ⟨0xFF, 0x8, 1, 6, 1, .ro, 0, .none⟩
def ctrl_blockReset : Fld := ⟨0xFF, 0x10, 1, 0, 1, .wo, 0x0, .none⟩
def status_state : Fld := ⟨0xFF, 0x18, 1, 0, 2, .ro, 0x0, .none⟩
def status_inPlan : Fld := ⟨0xFF, 0x18, 1, 2, 1, .ro, 0x0, .none⟩
def fltSum_corr : Fld := ⟨0xFF, 0x20, 1, 0, 1, .ro, 0x0, .none⟩
def fltSum_cont : Fld := ⟨0xFF, 0x20, 1, 1, 1, .ro, 0x0, .none⟩
def fltSum_fatal : Fld := ⟨0xFF, 0x20, 1, 2, 1, .ro, 0x0, .none⟩
def fltSum_unack : Fld := ⟨0xFF, 0x20, 1, 8, 16, .ro, 0x0, .none⟩
def fltAck_ack : Fld := ⟨0xFF, 0x28, 1, 0, 3, .wo, 0x0, .none⟩
def cntFreeze_freeze : Fld := ⟨0xFF, 0x30, 1, 0, 1, .rw, 0x0, .none⟩

/-- The common header fields. -/
def headerFields : List Fld :=
  [pageId_page, pageId_die, pageVer_minor, pageVer_major, caps_ncount, caps_resettable, caps_faults, ctrl_blockReset, status_state, status_inPlan, fltSum_corr, fltSum_cont, fltSum_fatal, fltSum_unack, fltAck_ack, cntFreeze_freeze]

/-! Page kind 0x00, Dir (15). -/

def dirInfo_count : Fld := ⟨0x0, 0x100, 1, 0, 9, .ro, 0, .none⟩
def dirInfo_grade : Fld := ⟨0x0, 0x100, 1, 16, 8, .ro, 0, .none⟩
def dirInfo_stepping : Fld := ⟨0x0, 0x100, 1, 24, 8, .ro, 0, .none⟩
def dirInfo_dusk : Fld := ⟨0x0, 0x100, 1, 32, 1, .ro, 0x0, .none⟩
def dirCapacity_c : Fld := ⟨0x0, 0x108, 1, 0, 40, .ro, 0, .none⟩
def dirEntry_page : Fld := ⟨0x0, 0x110, 478, 0, 16, .ro, 0, .none⟩
def dirEntry_die : Fld := ⟨0x0, 0x110, 478, 16, 8, .ro, 0, .none⟩
def dirEntry_major : Fld := ⟨0x0, 0x110, 478, 24, 8, .ro, 0, .none⟩

/-- The fields of page kind 0x00. -/
def fieldsDir : List Fld :=
  [dirInfo_count, dirInfo_grade, dirInfo_stepping, dirInfo_dusk, dirCapacity_c, dirEntry_page, dirEntry_die, dirEntry_major]

/-! Page kind 0x01, Pln (02 R88 to R98, 03 R128). -/

def plnLoadAddr_offset : Fld := ⟨0x1, 0x100, 1, 0, 40, .rw, 0x0, .none⟩
def plnLoadLen_len : Fld := ⟨0x1, 0x108, 1, 0, 30, .rw, 0x0, .none⟩
def plnCmd_cmd : Fld := ⟨0x1, 0x110, 1, 0, 4, .wo, 0x0, .none⟩
def plnStartAt_start : Fld := ⟨0x1, 0x118, 1, 0, 64, .rw, 0x0, .none⟩
def plnState_active : Fld := ⟨0x1, 0x120, 1, 0, 4, .ro, 0x0, .none⟩
def plnState_staged : Fld := ⟨0x1, 0x120, 1, 4, 4, .ro, 0x0, .none⟩
def plnState_band : Fld := ⟨0x1, 0x120, 1, 8, 2, .ro, 0x0, .none⟩
def plnState_code : Fld := ⟨0x1, 0x120, 1, 16, 16, .ro, 0x0, .none⟩
def plnState_alt : Fld := ⟨0x1, 0x120, 1, 32, 8, .ro, 0x0, .none⟩
def plnRefusalAt_section : Fld := ⟨0x1, 0x128, 1, 0, 16, .ro, 0x0, .none⟩
def plnRefusalAt_record : Fld := ⟨0x1, 0x128, 1, 16, 32, .ro, 0x0, .none⟩
def plnStep_step : Fld := ⟨0x1, 0x130, 1, 0, 24, .ro, 0x0, .none⟩
def plnStep_attempt : Fld := ⟨0x1, 0x130, 1, 24, 4, .ro, 0x0, .none⟩
def plnExec_exec : Fld := ⟨0x1, 0x138, 1, 0, 64, .ro, 0x0, .none⟩
def plnStepBase_base : Fld := ⟨0x1, 0x140, 1, 0, 64, .ro, 0x0, .none⟩
def plnOutcome_commit : Fld := ⟨0x1, 0x148, 1, 0, 1, .ro, 0x0, .none⟩
def plnOutcome_cause : Fld := ⟨0x1, 0x148, 1, 8, 8, .ro, 0x0, .none⟩
def plnOutcome_source : Fld := ⟨0x1, 0x148, 1, 16, 16, .ro, 0x0, .none⟩
def plnDigest_digest : Fld := ⟨0x1, 0x150, 6, 0, 64, .ro, 0x0, .none⟩
def plnSlackMin_slack : Fld := ⟨0x1, 0x180, 1, 0, 8, .rc, 0xFF, .none⟩
def plnSlackMin_unit : Fld := ⟨0x1, 0x180, 1, 8, 12, .rc, 0x0, .none⟩
def plnNumsum_ovf : Fld := ⟨0x1, 0x188, 1, 0, 1, .w1c, 0x0, .none⟩
def plnNumsum_unf : Fld := ⟨0x1, 0x188, 1, 1, 1, .w1c, 0x0, .none⟩
def plnNumsum_inx : Fld := ⟨0x1, 0x188, 1, 2, 1, .w1c, 0x0, .none⟩
def plnNumsum_inv : Fld := ⟨0x1, 0x188, 1, 3, 1, .w1c, 0x0, .none⟩
def plnNumsum_firstUnit : Fld := ⟨0x1, 0x188, 1, 16, 12, .ro, 0x0, .none⟩
def plnNumsum_firstExec : Fld := ⟨0x1, 0x188, 1, 32, 32, .ro, 0x0, .none⟩
def plnCntCommit : Fld := ⟨0x1, 0x40, 1, 0, 64, .ro, 0, .none⟩
def plnCntVoid : Fld := ⟨0x1, 0x48, 1, 0, 64, .ro, 0, .none⟩
def plnCntRetry : Fld := ⟨0x1, 0x50, 1, 0, 64, .ro, 0, .none⟩
def plnCntRefused : Fld := ⟨0x1, 0x58, 1, 0, 64, .ro, 0, .none⟩
def plnCntSlacklow : Fld := ⟨0x1, 0x60, 1, 0, 64, .ro, 0, .none⟩

/-- The fields of page kind 0x01. -/
def fieldsPln : List Fld :=
  [plnLoadAddr_offset, plnLoadLen_len, plnCmd_cmd, plnStartAt_start, plnState_active, plnState_staged, plnState_band, plnState_code, plnState_alt, plnRefusalAt_section, plnRefusalAt_record, plnStep_step, plnStep_attempt, plnExec_exec, plnStepBase_base, plnOutcome_commit, plnOutcome_cause, plnOutcome_source, plnDigest_digest, plnSlackMin_slack, plnSlackMin_unit, plnNumsum_ovf, plnNumsum_unf, plnNumsum_inx] ++
  [plnNumsum_inv, plnNumsum_firstUnit, plnNumsum_firstExec, plnCntCommit, plnCntVoid, plnCntRetry, plnCntRefused, plnCntSlacklow]

/-! Page kind 0x02, Rde (04 R164 to R172). -/

def rdeStatus_role : Fld := ⟨0x2, 0x100, 1, 0, 2, .ro, 0x0, .none⟩
def rdeStatus_logical : Fld := ⟨0x2, 0x100, 1, 4, 4, .ro, 0x0, .none⟩
def rdeStatus_seq : Fld := ⟨0x2, 0x100, 1, 8, 32, .ro, 0x0, .none⟩
def rdeFlags_ovf : Fld := ⟨0x2, 0x108, 1, 0, 1, .w1c, 0x0, .none⟩
def rdeFlags_unf : Fld := ⟨0x2, 0x108, 1, 1, 1, .w1c, 0x0, .none⟩
def rdeFlags_inx : Fld := ⟨0x2, 0x108, 1, 2, 1, .w1c, 0x0, .none⟩
def rdeFlags_inv : Fld := ⟨0x2, 0x108, 1, 3, 1, .w1c, 0x0, .none⟩
def rdeCntCells : Fld := ⟨0x2, 0x40, 1, 0, 64, .ro, 0, .none⟩
def rdeCntRecords : Fld := ⟨0x2, 0x48, 1, 0, 64, .ro, 0, .none⟩
def rdeCntPsfrnd : Fld := ⟨0x2, 0x50, 1, 0, 64, .ro, 0, .none⟩
def rdeCntStale : Fld := ⟨0x2, 0x58, 1, 0, 64, .ro, 0, .none⟩

/-- The fields of page kind 0x02. -/
def fieldsRde : List Fld :=
  [rdeStatus_role, rdeStatus_logical, rdeStatus_seq, rdeFlags_ovf, rdeFlags_unf, rdeFlags_inx, rdeFlags_inv, rdeCntCells, rdeCntRecords, rdeCntPsfrnd, rdeCntStale]

/-! Page kind 0x03, Bru (04 R164 to R172). -/

def bruStatus_role : Fld := ⟨0x3, 0x100, 1, 0, 2, .ro, 0x0, .none⟩
def bruStatus_logical : Fld := ⟨0x3, 0x100, 1, 4, 4, .ro, 0x0, .none⟩
def bruStatus_seq : Fld := ⟨0x3, 0x100, 1, 8, 32, .ro, 0x0, .none⟩
def bruFlags_ovf : Fld := ⟨0x3, 0x108, 1, 0, 1, .w1c, 0x0, .none⟩
def bruFlags_unf : Fld := ⟨0x3, 0x108, 1, 1, 1, .w1c, 0x0, .none⟩
def bruFlags_inx : Fld := ⟨0x3, 0x108, 1, 2, 1, .w1c, 0x0, .none⟩
def bruFlags_inv : Fld := ⟨0x3, 0x108, 1, 3, 1, .w1c, 0x0, .none⟩
def bruSlowest_node : Fld := ⟨0x3, 0x110, 1, 0, 16, .ro, 0x0, .none⟩
def bruSlowest_missed : Fld := ⟨0x3, 0x110, 1, 16, 1, .ro, 0x0, .none⟩
def bruSlowest_none : Fld := ⟨0x3, 0x110, 1, 17, 1, .ro, 0x1, .none⟩
def bruSlowest_voided : Fld := ⟨0x3, 0x110, 1, 18, 1, .ro, 0x0, .none⟩
def bruSlowest_lag : Fld := ⟨0x3, 0x110, 1, 24, 40, .ro, 0x0, .none⟩
def bruSlowestSeq_seq : Fld := ⟨0x3, 0x118, 1, 0, 32, .ro, 0x0, .none⟩
def bruSlowestSeq_exec : Fld := ⟨0x3, 0x118, 1, 32, 32, .ro, 0x0, .none⟩
def bruCntBarriers : Fld := ⟨0x3, 0x40, 1, 0, 64, .ro, 0, .none⟩
def bruCntPsfrnd : Fld := ⟨0x3, 0x48, 1, 0, 64, .ro, 0, .none⟩
def bruCntMissed : Fld := ⟨0x3, 0x50, 1, 0, 64, .ro, 0, .none⟩

/-- The fields of page kind 0x03. -/
def fieldsBru : List Fld :=
  [bruStatus_role, bruStatus_logical, bruStatus_seq, bruFlags_ovf, bruFlags_unf, bruFlags_inx, bruFlags_inv, bruSlowest_node, bruSlowest_missed, bruSlowest_none, bruSlowest_voided, bruSlowest_lag, bruSlowestSeq_seq, bruSlowestSeq_exec, bruCntBarriers, bruCntPsfrnd, bruCntMissed]

/-! Page kind 0x04, Lag (04 R169, R170). -/

def bruStepSlowest_node : Fld := ⟨0x4, 0x170, 1, 0, 16, .ro, 0x0, .none⟩
def bruStepSlowest_missed : Fld := ⟨0x4, 0x170, 1, 16, 1, .ro, 0x0, .none⟩
def bruStepSlowest_none : Fld := ⟨0x4, 0x170, 1, 17, 1, .ro, 0x1, .none⟩
def bruStepSlowest_voided : Fld := ⟨0x4, 0x170, 1, 18, 1, .ro, 0x0, .none⟩
def bruStepSlowest_lag : Fld := ⟨0x4, 0x170, 1, 24, 40, .ro, 0x0, .none⟩
def bruLagCount_count : Fld := ⟨0x4, 0x100, 1, 0, 9, .ro, 0x0, .none⟩
def bruLagSel_index : Fld := ⟨0x4, 0x108, 1, 0, 8, .rw, 0x0, .none⟩
def bruLagNode_node : Fld := ⟨0x4, 0x110, 1, 0, 16, .ro, 0x0, .none⟩
def bruLagNode_misses : Fld := ⟨0x4, 0x110, 1, 16, 32, .rc, 0x0, .none⟩
def bruLagLast_lag : Fld := ⟨0x4, 0x118, 1, 0, 40, .ro, 0x0, .none⟩
def bruLagMax_lag : Fld := ⟨0x4, 0x120, 1, 0, 40, .rc, 0x0, .none⟩
def bruLagStale_stale : Fld := ⟨0x4, 0x128, 1, 0, 32, .rc, 0x0, .none⟩
def bruLagStale_late : Fld := ⟨0x4, 0x128, 1, 32, 32, .rc, 0x0, .none⟩
def bruLagHist_binLo : Fld := ⟨0x4, 0x130, 8, 0, 32, .rc, 0x0, .none⟩
def bruLagHist_binHi : Fld := ⟨0x4, 0x130, 8, 32, 32, .rc, 0x0, .none⟩
def bruStaleOther_count : Fld := ⟨0x4, 0x178, 1, 0, 32, .rc, 0x0, .none⟩
def bruStaleOther_lastSrc : Fld := ⟨0x4, 0x178, 1, 32, 16, .ro, 0x0, .none⟩

/-- The fields of page kind 0x04. -/
def fieldsLag : List Fld :=
  [bruStepSlowest_node, bruStepSlowest_missed, bruStepSlowest_none, bruStepSlowest_voided, bruStepSlowest_lag, bruLagCount_count, bruLagSel_index, bruLagNode_node, bruLagNode_misses, bruLagLast_lag, bruLagMax_lag, bruLagStale_stale, bruLagStale_late, bruLagHist_binLo, bruLagHist_binHi, bruStaleOther_count, bruStaleOther_lastSrc]

/-! Page kind 0x05, Poe (05 R197 to R200). -/

def poeStatus_role : Fld := ⟨0x5, 0x100, 1, 0, 2, .ro, 0x0, .none⟩
def poeStatus_logical : Fld := ⟨0x5, 0x100, 1, 4, 4, .ro, 0x0, .none⟩
def poeStatus_seq : Fld := ⟨0x5, 0x100, 1, 8, 32, .ro, 0x0, .none⟩
def poeStatus_state : Fld := ⟨0x5, 0x100, 1, 40, 3, .ro, 0x0, .none⟩
def poeFlags_ovf : Fld := ⟨0x5, 0x108, 1, 0, 1, .w1c, 0x0, .none⟩
def poeFlags_unf : Fld := ⟨0x5, 0x108, 1, 1, 1, .w1c, 0x0, .none⟩
def poeFlags_inx : Fld := ⟨0x5, 0x108, 1, 2, 1, .w1c, 0x0, .none⟩
def poeFlags_inv : Fld := ⟨0x5, 0x108, 1, 3, 1, .w1c, 0x0, .none⟩
def poeBadidx_index : Fld := ⟨0x5, 0x110, 1, 0, 32, .rc, 0x0, .none⟩
def poeBadidx_slot : Fld := ⟨0x5, 0x110, 1, 32, 16, .rc, 0x0, .none⟩
def poeBadidx_pos : Fld := ⟨0x5, 0x110, 1, 48, 16, .rc, 0x0, .none⟩
def poeBadidxAt_seq : Fld := ⟨0x5, 0x118, 1, 0, 32, .ro, 0x0, .none⟩
def poeBadidxAt_batch : Fld := ⟨0x5, 0x118, 1, 32, 31, .ro, 0x0, .none⟩
def poeBadidxAt_valid : Fld := ⟨0x5, 0x118, 1, 63, 1, .ro, 0x0, .none⟩
def poeCntRecords : Fld := ⟨0x5, 0x40, 1, 0, 64, .ro, 0, .none⟩
def poeCntBags : Fld := ⟨0x5, 0x48, 1, 0, 64, .ro, 0, .none⟩
def poeCntEmpty : Fld := ⟨0x5, 0x50, 1, 0, 64, .ro, 0, .none⟩
def poeCntRows : Fld := ⟨0x5, 0x58, 1, 0, 64, .ro, 0, .none⟩
def poeCntBytes : Fld := ⟨0x5, 0x60, 1, 0, 64, .ro, 0, .none⟩
def poeCntBadidx : Fld := ⟨0x5, 0x68, 1, 0, 64, .ro, 0, .none⟩
def poeCntStale : Fld := ⟨0x5, 0x70, 1, 0, 64, .ro, 0, .none⟩

/-- The fields of page kind 0x05. -/
def fieldsPoe : List Fld :=
  [poeStatus_role, poeStatus_logical, poeStatus_seq, poeStatus_state, poeFlags_ovf, poeFlags_unf, poeFlags_inx, poeFlags_inv, poeBadidx_index, poeBadidx_slot, poeBadidx_pos, poeBadidxAt_seq, poeBadidxAt_batch, poeBadidxAt_valid, poeCntRecords, poeCntBags, poeCntEmpty, poeCntRows, poeCntBytes, poeCntBadidx, poeCntStale]

/-! Page kind 0x06, Txn (06 R232 to R235). -/

def txnStatus_hfail : Fld := ⟨0x6, 0x100, 1, 0, 4, .ro, 0x0, .none⟩
def txnStatus_seq : Fld := ⟨0x6, 0x100, 1, 8, 32, .ro, 0x0, .none⟩
def txnStatus_stage : Fld := ⟨0x6, 0x100, 1, 40, 15, .ro, 0x0, .none⟩
def txnForm_submitter : Fld := ⟨0x6, 0x108, 1, 0, 16, .rc, 0x0, .none⟩
def txnForm_flow : Fld := ⟨0x6, 0x108, 1, 16, 12, .rc, 0x0, .none⟩
def txnForm_check : Fld := ⟨0x6, 0x108, 1, 28, 4, .rc, 0x0, .none⟩
def txnForm_ofs : Fld := ⟨0x6, 0x108, 1, 32, 16, .rc, 0x0, .none⟩
def txnVote_vote : Fld := ⟨0x6, 0x110, 8, 0, 64, .ro, 0x0, .none⟩
def txnCntParts : Fld := ⟨0x6, 0x40, 1, 0, 64, .ro, 0, .none⟩
def txnCntCommit : Fld := ⟨0x6, 0x48, 1, 0, 64, .ro, 0, .none⟩
def txnCntEmpty : Fld := ⟨0x6, 0x50, 1, 0, 64, .ro, 0, .none⟩
def txnCntConflict : Fld := ⟨0x6, 0x58, 1, 0, 64, .ro, 0, .none⟩
def txnCntCmpfail : Fld := ⟨0x6, 0x60, 1, 0, 64, .ro, 0, .none⟩
def txnCntAddr : Fld := ⟨0x6, 0x68, 1, 0, 64, .ro, 0, .none⟩
def txnCntLimit : Fld := ⟨0x6, 0x70, 1, 0, 64, .ro, 0, .none⟩
def txnCntActions : Fld := ⟨0x6, 0x78, 1, 0, 64, .ro, 0, .none⟩
def txnCntStale : Fld := ⟨0x6, 0x80, 1, 0, 64, .ro, 0, .none⟩

/-- The fields of page kind 0x06. -/
def fieldsTxn : List Fld :=
  [txnStatus_hfail, txnStatus_seq, txnStatus_stage, txnForm_submitter, txnForm_flow, txnForm_check, txnForm_ofs, txnVote_vote, txnCntParts, txnCntCommit, txnCntEmpty, txnCntConflict, txnCntCmpfail, txnCntAddr, txnCntLimit, txnCntActions, txnCntStale]

/-! Page kind 0x07, Mov (07 R257, R258). -/

def movStatus_stopped : Fld := ⟨0x7, 0x100, 1, 0, 1, .ro, 0x0, .none⟩
def movStatus_failed : Fld := ⟨0x7, 0x100, 1, 1, 1, .ro, 0x0, .none⟩
def movStatus_busy : Fld := ⟨0x7, 0x100, 1, 8, 16, .ro, 0x0, .none⟩
def movChstat_ch : Fld := ⟨0x7, 0x108, 1, 0, 64, .ro, 0x0, .none⟩
def movBuserr_offset : Fld := ⟨0x7, 0x110, 1, 0, 40, .ro, 0x0, .none⟩
def movBuserr_pc : Fld := ⟨0x7, 0x110, 1, 40, 5, .ro, 0x0, .none⟩
def movBuserr_stack : Fld := ⟨0x7, 0x110, 1, 45, 5, .ro, 0x0, .none⟩
def movBuserr_write : Fld := ⟨0x7, 0x110, 1, 50, 1, .ro, 0x0, .none⟩
def movBuserr_valid : Fld := ⟨0x7, 0x110, 1, 51, 1, .ro, 0x0, .none⟩
def movCrec_body : Fld := ⟨0x7, 0x118, 6, 0, 64, .rwl, 0x0, .none⟩
def movCmd_channel : Fld := ⟨0x7, 0x148, 1, 0, 4, .wo, 0x0, .none⟩
def movCmd_cmd : Fld := ⟨0x7, 0x148, 1, 4, 4, .wo, 0x0, .none⟩
def movDigest_digest : Fld := ⟨0x7, 0x150, 6, 0, 64, .ro, 0x0, .none⟩
def movDigestAt_channel : Fld := ⟨0x7, 0x180, 1, 0, 4, .ro, 0x0, .none⟩
def movCntRecords : Fld := ⟨0x7, 0x40, 1, 0, 64, .ro, 0, .none⟩
def movCntBytes : Fld := ⟨0x7, 0x48, 1, 0, 64, .ro, 0, .none⟩
def movCntEmpty : Fld := ⟨0x7, 0x50, 1, 0, 64, .ro, 0, .none⟩
def movCntBuserr : Fld := ⟨0x7, 0x58, 1, 0, 64, .ro, 0, .none⟩
def movCntDigests : Fld := ⟨0x7, 0x60, 1, 0, 64, .ro, 0, .none⟩
def movCntStale : Fld := ⟨0x7, 0x68, 1, 0, 64, .ro, 0, .none⟩

/-- The fields of page kind 0x07. -/
def fieldsMov : List Fld :=
  [movStatus_stopped, movStatus_failed, movStatus_busy, movChstat_ch, movBuserr_offset, movBuserr_pc, movBuserr_stack, movBuserr_write, movBuserr_valid, movCrec_body, movCmd_channel, movCmd_cmd, movDigest_digest, movDigestAt_channel, movCntRecords, movCntBytes, movCntEmpty, movCntBuserr, movCntDigests, movCntStale]

/-! Page kind 0x08, Mem (08 R297). -/

def memSplit_nearUnits : Fld := ⟨0x8, 0x100, 1, 0, 8, .rwl, 0x0, .nv⟩
def memCapacity_c : Fld := ⟨0x8, 0x108, 1, 0, 40, .ro, 0, .none⟩
def memCapacity_stripes : Fld := ⟨0x8, 0x108, 1, 40, 3, .ro, 0x0, .nv⟩
def memCapacity_pending : Fld := ⟨0x8, 0x108, 1, 43, 1, .ro, 0x0, .none⟩
def memBand_band : Fld := ⟨0x8, 0x110, 1, 0, 2, .ro, 0x0, .none⟩
def memBand_hottest : Fld := ⟨0x8, 0x110, 1, 2, 5, .ro, 0x0, .none⟩
def memBand_temp : Fld := ⟨0x8, 0x110, 1, 8, 8, .ro, 0x0, .none⟩
def memUeLog_offset : Fld := ⟨0x8, 0x118, 1, 0, 40, .rc, 0x0, .none⟩
def memUeLog_pc : Fld := ⟨0x8, 0x118, 1, 40, 5, .rc, 0x0, .none⟩
def memUeLog_stack : Fld := ⟨0x8, 0x118, 1, 45, 5, .rc, 0x0, .none⟩
def memUeLog_copy : Fld := ⟨0x8, 0x118, 1, 50, 1, .rc, 0x0, .none⟩
def memUeLog_valid : Fld := ⟨0x8, 0x118, 1, 51, 1, .rc, 0x0, .none⟩
def memLostRegions_region : Fld := ⟨0x8, 0x120, 8, 0, 64, .ro, 0xFFFFFFFFFFFFFFFF, .none⟩
def memCntCe : Fld := ⟨0x8, 0x40, 1, 0, 64, .ro, 0, .none⟩
def memCntUe : Fld := ⟨0x8, 0x48, 1, 0, 64, .ro, 0, .none⟩
def memCntSppr : Fld := ⟨0x8, 0x50, 1, 0, 64, .ro, 0, .none⟩
def memCntRemap : Fld := ⟨0x8, 0x58, 1, 0, 64, .ro, 0, .none⟩
def memCntRetire : Fld := ⟨0x8, 0x60, 1, 0, 64, .ro, 0, .none⟩
def memCntCopyseg : Fld := ⟨0x8, 0x68, 1, 0, 64, .ro, 0, .none⟩

/-- The fields of page kind 0x08. -/
def fieldsMem : List Fld :=
  [memSplit_nearUnits, memCapacity_c, memCapacity_stripes, memCapacity_pending, memBand_band, memBand_hottest, memBand_temp, memUeLog_offset, memUeLog_pc, memUeLog_stack, memUeLog_copy, memUeLog_valid, memLostRegions_region, memCntCe, memCntUe, memCntSppr, memCntRemap, memCntRetire, memCntCopyseg]

/-! Page kind 0x09, Stk (08 R298, R299). -/

def memStkStatus_temp : Fld := ⟨0x9, 0x100, 1, 0, 8, .ro, 0x0, .none⟩
def memStkStatus_band : Fld := ⟨0x9, 0x100, 1, 8, 2, .ro, 0x0, .none⟩
def memStkStatus_selfref : Fld := ⟨0x9, 0x100, 1, 10, 1, .ro, 0x0, .none⟩
def memPcState_pc : Fld := ⟨0x9, 0x108, 1, 0, 64, .ro, 0x0, .none⟩
def memPcSel_pc : Fld := ⟨0x9, 0x110, 1, 0, 5, .rw, 0x0, .none⟩
def memPcDetail_remaps : Fld := ⟨0x9, 0x118, 1, 0, 7, .ro, 0x0, .none⟩
def memPcDetail_retired : Fld := ⟨0x9, 0x118, 1, 7, 7, .ro, 0x0, .none⟩
def memPcDetail_copied : Fld := ⟨0x9, 0x118, 1, 14, 11, .ro, 0x0, .none⟩
def memPcDetail_restoring : Fld := ⟨0x9, 0x118, 1, 25, 1, .ro, 0x0, .none⟩
def memPcDetail_lastPin : Fld := ⟨0x9, 0x118, 1, 26, 6, .ro, 0x0, .none⟩
def memStkCmd_pc : Fld := ⟨0x9, 0x120, 1, 0, 5, .wo, 0x0, .none⟩
def memStkCmd_cmd : Fld := ⟨0x9, 0x120, 1, 5, 3, .wo, 0x0, .none⟩
def memStkCntCe : Fld := ⟨0x9, 0x40, 1, 0, 64, .ro, 0, .none⟩
def memStkCntUe : Fld := ⟨0x9, 0x48, 1, 0, 64, .ro, 0, .none⟩

/-- The fields of page kind 0x09. -/
def fieldsStk : List Fld :=
  [memStkStatus_temp, memStkStatus_band, memStkStatus_selfref, memPcState_pc, memPcSel_pc, memPcDetail_remaps, memPcDetail_retired, memPcDetail_copied, memPcDetail_restoring, memPcDetail_lastPin, memStkCmd_pc, memStkCmd_cmd, memStkCntCe, memStkCntUe]

/-! Page kind 0x0A, Fab (09 R353, R354). -/

def fabPool_free : Fld := ⟨0xA, 0x100, 1, 0, 18, .ro, 0x20000, .none⟩
def fabPool_low : Fld := ⟨0xA, 0x100, 1, 18, 18, .rc, 0x20000, .none⟩
def fabLastLoss_src : Fld := ⟨0xA, 0x108, 1, 0, 16, .rc, 0x0, .none⟩
def fabLastLoss_flow : Fld := ⟨0xA, 0x108, 1, 16, 12, .rc, 0x0, .none⟩
def fabLastLoss_vc : Fld := ⟨0xA, 0x108, 1, 28, 2, .rc, 0x0, .none⟩
def fabLastLoss_valid : Fld := ⟨0xA, 0x108, 1, 30, 1, .rc, 0x0, .none⟩
def fabLastLoss_seq : Fld := ⟨0xA, 0x108, 1, 32, 20, .rc, 0x0, .none⟩
def fabCntCrc : Fld := ⟨0xA, 0x40, 1, 0, 64, .ro, 0, .none⟩
def fabCntMalformed : Fld := ⟨0xA, 0x48, 1, 0, 64, .ro, 0, .none⟩
def fabCntDup : Fld := ⟨0xA, 0x50, 1, 0, 64, .ro, 0, .none⟩
def fabCntWindow : Fld := ⟨0xA, 0x58, 1, 0, 64, .ro, 0, .none⟩
def fabCntFlush : Fld := ⟨0xA, 0x60, 1, 0, 64, .ro, 0, .none⟩
def fabCntNomatch : Fld := ⟨0xA, 0x68, 1, 0, 64, .ro, 0, .none⟩
def fabCntNoroute : Fld := ⟨0xA, 0x70, 1, 0, 64, .ro, 0, .none⟩

/-- The fields of page kind 0x0A. -/
def fieldsFab : List Fld :=
  [fabPool_free, fabPool_low, fabLastLoss_src, fabLastLoss_flow, fabLastLoss_vc, fabLastLoss_valid, fabLastLoss_seq, fabCntCrc, fabCntMalformed, fabCntDup, fabCntWindow, fabCntFlush, fabCntNomatch, fabCntNoroute]

/-! Page kind 0x0B, Port (09 R353, 11 R419). -/

def fabPortStatus_state : Fld := ⟨0xB, 0x100, 1, 0, 3, .ro, 0x0, .none⟩
def fabPortStatus_up : Fld := ⟨0xB, 0x100, 1, 3, 1, .ro, 0x0, .none⟩
def fabPortStatus_split : Fld := ⟨0xB, 0x100, 1, 4, 1, .ro, 0x0, .none⟩
def fabPortStatus_neighbour : Fld := ⟨0xB, 0x100, 1, 8, 16, .ro, 0xFFFF, .none⟩
def fabPortDisc_reason : Fld := ⟨0xB, 0x108, 1, 0, 4, .ro, 0x0, .none⟩
def fabPortDisc_remapped : Fld := ⟨0xB, 0x108, 1, 4, 1, .ro, 0x0, .none⟩
def fabPortDisc_nbrEp : Fld := ⟨0xB, 0x108, 1, 5, 1, .ro, 0x0, .none⟩
def fabPortDisc_nbrPort : Fld := ⟨0xB, 0x108, 1, 8, 9, .ro, 0x0, .none⟩
def fabPortDisc_logical : Fld := ⟨0xB, 0x108, 1, 17, 7, .ro, 0x0, .none⟩
def fabPortDisc_nbrFlags : Fld := ⟨0xB, 0x108, 1, 24, 8, .ro, 0x0, .none⟩
def fabPortDisc_foreseen : Fld := ⟨0xB, 0x108, 1, 32, 16, .ro, 0xFFFF, .none⟩
def fabPortDelay_delay : Fld := ⟨0xB, 0x110, 1, 0, 24, .ro, 0x0, .none⟩
def fabPortDelay_theta : Fld := ⟨0xB, 0x110, 1, 24, 24, .ro, 0x0, .none⟩
def fabPortNbrfw_digest : Fld := ⟨0xB, 0x118, 6, 0, 64, .ro, 0x0, .none⟩
def fabCntCodeerr : Fld := ⟨0xB, 0x40, 1, 0, 64, .ro, 0, .none⟩
def fabCntCrcFwd : Fld := ⟨0xB, 0x48, 1, 0, 64, .ro, 0, .none⟩
def fabCntOverrun : Fld := ⟨0xB, 0x50, 1, 0, 64, .ro, 0, .none⟩
def fabCntResent : Fld := ⟨0xB, 0x58, 1, 0, 64, .ro, 0, .none⟩
def fabCntRreqTx : Fld := ⟨0xB, 0x60, 1, 0, 64, .ro, 0, .none⟩
def fabCntRreqRx : Fld := ⟨0xB, 0x68, 1, 0, 64, .ro, 0, .none⟩
def fabCntSvcdrop : Fld := ⟨0xB, 0x70, 1, 0, 64, .ro, 0, .none⟩
def fabCntUpdown : Fld := ⟨0xB, 0x78, 1, 0, 64, .ro, 0, .none⟩
def fabCntIdent : Fld := ⟨0xB, 0x80, 1, 0, 64, .ro, 0, .none⟩
def fabCntIdentbad : Fld := ⟨0xB, 0x88, 1, 0, 64, .ro, 0, .none⟩
def fabCntTime : Fld := ⟨0xB, 0x90, 1, 0, 64, .ro, 0, .none⟩

/-- The fields of page kind 0x0B. -/
def fieldsPort : List Fld :=
  [fabPortStatus_state, fabPortStatus_up, fabPortStatus_split, fabPortStatus_neighbour, fabPortDisc_reason, fabPortDisc_remapped, fabPortDisc_nbrEp, fabPortDisc_nbrPort, fabPortDisc_logical, fabPortDisc_nbrFlags, fabPortDisc_foreseen, fabPortDelay_delay, fabPortDelay_theta, fabPortNbrfw_digest, fabCntCodeerr, fabCntCrcFwd, fabCntOverrun, fabCntResent, fabCntRreqTx, fabCntRreqRx, fabCntSvcdrop, fabCntUpdown, fabCntIdent, fabCntIdentbad] ++
  [fabCntTime]

/-! Page kind 0x0C, Lane (10 R386 to R389). -/

def laneCfg_split : Fld := ⟨0xC, 0x100, 1, 0, 6, .rwl, 0x0, .nv⟩
def laneSpareReach_reach0 : Fld := ⟨0xC, 0x108, 1, 0, 6, .rwl, 0x0, .nv⟩
def laneSpareReach_reach1 : Fld := ⟨0xC, 0x108, 1, 8, 6, .rwl, 0x0, .nv⟩
def laneSpareMap_use0 : Fld := ⟨0xC, 0x110, 1, 0, 1, .ro, 0x0, .none⟩
def laneSpareMap_port0 : Fld := ⟨0xC, 0x110, 1, 1, 3, .ro, 0x0, .none⟩
def laneSpareMap_lane0 : Fld := ⟨0xC, 0x110, 1, 4, 3, .ro, 0x0, .none⟩
def laneSpareMap_fail0 : Fld := ⟨0xC, 0x110, 1, 7, 1, .ro, 0x0, .none⟩
def laneSpareMap_use1 : Fld := ⟨0xC, 0x110, 1, 8, 1, .ro, 0, .none⟩
def laneSpareMap_port1 : Fld := ⟨0xC, 0x110, 1, 9, 3, .ro, 0, .none⟩
def laneSpareMap_lane1 : Fld := ⟨0xC, 0x110, 1, 12, 3, .ro, 0, .none⟩
def laneSpareMap_fail1 : Fld := ⟨0xC, 0x110, 1, 15, 1, .ro, 0, .none⟩
def laneSel_lane : Fld := ⟨0xC, 0x118, 1, 0, 6, .rw, 0x0, .none⟩
def laneStat_stage : Fld := ⟨0xC, 0x120, 1, 0, 4, .ro, 0x0, .none⟩
def laneStat_los : Fld := ⟨0xC, 0x120, 1, 4, 1, .ro, 0x1, .none⟩
def laneStat_lol : Fld := ⟨0xC, 0x120, 1, 5, 1, .ro, 0x1, .none⟩
def laneStat_inverted : Fld := ⟨0xC, 0x120, 1, 6, 1, .ro, 0x0, .none⟩
def laneStat_reversed : Fld := ⟨0xC, 0x120, 1, 7, 1, .ro, 0x0, .none⟩
def laneStat_logical : Fld := ⟨0xC, 0x120, 1, 8, 3, .ro, 0x0, .none⟩
def laneStat_skew : Fld := ⟨0xC, 0x120, 1, 16, 8, .ro, 0x0, .none⟩
def laneStat_freq : Fld := ⟨0xC, 0x120, 1, 24, 8, .ro, 0x0, .none⟩
def laneCodeviol_code : Fld := ⟨0xC, 0x128, 1, 0, 32, .rc, 0x0, .none⟩
def laneCodeviol_disp : Fld := ⟨0xC, 0x128, 1, 32, 32, .rc, 0x0, .none⟩
def lanePrbs_err : Fld := ⟨0xC, 0x130, 1, 0, 32, .rc, 0x0, .none⟩
def lanePrbs_checked : Fld := ⟨0xC, 0x130, 1, 32, 32, .rc, 0x0, .none⟩
def laneTxeq_pre : Fld := ⟨0xC, 0x138, 1, 0, 6, .rwl, 0x4, .nv⟩
def laneTxeq_main : Fld := ⟨0xC, 0x138, 1, 6, 6, .rwl, 0x30, .nv⟩
def laneTxeq_post : Fld := ⟨0xC, 0x138, 1, 12, 6, .rwl, 0x8, .nv⟩
def laneTest_loop : Fld := ⟨0xC, 0x140, 1, 0, 2, .rwl, 0x0, .none⟩
def laneTest_gen : Fld := ⟨0xC, 0x140, 1, 2, 1, .rwl, 0x0, .none⟩
def laneTest_chk : Fld := ⟨0xC, 0x140, 1, 3, 1, .rwl, 0x0, .none⟩
def laneTest_all : Fld := ⟨0xC, 0x140, 1, 4, 1, .rwl, 0x0, .none⟩
def laneLastFail_lane : Fld := ⟨0xC, 0x148, 1, 0, 6, .rc, 0x0, .none⟩
def laneLastFail_reason : Fld := ⟨0xC, 0x148, 1, 6, 4, .rc, 0x0, .none⟩
def laneLastFail_valid : Fld := ⟨0xC, 0x148, 1, 10, 1, .rc, 0x0, .none⟩
def laneCntTrain : Fld := ⟨0xC, 0x40, 1, 0, 64, .ro, 0, .none⟩
def laneCntTrainfail : Fld := ⟨0xC, 0x48, 1, 0, 64, .ro, 0, .none⟩
def laneCntLos : Fld := ⟨0xC, 0x50, 1, 0, 64, .ro, 0, .none⟩
def laneCntLol : Fld := ⟨0xC, 0x58, 1, 0, 64, .ro, 0, .none⟩
def laneCntSpare : Fld := ⟨0xC, 0x60, 1, 0, 64, .ro, 0, .none⟩
def laneCntRecover : Fld := ⟨0xC, 0x68, 1, 0, 64, .ro, 0, .none⟩
def laneCntMgmtbad : Fld := ⟨0xC, 0x70, 1, 0, 64, .ro, 0, .none⟩
def laneCntTxdiscard : Fld := ⟨0xC, 0x78, 1, 0, 64, .ro, 0, .none⟩

/-- The fields of page kind 0x0C. -/
def fieldsLane : List Fld :=
  [laneCfg_split, laneSpareReach_reach0, laneSpareReach_reach1, laneSpareMap_use0, laneSpareMap_port0, laneSpareMap_lane0, laneSpareMap_fail0, laneSpareMap_use1, laneSpareMap_port1, laneSpareMap_lane1, laneSpareMap_fail1, laneSel_lane, laneStat_stage, laneStat_los, laneStat_lol, laneStat_inverted, laneStat_reversed, laneStat_logical, laneStat_skew, laneStat_freq, laneCodeviol_code, laneCodeviol_disp, lanePrbs_err, lanePrbs_checked] ++
  [laneTxeq_pre, laneTxeq_main, laneTxeq_post, laneTest_loop, laneTest_gen, laneTest_chk, laneTest_all, laneLastFail_lane, laneLastFail_reason, laneLastFail_valid, laneCntTrain, laneCntTrainfail, laneCntLos, laneCntLol, laneCntSpare, laneCntRecover, laneCntMgmtbad, laneCntTxdiscard]

/-! Page kind 0x0D, Mer (11 R420, R421). -/

def merCount_count : Fld := ⟨0xD, 0x100, 1, 0, 64, .ro, 0x0, .none⟩
def merSync_state : Fld := ⟨0xD, 0x108, 1, 0, 2, .ro, 0x0, .none⟩
def merSync_hold : Fld := ⟨0xD, 0x108, 1, 2, 1, .ro, 0x0, .none⟩
def merSync_parentPort : Fld := ⟨0xD, 0x108, 1, 3, 9, .ro, 0x0, .none⟩
def merSync_depth : Fld := ⟨0xD, 0x108, 1, 12, 4, .ro, 0x0, .none⟩
def merSync_theta : Fld := ⟨0xD, 0x108, 1, 16, 24, .ro, 0x0, .none⟩
def merCntPhase : Fld := ⟨0xD, 0x40, 1, 0, 64, .ro, 0, .none⟩
def merCntSet : Fld := ⟨0xD, 0x48, 1, 0, 64, .ro, 0, .none⟩
def merCntSyncfail : Fld := ⟨0xD, 0x50, 1, 0, 64, .ro, 0, .none⟩

/-- The fields of page kind 0x0D. -/
def fieldsMer : List Fld :=
  [merCount_count, merSync_state, merSync_hold, merSync_parentPort, merSync_depth, merSync_theta, merCntPhase, merCntSet, merCntSyncfail]

/-! Page kind 0x0E, Host (13 R475). -/

def hostCfg_overhead : Fld := ⟨0xE, 0x100, 1, 0, 8, .rw, 0x14, .nv⟩
def hostCfg_ageExp : Fld := ⟨0xE, 0x100, 1, 8, 5, .rw, 0x14, .nv⟩
def hostCfg_redW : Fld := ⟨0xE, 0x100, 1, 13, 3, .rw, 0x3, .nv⟩
def hostCfg_ctrlPort : Fld := ⟨0xE, 0x100, 1, 16, 16, .rw, 0x9CA4, .nv⟩
def hostCfg_ipv4En : Fld := ⟨0xE, 0x100, 1, 32, 1, .rw, 0x0, .nv⟩
def hostCfg_ipv6En : Fld := ⟨0xE, 0x100, 1, 33, 1, .rw, 0x0, .nv⟩
def hostIpv4_addr : Fld := ⟨0xE, 0x108, 1, 0, 32, .rw, 0x0, .nv⟩
def hostIpv6Lo_addr : Fld := ⟨0xE, 0x110, 2, 0, 64, .rw, 0x0, .nv⟩
def hostStaSel_index : Fld := ⟨0xE, 0x120, 1, 0, 10, .rw, 0x0, .none⟩
def hostStaEntry_mac : Fld := ⟨0xE, 0x128, 1, 0, 48, .rw, 0x0, .nv⟩
def hostStaEntry_vid : Fld := ⟨0xE, 0x128, 1, 48, 12, .rw, 0x0, .nv⟩
def hostStaEntry_port : Fld := ⟨0xE, 0x128, 1, 60, 2, .rw, 0x0, .nv⟩
def hostStaEntry_valid : Fld := ⟨0xE, 0x128, 1, 62, 1, .rw, 0x0, .nv⟩
def hostStaAttr_policer : Fld := ⟨0xE, 0x130, 1, 0, 6, .rw, 0x0, .nv⟩
def hostStaAttr_local : Fld := ⟨0xE, 0x130, 1, 6, 1, .rw, 0x0, .nv⟩
def hostStaAttr_forward : Fld := ⟨0xE, 0x130, 1, 7, 1, .rw, 0x0, .nv⟩
def hostPolSel_index : Fld := ⟨0xE, 0x138, 1, 0, 6, .rw, 0x0, .none⟩
def hostPolRate_mode : Fld := ⟨0xE, 0x140, 1, 0, 1, .rw, 0x0, .nv⟩
def hostPolRate_enable : Fld := ⟨0xE, 0x140, 1, 1, 1, .rw, 0x0, .nv⟩
def hostPolRate_cir : Fld := ⟨0xE, 0x140, 1, 2, 17, .rw, 0x0, .nv⟩
def hostPolRate_pir : Fld := ⟨0xE, 0x140, 1, 19, 17, .rw, 0x0, .nv⟩
def hostPolBurst_cbs : Fld := ⟨0xE, 0x148, 1, 0, 24, .rw, 0x0, .nv⟩
def hostPolBurst_ebsPbs : Fld := ⟨0xE, 0x148, 1, 24, 24, .rw, 0x0, .nv⟩
def hostStranger_sa : Fld := ⟨0xE, 0x150, 1, 0, 48, .rc, 0x0, .none⟩
def hostStranger_vid : Fld := ⟨0xE, 0x150, 1, 48, 12, .rc, 0x0, .none⟩
def hostStranger_port : Fld := ⟨0xE, 0x150, 1, 60, 2, .rc, 0x0, .none⟩
def hostStranger_valid : Fld := ⟨0xE, 0x150, 1, 62, 1, .rc, 0x0, .none⟩
def hostCapBase_base : Fld := ⟨0xE, 0x158, 1, 0, 40, .rw, 0x0, .none⟩
def hostCapSize_size : Fld := ⟨0xE, 0x160, 1, 0, 33, .rw, 0x0, .none⟩
def hostCapProd_prod : Fld := ⟨0xE, 0x168, 1, 0, 64, .ro, 0x0, .none⟩
def hostCapCons_cons : Fld := ⟨0xE, 0x170, 1, 0, 64, .rw, 0x0, .none⟩
def hostCapCtrl_enable : Fld := ⟨0xE, 0x178, 1, 0, 1, .rw, 0x0, .none⟩
def hostCapCtrl_rx : Fld := ⟨0xE, 0x178, 1, 1, 4, .rw, 0x0, .none⟩
def hostCapCtrl_tx : Fld := ⟨0xE, 0x178, 1, 5, 4, .rw, 0x0, .none⟩
def hostCapCtrl_drops : Fld := ⟨0xE, 0x178, 1, 9, 1, .rw, 0x0, .none⟩
def hostCapCtrl_cells : Fld := ⟨0xE, 0x178, 1, 10, 1, .rw, 0x0, .none⟩
def hostCapCtrl_sampleExp : Fld := ⟨0xE, 0x178, 1, 11, 5, .rw, 0x0, .none⟩
def hostCapPorts0_ports : Fld := ⟨0xE, 0x180, 1, 0, 64, .rw, 0, .none⟩
def hostCapPorts1_ports : Fld := ⟨0xE, 0x188, 1, 0, 32, .rw, 0, .none⟩
def hostQpSel_index : Fld := ⟨0xE, 0x190, 1, 0, 11, .rw, 0x0, .none⟩
def hostQpCfg_remoteQpn : Fld := ⟨0xE, 0x198, 1, 0, 24, .rw, 0x0, .none⟩
def hostQpCfg_valid : Fld := ⟨0xE, 0x198, 1, 24, 1, .rw, 0x0, .none⟩
def hostQpCfg_pmtu : Fld := ⟨0xE, 0x198, 1, 25, 2, .rw, 0x0, .none⟩
def hostQpCfg_station : Fld := ⟨0xE, 0x198, 1, 27, 10, .rw, 0x0, .none⟩
def hostQpCfg_error : Fld := ⟨0xE, 0x198, 1, 37, 1, .ro, 0x0, .none⟩
def hostQpPsn_epsn : Fld := ⟨0xE, 0x1A0, 1, 0, 24, .rw, 0x0, .none⟩
def hostWinSel_index : Fld := ⟨0xE, 0x1A8, 1, 0, 8, .rw, 0x0, .none⟩
def hostWinKey_rkey : Fld := ⟨0xE, 0x1B0, 1, 0, 32, .rw, 0x0, .none⟩
def hostWinKey_valid : Fld := ⟨0xE, 0x1B0, 1, 32, 1, .rw, 0x0, .none⟩
def hostWinKey_write : Fld := ⟨0xE, 0x1B0, 1, 33, 1, .rw, 0x0, .none⟩
def hostWinKey_read : Fld := ⟨0xE, 0x1B0, 1, 34, 1, .rw, 0x0, .none⟩
def hostWinKey_closed : Fld := ⟨0xE, 0x1B0, 1, 35, 1, .ro, 0x0, .none⟩
def hostWinKey_digesting : Fld := ⟨0xE, 0x1B0, 1, 36, 1, .ro, 0x0, .none⟩
def hostWinBase_base : Fld := ⟨0xE, 0x1B8, 1, 0, 40, .rw, 0x0, .none⟩
def hostWinLen_len : Fld := ⟨0xE, 0x1C0, 1, 0, 40, .rw, 0x0, .none⟩
def hostWinCmd_window : Fld := ⟨0xE, 0x1C8, 1, 0, 8, .wo, 0x0, .none⟩
def hostWinCmd_cmd : Fld := ⟨0xE, 0x1C8, 1, 8, 4, .wo, 0x0, .none⟩
def hostWinDigest_digest : Fld := ⟨0xE, 0x1D0, 6, 0, 64, .ro, 0x0, .none⟩
def hostWinDigestAt_seq : Fld := ⟨0xE, 0x200, 1, 0, 32, .ro, 0x0, .none⟩
def hostCntCaprec : Fld := ⟨0xE, 0x40, 1, 0, 64, .ro, 0, .none⟩
def hostCntCapdrop : Fld := ⟨0xE, 0x48, 1, 0, 64, .ro, 0, .none⟩
def hostCntDtlsSess : Fld := ⟨0xE, 0x50, 1, 0, 64, .ro, 0, .none⟩
def hostCntDtlsBad : Fld := ⟨0xE, 0x58, 1, 0, 64, .ro, 0, .none⟩
def hostCntRdmaPkt : Fld := ⟨0xE, 0x60, 1, 0, 64, .ro, 0, .none⟩
def hostCntRdmaNak : Fld := ⟨0xE, 0x68, 1, 0, 64, .ro, 0, .none⟩
def hostCntIcrc : Fld := ⟨0xE, 0x70, 1, 0, 64, .ro, 0, .none⟩
def hostCntSealed : Fld := ⟨0xE, 0x78, 1, 0, 64, .ro, 0, .none⟩
def hostCntDigests : Fld := ⟨0xE, 0x80, 1, 0, 64, .ro, 0, .none⟩

/-- The fields of page kind 0x0E. -/
def fieldsHost : List Fld :=
  [hostCfg_overhead, hostCfg_ageExp, hostCfg_redW, hostCfg_ctrlPort, hostCfg_ipv4En, hostCfg_ipv6En, hostIpv4_addr, hostIpv6Lo_addr, hostStaSel_index, hostStaEntry_mac, hostStaEntry_vid, hostStaEntry_port, hostStaEntry_valid, hostStaAttr_policer, hostStaAttr_local, hostStaAttr_forward, hostPolSel_index, hostPolRate_mode, hostPolRate_enable, hostPolRate_cir, hostPolRate_pir, hostPolBurst_cbs, hostPolBurst_ebsPbs, hostStranger_sa] ++
  [hostStranger_vid, hostStranger_port, hostStranger_valid, hostCapBase_base, hostCapSize_size, hostCapProd_prod, hostCapCons_cons, hostCapCtrl_enable, hostCapCtrl_rx, hostCapCtrl_tx, hostCapCtrl_drops, hostCapCtrl_cells, hostCapCtrl_sampleExp, hostCapPorts0_ports, hostCapPorts1_ports, hostQpSel_index, hostQpCfg_remoteQpn, hostQpCfg_valid, hostQpCfg_pmtu, hostQpCfg_station, hostQpCfg_error, hostQpPsn_epsn, hostWinSel_index, hostWinKey_rkey] ++
  [hostWinKey_valid, hostWinKey_write, hostWinKey_read, hostWinKey_closed, hostWinKey_digesting, hostWinBase_base, hostWinLen_len, hostWinCmd_window, hostWinCmd_cmd, hostWinDigest_digest, hostWinDigestAt_seq, hostCntCaprec, hostCntCapdrop, hostCntDtlsSess, hostCntDtlsBad, hostCntRdmaPkt, hostCntRdmaNak, hostCntIcrc, hostCntSealed, hostCntDigests]

/-! Page kind 0x0F, Hport (13 R474). -/

def hostPortCfg_enable : Fld := ⟨0xF, 0x100, 1, 0, 1, .rw, 0x0, .nv⟩
def hostPortCfg_phy : Fld := ⟨0xF, 0x100, 1, 1, 2, .rw, 0x0, .nv⟩
def hostPortCfg_an : Fld := ⟨0xF, 0x100, 1, 3, 1, .rw, 0x1, .nv⟩
def hostPortCfg_maxFrame : Fld := ⟨0xF, 0x100, 1, 4, 14, .rw, 0x5F2, .nv⟩
def hostPortCfg_pvid : Fld := ⟨0xF, 0x100, 1, 18, 12, .rw, 0x1, .nv⟩
def hostPortCfg_pcpMap : Fld := ⟨0xF, 0x100, 1, 30, 24, .rw, 0xFAC688, .nv⟩
def hostPortMac_mac : Fld := ⟨0xF, 0x108, 1, 0, 48, .rw, 0x0, .nv⟩
def hostPortStatus_link : Fld := ⟨0xF, 0x110, 1, 0, 1, .ro, 0x0, .none⟩
def hostPortStatus_aligned : Fld := ⟨0xF, 0x110, 1, 1, 1, .ro, 0x0, .none⟩
def hostPortStatus_anDone : Fld := ⟨0xF, 0x110, 1, 2, 1, .ro, 0x0, .none⟩
def hostPortVlan0_member : Fld := ⟨0xF, 0x118, 1, 0, 64, .rw, 2, .nv⟩
def hostPortVlan_member : Fld := ⟨0xF, 0x120, 63, 0, 64, .rw, 0, .nv⟩
def hostQ_weight : Fld := ⟨0xF, 0x318, 8, 0, 8, .rw, 0x1, .nv⟩
def hostQ_rate : Fld := ⟨0xF, 0x318, 8, 8, 17, .rw, 0x0, .nv⟩
def hostQ_burst : Fld := ⟨0xF, 0x318, 8, 25, 20, .rw, 0x10000, .nv⟩
def hostQ_limit : Fld := ⟨0xF, 0x318, 8, 45, 16, .rw, 0x100, .nv⟩
def hostRedG_min : Fld := ⟨0xF, 0x358, 16, 0, 16, .rw, 0xFFFF, .nv⟩
def hostRedG_max : Fld := ⟨0xF, 0x358, 16, 16, 16, .rw, 0xFFFF, .nv⟩
def hostRedG_maxp : Fld := ⟨0xF, 0x358, 16, 32, 8, .rw, 0x0, .nv⟩
def hostCntRxframes : Fld := ⟨0xF, 0x40, 1, 0, 64, .ro, 0, .none⟩
def hostCntRxbytes : Fld := ⟨0xF, 0x48, 1, 0, 64, .ro, 0, .none⟩
def hostCntTxframes : Fld := ⟨0xF, 0x50, 1, 0, 64, .ro, 0, .none⟩
def hostCntTxbytes : Fld := ⟨0xF, 0x58, 1, 0, 64, .ro, 0, .none⟩
def hostCntFcs : Fld := ⟨0xF, 0x60, 1, 0, 64, .ro, 0, .none⟩
def hostCntLength : Fld := ⟨0xF, 0x68, 1, 0, 64, .ro, 0, .none⟩
def hostCntMacctl : Fld := ⟨0xF, 0x70, 1, 0, 64, .ro, 0, .none⟩
def hostCntVlan : Fld := ⟨0xF, 0x78, 1, 0, 64, .ro, 0, .none⟩
def hostCntStranger : Fld := ⟨0xF, 0x80, 1, 0, 64, .ro, 0, .none⟩
def hostCntRed : Fld := ⟨0xF, 0x88, 1, 0, 64, .ro, 0, .none⟩
def hostCntNodest : Fld := ⟨0xF, 0x90, 1, 0, 64, .ro, 0, .none⟩
def hostCntLocaldrop : Fld := ⟨0xF, 0x98, 1, 0, 64, .ro, 0, .none⟩
def hostCntWredG : Fld := ⟨0xF, 0xA0, 1, 0, 64, .ro, 0, .none⟩
def hostCntWredY : Fld := ⟨0xF, 0xA8, 1, 0, 64, .ro, 0, .none⟩
def hostCntTail : Fld := ⟨0xF, 0xB0, 1, 0, 64, .ro, 0, .none⟩
def hostCntAged : Fld := ⟨0xF, 0xB8, 1, 0, 64, .ro, 0, .none⟩
def hostCntNobuf : Fld := ⟨0xF, 0xC0, 1, 0, 64, .ro, 0, .none⟩
def hostCntFecCorr : Fld := ⟨0xF, 0xC8, 1, 0, 64, .ro, 0, .none⟩
def hostCntFecUncorr : Fld := ⟨0xF, 0xD0, 1, 0, 64, .ro, 0, .none⟩

/-- The fields of page kind 0x0F. -/
def fieldsHport : List Fld :=
  [hostPortCfg_enable, hostPortCfg_phy, hostPortCfg_an, hostPortCfg_maxFrame, hostPortCfg_pvid, hostPortCfg_pcpMap, hostPortMac_mac, hostPortStatus_link, hostPortStatus_aligned, hostPortStatus_anDone, hostPortVlan0_member, hostPortVlan_member, hostQ_weight, hostQ_rate, hostQ_burst, hostQ_limit, hostRedG_min, hostRedG_max, hostRedG_maxp, hostCntRxframes, hostCntRxbytes, hostCntTxframes, hostCntTxbytes, hostCntFcs] ++
  [hostCntLength, hostCntMacctl, hostCntVlan, hostCntStranger, hostCntRed, hostCntNodest, hostCntLocaldrop, hostCntWredG, hostCntWredY, hostCntTail, hostCntAged, hostCntNobuf, hostCntFecCorr, hostCntFecUncorr]

/-! Page kind 0x10, Buf (14 R490). -/

def bufCfg_cnpEn : Fld := ⟨0x10, 0x100, 1, 0, 1, .rw, 0x1, .none⟩
def bufLevel_levelC : Fld := ⟨0x10, 0x108, 1, 0, 3, .ro, 0x0, .none⟩
def bufLevel_levelS : Fld := ⟨0x10, 0x108, 1, 3, 3, .ro, 0x0, .none⟩
def bufLevel_levelM : Fld := ⟨0x10, 0x108, 1, 6, 3, .ro, 0x0, .none⟩
def bufLevel_levelL : Fld := ⟨0x10, 0x108, 1, 9, 3, .ro, 0x0, .none⟩
def bufLevel_peak : Fld := ⟨0x10, 0x108, 1, 12, 3, .rc, 0x0, .none⟩
def bufFree_freeS : Fld := ⟨0x10, 0x110, 1, 0, 14, .ro, 0x2000, .none⟩
def bufFree_freeM : Fld := ⟨0x10, 0x110, 1, 14, 12, .ro, 0x800, .none⟩
def bufFree_freeL : Fld := ⟨0x10, 0x110, 1, 26, 10, .ro, 0x200, .none⟩
def bufFree_broken : Fld := ⟨0x10, 0x110, 1, 36, 1, .ro, 0x0, .none⟩
def bufBadrel_index : Fld := ⟨0x10, 0x118, 1, 0, 17, .rc, 0x0, .none⟩
def bufBadrel_pool : Fld := ⟨0x10, 0x118, 1, 17, 2, .rc, 0x0, .none⟩
def bufBadrel_owner : Fld := ⟨0x10, 0x118, 1, 19, 7, .rc, 0x0, .none⟩
def bufBadrel_freed : Fld := ⟨0x10, 0x118, 1, 26, 1, .rc, 0x0, .none⟩
def bufBadrel_valid : Fld := ⟨0x10, 0x118, 1, 27, 1, .rc, 0x0, .none⟩
def bufCntLevel : Fld := ⟨0x10, 0x40, 1, 0, 64, .ro, 0, .none⟩
def bufCntCnp : Fld := ⟨0x10, 0x48, 1, 0, 64, .ro, 0, .none⟩
def bufCntL2drop : Fld := ⟨0x10, 0x50, 1, 0, 64, .ro, 0, .none⟩
def bufCntL3drop : Fld := ⟨0x10, 0x58, 1, 0, 64, .ro, 0, .none⟩
def bufCntBadrel : Fld := ⟨0x10, 0x60, 1, 0, 64, .ro, 0, .none⟩

/-- The fields of page kind 0x10. -/
def fieldsBuf : List Fld :=
  [bufCfg_cnpEn, bufLevel_levelC, bufLevel_levelS, bufLevel_levelM, bufLevel_levelL, bufLevel_peak, bufFree_freeS, bufFree_freeM, bufFree_freeL, bufFree_broken, bufBadrel_index, bufBadrel_pool, bufBadrel_owner, bufBadrel_freed, bufBadrel_valid, bufCntLevel, bufCntCnp, bufCntL2drop, bufCntL3drop, bufCntBadrel]

/-! Page kind 0x11, Sec (15 R519, 16 R547, 20 R620). -/

def secCtlLast_status : Fld := ⟨0x11, 0x100, 1, 0, 8, .rc, 0x0, .none⟩
def secCtlLast_type : Fld := ⟨0x11, 0x100, 1, 8, 8, .rc, 0x0, .none⟩
def secCtlLast_index : Fld := ⟨0x11, 0x100, 1, 16, 16, .rc, 0x0, .none⟩
def secCtlLast_session : Fld := ⟨0x11, 0x100, 1, 32, 3, .rc, 0x0, .none⟩
def secCtlLast_valid : Fld := ⟨0x11, 0x100, 1, 35, 1, .rc, 0x0, .none⟩
def secState_owned : Fld := ⟨0x11, 0x108, 1, 0, 1, .ro, 0, .nv⟩
def secState_cosign : Fld := ⟨0x11, 0x108, 1, 1, 1, .ro, 0, .nv⟩
def secState_bootSlot : Fld := ⟨0x11, 0x108, 1, 2, 1, .ro, 0, .start⟩
def secState_fallback : Fld := ⟨0x11, 0x108, 1, 3, 1, .ro, 0, .start⟩
def secState_epoch : Fld := ⟨0x11, 0x108, 1, 8, 32, .ro, 0, .nv⟩
def secSvn_svn : Fld := ⟨0x11, 0x110, 1, 0, 32, .ro, 1, .nv⟩
def secSvn_runSvn : Fld := ⟨0x11, 0x110, 1, 32, 32, .ro, 1, .start⟩
def secFwState_slotA : Fld := ⟨0x11, 0x118, 1, 0, 2, .ro, 1, .nv⟩
def secFwState_slotB : Fld := ⟨0x11, 0x118, 1, 2, 2, .ro, 0, .nv⟩
def secFwState_active : Fld := ⟨0x11, 0x118, 1, 4, 1, .ro, 0, .nv⟩
def secFwCmd_cmd : Fld := ⟨0x11, 0x120, 1, 0, 4, .wo, 0x0, .none⟩
def secFwCmd_slot : Fld := ⟨0x11, 0x120, 1, 4, 1, .wo, 0x0, .none⟩
def secIdent_digest : Fld := ⟨0x11, 0x128, 6, 0, 64, .ro, 0, .start⟩
def secFwdig_digest : Fld := ⟨0x11, 0x158, 6, 0, 64, .ro, 0, .start⟩
def secDevrec_digest : Fld := ⟨0x11, 0x188, 6, 0, 64, .ro, 0, .start⟩
def secFwAct_pending : Fld := ⟨0x11, 0x1B8, 1, 0, 1, .rw, 0x0, .none⟩
def secFwAct_done : Fld := ⟨0x11, 0x1B8, 1, 1, 1, .ro, 0, .start⟩
def secCtlCntRead : Fld := ⟨0x11, 0x40, 1, 0, 64, .ro, 0, .kept⟩
def secCtlCntWrite : Fld := ⟨0x11, 0x48, 1, 0, 64, .ro, 0, .kept⟩
def secCtlCntRefused : Fld := ⟨0x11, 0x50, 1, 0, 64, .ro, 0, .kept⟩
def secCtlCntEmpty : Fld := ⟨0x11, 0x58, 1, 0, 64, .ro, 0, .kept⟩
def secCtlCntOver : Fld := ⟨0x11, 0x60, 1, 0, 64, .ro, 0, .kept⟩
def secCtlCntResent : Fld := ⟨0x11, 0x68, 1, 0, 64, .ro, 0, .kept⟩
def secCntAttest : Fld := ⟨0x11, 0x70, 1, 0, 64, .ro, 0, .kept⟩
def secCntImageBad : Fld := ⟨0x11, 0x78, 1, 0, 64, .ro, 0, .kept⟩
def secCntFallback : Fld := ⟨0x11, 0x80, 1, 0, 64, .ro, 0, .kept⟩

/-- The fields of page kind 0x11. -/
def fieldsSec : List Fld :=
  [secCtlLast_status, secCtlLast_type, secCtlLast_index, secCtlLast_session, secCtlLast_valid, secState_owned, secState_cosign, secState_bootSlot, secState_fallback, secState_epoch, secSvn_svn, secSvn_runSvn, secFwState_slotA, secFwState_slotB, secFwState_active, secFwCmd_cmd, secFwCmd_slot, secIdent_digest, secFwdig_digest, secDevrec_digest, secFwAct_pending, secFwAct_done, secCtlCntRead, secCtlCntWrite] ++
  [secCtlCntRefused, secCtlCntEmpty, secCtlCntOver, secCtlCntResent, secCntAttest, secCntImageBad, secCntFallback]

/-! Page kind 0x12, Ct (12 R445). -/

def secCtCfg_mode : Fld := ⟨0x12, 0x100, 1, 0, 1, .rwl, 0x0, .kept⟩
def secCtCmd_cmd : Fld := ⟨0x12, 0x108, 1, 0, 4, .wo, 0x0, .none⟩
def secCtNext_next : Fld := ⟨0x12, 0x110, 1, 0, 64, .ro, 0x0, .kept⟩
def secCtFirst_first : Fld := ⟨0x12, 0x118, 1, 0, 64, .ro, 0x0, .kept⟩
def secCtAck_ack : Fld := ⟨0x12, 0x120, 1, 0, 64, .rw, 0x0, .kept⟩
def secCtState_open : Fld := ⟨0x12, 0x128, 1, 0, 1, .ro, 0x0, .kept⟩
def secCtState_full : Fld := ⟨0x12, 0x128, 1, 1, 1, .ro, 0x0, .kept⟩
def secCtState_certSeq : Fld := ⟨0x12, 0x128, 1, 32, 32, .ro, 0x0, .kept⟩
def secCtRhead_head : Fld := ⟨0x12, 0x130, 6, 0, 64, .ro, 0x0, .kept⟩
def secCtXhead_head : Fld := ⟨0x12, 0x160, 6, 0, 64, .ro, 0x0, .kept⟩
def secCtCntEntries : Fld := ⟨0x12, 0x40, 1, 0, 64, .ro, 0, .kept⟩
def secCtCntCerts : Fld := ⟨0x12, 0x48, 1, 0, 64, .ro, 0, .kept⟩
def secCtCntDrop : Fld := ⟨0x12, 0x50, 1, 0, 64, .ro, 0, .kept⟩

/-- The fields of page kind 0x12. -/
def fieldsCt : List Fld :=
  [secCtCfg_mode, secCtCmd_cmd, secCtNext_next, secCtFirst_first, secCtAck_ack, secCtState_open, secCtState_full, secCtState_certSeq, secCtRhead_head, secCtXhead_head, secCtCntEntries, secCtCntCerts, secCtCntDrop]

/-! Page kind 0x13, Flt (17 R567). -/

def fltCfg_windowExp : Fld := ⟨0x13, 0x100, 1, 0, 6, .rw, 0x1E, .nv⟩
def fltCfg_limit : Fld := ⟨0x13, 0x100, 1, 8, 8, .rw, 0x10, .nv⟩
def fltCfg_autoack : Fld := ⟨0x13, 0x100, 1, 16, 1, .rw, 0x0, .nv⟩
def fltCfg_autoreset : Fld := ⟨0x13, 0x100, 1, 17, 1, .rw, 0x1, .nv⟩
def fltState_faultstate : Fld := ⟨0x13, 0x108, 1, 0, 1, .ro, 0x0, .none⟩
def fltState_alert : Fld := ⟨0x13, 0x108, 1, 1, 1, .ro, 0x0, .none⟩
def fltState_overflow : Fld := ⟨0x13, 0x108, 1, 2, 1, .rc, 0x0, .kept⟩
def fltState_unackCont : Fld := ⟨0x13, 0x108, 1, 16, 16, .ro, 0x0, .kept⟩
def fltState_unackFatal : Fld := ⟨0x13, 0x108, 1, 32, 16, .ro, 0x0, .kept⟩
def fltCmd_cmd : Fld := ⟨0x13, 0x110, 1, 0, 4, .wo, 0x0, .none⟩
def fltLogNext_next : Fld := ⟨0x13, 0x118, 1, 0, 64, .ro, 0x0, .kept⟩
def fltLogFirst_first : Fld := ⟨0x13, 0x120, 1, 0, 64, .ro, 0x0, .kept⟩
def fltSel_seq : Fld := ⟨0x13, 0x128, 1, 0, 64, .rw, 0x0, .none⟩
def fltRec_rec : Fld := ⟨0x13, 0x130, 6, 0, 64, .ro, 0x0, .none⟩
def fltAckSeq_seq : Fld := ⟨0x13, 0x160, 1, 0, 64, .wo, 0x0, .none⟩
def fltCntMsg : Fld := ⟨0x13, 0x40, 1, 0, 64, .ro, 0, .kept⟩
def fltCntCorr : Fld := ⟨0x13, 0x48, 1, 0, 64, .ro, 0, .kept⟩
def fltCntCont : Fld := ⟨0x13, 0x50, 1, 0, 64, .ro, 0, .kept⟩
def fltCntFatal : Fld := ⟨0x13, 0x58, 1, 0, 64, .ro, 0, .kept⟩
def fltCntEsc : Fld := ⟨0x13, 0x60, 1, 0, 64, .ro, 0, .kept⟩
def fltCntLasting : Fld := ⟨0x13, 0x68, 1, 0, 64, .ro, 0, .kept⟩
def fltCntLost : Fld := ⟨0x13, 0x70, 1, 0, 64, .ro, 0, .kept⟩

/-- The fields of page kind 0x13. -/
def fieldsFlt : List Fld :=
  [fltCfg_windowExp, fltCfg_limit, fltCfg_autoack, fltCfg_autoreset, fltState_faultstate, fltState_alert, fltState_overflow, fltState_unackCont, fltState_unackFatal, fltCmd_cmd, fltLogNext_next, fltLogFirst_first, fltSel_seq, fltRec_rec, fltAckSeq_seq, fltCntMsg, fltCntCorr, fltCntCont, fltCntFatal, fltCntEsc, fltCntLasting, fltCntLost]

/-! Page kind 0x14, Rst (18 R590). -/

def rstCfg_retain : Fld := ⟨0x14, 0x100, 1, 0, 2, .rw, 0x0, .nv⟩
def rstCfg_idleTo : Fld := ⟨0x14, 0x100, 1, 2, 14, .rw, 0x1F4, .nv⟩
def rstStatus_cause : Fld := ⟨0x14, 0x108, 1, 0, 2, .ro, 0, .start⟩
def rstStatus_dusk : Fld := ⟨0x14, 0x108, 1, 2, 1, .ro, 0, .start⟩
def rstStatus_retained : Fld := ⟨0x14, 0x108, 1, 3, 1, .ro, 0, .start⟩
def rstStatus_failed : Fld := ⟨0x14, 0x108, 1, 4, 2, .ro, 0, .nv⟩
def rstStatus_reason : Fld := ⟨0x14, 0x108, 1, 6, 8, .ro, 0, .nv⟩
def rstStatus_hold : Fld := ⟨0x14, 0x108, 1, 16, 19, .ro, 0, .start⟩
def rstStartLog_reason : Fld := ⟨0x14, 0x110, 3, 0, 8, .ro, 0, .nv⟩
def rstStartLog_detail : Fld := ⟨0x14, 0x110, 3, 8, 8, .ro, 0, .nv⟩
def rstStartLog_valid : Fld := ⟨0x14, 0x110, 3, 16, 1, .ro, 0, .nv⟩
def rstStartLog_elapsed : Fld := ⟨0x14, 0x110, 3, 17, 31, .ro, 0, .nv⟩
def rstBlock_page : Fld := ⟨0x14, 0x128, 1, 0, 16, .rc, 0x0, .kept⟩
def rstBlock_unit : Fld := ⟨0x14, 0x128, 1, 16, 4, .rc, 0x0, .kept⟩
def rstBlock_timeout : Fld := ⟨0x14, 0x128, 1, 20, 1, .rc, 0x0, .kept⟩
def rstBlock_valid : Fld := ⟨0x14, 0x128, 1, 21, 1, .rc, 0x0, .kept⟩
def rstBlock_exec : Fld := ⟨0x14, 0x128, 1, 32, 32, .rc, 0x0, .kept⟩
def rstReq_page : Fld := ⟨0x14, 0x130, 1, 0, 16, .wo, 0x0, .none⟩
def rstReq_unit : Fld := ⟨0x14, 0x130, 1, 16, 4, .wo, 0x0, .none⟩
def rstCmd_cmd : Fld := ⟨0x14, 0x138, 1, 0, 4, .wo, 0x0, .none⟩
def rstCntPin : Fld := ⟨0x14, 0x40, 1, 0, 64, .ro, 0, .kept⟩
def rstCntBlock : Fld := ⟨0x14, 0x48, 1, 0, 64, .ro, 0, .kept⟩
def rstCntIdleTo : Fld := ⟨0x14, 0x50, 1, 0, 64, .ro, 0, .kept⟩
def rstCntFailstart : Fld := ⟨0x14, 0x58, 1, 0, 64, .ro, 0, .kept⟩
def rstCntDusk : Fld := ⟨0x14, 0x60, 1, 0, 64, .ro, 0, .kept⟩

/-- The fields of page kind 0x14. -/
def fieldsRst : List Fld :=
  [rstCfg_retain, rstCfg_idleTo, rstStatus_cause, rstStatus_dusk, rstStatus_retained, rstStatus_failed, rstStatus_reason, rstStatus_hold, rstStartLog_reason, rstStartLog_detail, rstStartLog_valid, rstStartLog_elapsed, rstBlock_page, rstBlock_unit, rstBlock_timeout, rstBlock_valid, rstBlock_exec, rstReq_page, rstReq_unit, rstCmd_cmd, rstCntPin, rstCntBlock, rstCntIdleTo, rstCntFailstart] ++
  [rstCntDusk]

/-! Page kind 0x15, Pwr (18 R591, 19 R611, 20 R616). -/

def pwrState_state : Fld := ⟨0x15, 0x100, 1, 0, 3, .ro, 0x0, .none⟩
def pwrState_changing : Fld := ⟨0x15, 0x100, 1, 3, 1, .ro, 0x0, .none⟩
def pwrState_target : Fld := ⟨0x15, 0x100, 1, 4, 3, .ro, 0x0, .none⟩
def pwrCmd_target : Fld := ⟨0x15, 0x108, 1, 0, 3, .wo, 0x0, .none⟩
def pwrInput_vin : Fld := ⟨0x15, 0x110, 1, 0, 16, .ro, 0x0, .none⟩
def pwrInput_iin : Fld := ⟨0x15, 0x110, 1, 16, 16, .ro, 0x0, .none⟩
def pwrInput_pin : Fld := ⟨0x15, 0x110, 1, 32, 16, .ro, 0x0, .none⟩
def pwrRailSel_rail : Fld := ⟨0x15, 0x118, 1, 0, 4, .rw, 0x0, .none⟩
def pwrRail_volt : Fld := ⟨0x15, 0x120, 1, 0, 16, .ro, 0, .none⟩
def pwrRail_curr : Fld := ⟨0x15, 0x120, 1, 16, 16, .ro, 0, .none⟩
def pwrRail_fitted : Fld := ⟨0x15, 0x120, 1, 32, 4, .ro, 0, .none⟩
def pwrRail_live : Fld := ⟨0x15, 0x120, 1, 36, 4, .ro, 0, .none⟩
def pwrRail_state : Fld := ⟨0x15, 0x120, 1, 40, 2, .ro, 0, .none⟩
def pwrTemp_hotdie : Fld := ⟨0x15, 0x128, 1, 0, 8, .ro, 0x0, .none⟩
def pwrTemp_dietemp : Fld := ⟨0x15, 0x128, 1, 8, 8, .ro, 0x0, .none⟩
def pwrTemp_inlet : Fld := ⟨0x15, 0x128, 1, 16, 8, .ro, 0x0, .none⟩
def pwrTemp_outlet : Fld := ⟨0x15, 0x128, 1, 24, 8, .ro, 0x0, .none⟩
def pwrEvent_cause : Fld := ⟨0x15, 0x130, 1, 0, 3, .ro, 0, .none⟩
def pwrEvent_valid : Fld := ⟨0x15, 0x130, 1, 3, 1, .ro, 0, .none⟩
def pwrLifeSel_index : Fld := ⟨0x15, 0x138, 1, 0, 4, .rw, 0x0, .none⟩
def pwrLife_value : Fld := ⟨0x15, 0x140, 1, 0, 64, .ro, 0, .nv⟩
def pwrCntTrans : Fld := ⟨0x15, 0x40, 1, 0, 64, .ro, 0, .none⟩
def pwrCntShed : Fld := ⟨0x15, 0x48, 1, 0, 64, .ro, 0, .none⟩
def pwrCntVinlow : Fld := ⟨0x15, 0x50, 1, 0, 64, .ro, 0, .none⟩

/-- The fields of page kind 0x15. -/
def fieldsPwr : List Fld :=
  [pwrState_state, pwrState_changing, pwrState_target, pwrCmd_target, pwrInput_vin, pwrInput_iin, pwrInput_pin, pwrRailSel_rail, pwrRail_volt, pwrRail_curr, pwrRail_fitted, pwrRail_live, pwrRail_state, pwrTemp_hotdie, pwrTemp_dietemp, pwrTemp_inlet, pwrTemp_outlet, pwrEvent_cause, pwrEvent_valid, pwrLifeSel_index, pwrLife_value, pwrCntTrans, pwrCntShed, pwrCntVinlow]

/-! The cell page of kind 0x10 names its four counters as follows (14 R490). -/

def cellBufCntLevel : Fld := ⟨0x10, 0x40, 1, 0, 64, .ro, 0, .none⟩
def cellBufCntNoretain : Fld := ⟨0x10, 0x48, 1, 0, 64, .ro, 0, .none⟩
def cellBufCntL3drop : Fld := ⟨0x10, 0x50, 1, 0, 64, .ro, 0, .none⟩
def cellBufCntBadrel : Fld := ⟨0x10, 0x58, 1, 0, 64, .ro, 0, .none⟩

end Reg

/-- The fields of a page kind, less the common header. -/
def kindFields : Nat → List Fld
  | 0x00 => Reg.fieldsDir
  | 0x01 => Reg.fieldsPln
  | 0x02 => Reg.fieldsRde
  | 0x03 => Reg.fieldsBru
  | 0x04 => Reg.fieldsLag
  | 0x05 => Reg.fieldsPoe
  | 0x06 => Reg.fieldsTxn
  | 0x07 => Reg.fieldsMov
  | 0x08 => Reg.fieldsMem
  | 0x09 => Reg.fieldsStk
  | 0x0A => Reg.fieldsFab
  | 0x0B => Reg.fieldsPort
  | 0x0C => Reg.fieldsLane
  | 0x0D => Reg.fieldsMer
  | 0x0E => Reg.fieldsHost
  | 0x0F => Reg.fieldsHport
  | 0x10 => Reg.fieldsBuf
  | 0x11 => Reg.fieldsSec
  | 0x12 => Reg.fieldsCt
  | 0x13 => Reg.fieldsFlt
  | 0x14 => Reg.fieldsRst
  | 0x15 => Reg.fieldsPwr
  | _ => []

end Sys2Proof.Machine
end

