-- ==== Sys2Proof/Machine/Flags.lean ====
section
/-! DEFINITION. The output conversion and every numeric flag that it and the accumulations set (03 R118 to R126). -/

namespace Sys2Proof.Machine

/-- The flags OVF, UNF, INX and INV in bits 0 to 3 (R126). -/
abbrev NumFlags := BitVec 4

def fOvf : NumFlags := 1
def fUnf : NumFlags := 2
def fInx : NumFlags := 4
def fInv : NumFlags := 8

/-- A flag if a condition holds. -/
def flagIf (c : Bool) (f : NumFlags) : NumFlags := if c then f else 0

/-- FLUSH_IN and FLUSH_OUT of a numeric mode word (R49). -/
def flushIn (mode : Word) : Bool := mode.getLsbD 0
def flushOut (mode : Word) : Bool := mode.getLsbD 1

/-- A magnitude shifted right by `sh` and rounded in a mode: 0 RNE, 1 RTZ, 2 RUP, 3 RDN (R121). -/
def roundShift (rnd : Nat) (neg : Bool) (m sh : Nat) : Nat :=
  let q := m >>> sh
  let r := m - (q <<< sh)
  let up :=
    match rnd with
    | 0 => decide (2 ^ sh < 2 * r) || (decide (2 * r = 2 ^ sh) && decide (q % 2 = 1))
    | 1 => false
    | 2 => decide (0 < r) && !neg
    | _ => decide (0 < r) && neg
  if up && decide (0 < sh) then q + 1 else q

/-- The lowest bit that a magnitude in units of 2^-unit keeps in a format: the larger of its own precision and the
format's smallest subnormal (R121, R123). -/
def dropBits (fmt unit m : Nat) : Nat := max (m.log2 - fracBits fmt) (unit - minExp fmt)

/-- Whether the magnitude rounded with an unbounded exponent range lies below MINN (R123). -/
def isTiny (fmt rnd : Nat) (neg : Bool) (unit m : Nat) : Bool :=
  let sh := m.log2 - fracBits fmt
  decide ((roundShift rnd neg m sh) <<< sh < 2 ^ fracBits fmt * 2 ^ (unit - minExp fmt))

/-- A magnitude without sign as a code with the sign put in. -/
def withSign (fmt : Nat) (neg : Bool) (code : Nat) : Nat := if neg then code + 2 ^ signBit fmt else code

/-- The result of an overflow (R122). -/
def overflowCode (fmt rnd ovf : Nat) (neg : Bool) : Nat :=
  let toInf := ovf = 0 ∧ (rnd = 0 ∨ (rnd = 2 ∧ !neg) ∨ (rnd = 3 ∧ neg))
  withSign fmt neg (if toInf then infCode fmt else infCode fmt - 1)

/-- A finite value rounded into a format with overflow, tininess and FLUSH_OUT (R121 to R123). -/
def roundFinite (mode : Word) (fmt rnd ovf : Nat) (neg : Bool) (unit m : Nat) : Nat × NumFlags :=
  if m = 0 then (withSign fmt neg 0, 0)
  else
    let sh := dropBits fmt unit m
    let q := roundShift rnd neg m sh
    let code := (sh - (unit - minExp fmt)) * 2 ^ fracBits fmt + q
    let inexact := decide (q <<< sh ≠ m)
    if infCode fmt ≤ code then (overflowCode fmt rnd ovf neg, fOvf ||| fInx)
    else
      let fl := flagIf inexact fInx ||| flagIf (inexact && isTiny fmt rnd neg unit m) fUnf
      if flushOut mode && decide (0 < code) && decide (code < 2 ^ fracBits fmt) then
        (withSign fmt neg 0, fl ||| fUnf ||| fInx)
      else (withSign fmt neg code, fl)

/-- A code as an integer that orders numerically: the two zeros are equal (R124). -/
def orderKey (fmt code : Nat) : Int :=
  if codeNeg fmt code then -((codeMag fmt code : Nat) : Int) else ((codeMag fmt code : Nat) : Int)

/-- The clip of a result that is no NaN (R124). -/
def clipCode (fmt lo hi r : Nat) : Nat :=
  if codeIsNan fmt r then r
  else if orderKey fmt r < orderKey fmt lo then lo
  else if orderKey fmt hi < orderKey fmt r then hi
  else r

/-- The sign of an exact zero sum (R120). -/
def zeroSign (rnd : Nat) (pZeroNeg bNeg pZero bZero : Bool) : Bool :=
  (pZero && pZeroNeg && bZero && bNeg) ||
  (decide (rnd = 3) && !((pZero && !pZeroNeg) && (bZero && !bNeg)))

/-- A * SCALE + BIAS, exact, in units of 2^-(unit + 149), and whether it is invalid (R120). -/
def scaleBias (mode : Word) (o : Ocd) (unit : Nat) (a : Num) : Num × Bool :=
  let s := readOperand (flushIn mode) 2 o.scale.toNat
  let b := readOperand (flushIn mode) 2 o.bias.toNat
  match a, s, b with
  | .nan, _, _ => (.nan, false)
  | .inf an, .fin sn sm, _ => if sm = 0 then (.nan, true) else (.inf (an != sn), false)
  | .fin an am, .fin sn sm, .fin bn bm =>
    let pn := an != sn
    let pm := am * sm
    let p : Int := if pn then -(pm : Int) else (pm : Int)
    let bv : Int := if bn then -((bm * 2 ^ unit : Nat) : Int) else ((bm * 2 ^ unit : Nat) : Int)
    let t := p + bv
    if t = 0 then (.fin (zeroSign o.rnd pn bn (decide (pm = 0)) (decide (bm = 0))) 0, false)
    else (.fin (decide (t < 0)) t.natAbs, false)
  | _, _, _ => (.nan, false)

/-- The conversion of an accumulation result in units of 2^-unit to FP16 or FP32 (R120). -/
def convert (mode : Word) (o : Ocd) (unit : Nat) (a : Num) : Nat × NumFlags :=
  let t := scaleBias mode o unit a
  let inv0 := flagIf t.2 fInv
  let clip := fun r => if o.clip then clipCode o.fmt o.lo.toNat o.hi.toNat r else r
  match t.1 with
  | .nan => if o.ovf = 1 then (clip 0, inv0 ||| fInv) else (canonicalNan o.fmt, inv0)
  | .inf neg =>
    if o.ovf = 0 then (clip (withSign o.fmt neg (infCode o.fmt)), inv0)
    else (clip (withSign o.fmt neg (infCode o.fmt - 1)), inv0 ||| fInx)
  | .fin neg m =>
    let r := roundFinite mode o.fmt o.rnd o.ovf neg (unit + 149) m
    (clip r.1, inv0 ||| r.2)

/-- The PSF element of a reduction record below the zenith: R120 with FMT PSF, whose SCALE, BIAS and ROUND decide the sign of an exact
zero, and whether the element is rounded. -/
def convertPsf (mode : Word) (o : Ocd) (unit : Nat) (a : Num) : BitVec 128 × Bool := encodePsf (unit + 149) (scaleBias mode o unit a).1

/-- The fixed OCD of a barrier unit's FP32 sum (R125). -/
def fsumOcd : Ocd := ⟨2, 0, 0, false, 0x3F800000, 0x00000000, 0, 0⟩

/-- One more term of an FP element into an accumulation, with the flags it raises (R104, R108, R109, R126). -/
def accTerm (a : Exa × NumFlags) (t : Num) (inv : Bool) : Exa × NumFlags :=
  let r := exaAdd a.1 t
  (r.1, a.2 ||| flagIf (inv || r.2) fInv)

/-- An element code as a term of a sum (R104). -/
def accCode (mode : Word) (fmt : Nat) (a : Exa × NumFlags) (code : Nat) : Exa × NumFlags :=
  accTerm a (readOperand (flushIn mode) fmt code) (codeIsSnan fmt code)

/-- An element times a weight as a term of a sum (R105, R185, R186). -/
def accProduct (mode : Word) (fmt wfmt : Nat) (a : Exa × NumFlags) (code w : Nat) : Exa × NumFlags :=
  let p := product (readOperand (flushIn mode) fmt code) (readOperand (flushIn mode) wfmt w)
  accTerm a p.1 (p.2 || codeIsSnan fmt code || codeIsSnan wfmt w)

/-- FMIN and FMAX over FP32 codes: NaN wins, -0 lies below +0, FLUSH_IN applies to terms (R149). -/
def fminmaxKey (c : Nat) : Int :=
  if codeNeg 2 c then -((codeMag 2 c : Nat) : Int) - 1 else ((codeMag 2 c : Nat) : Int)

/-- A term of FMIN or FMAX as FLUSH_IN reads it. -/
def flushCode (mode : Word) (c : Nat) : Nat :=
  if flushIn mode && decide (codeMag 2 c < 2 ^ 23) then withSign 2 (codeNeg 2 c) 0 else c

/-- FMIN (isMax false) or FMAX of a list of FP32 codes, with its flags (R149). -/
def fminmax (mode : Word) (isMax : Bool) (l : List Nat) : Nat × NumFlags :=
  let fl := flagIf (l.any (codeIsSnan 2)) fInv
  if l.any (codeIsNan 2) then (canonicalNan 2, fl)
  else
    match l.map (flushCode mode) with
    | [] => (0, fl)
    | c :: cs =>
      (cs.foldl (fun a b => if (decide (fminmaxKey b < fminmaxKey a)) != isMax && decide (fminmaxKey a ≠ fminmaxKey b)
        then b else a) c, fl)

end Sys2Proof.Machine
end

