-- ==== Sys2Proof/Machine/Ops.lean ====
section
/-! DEFINITION. The named operations that every meaning uses: sorted stores, registers and fields, memory, fault messages,
VOID causes, the slot grid and the outbox. -/

namespace Sys2Proof.Machine

/-! ## Sorted stores -/

/-- The value of a key. -/
def kvGet {α : Type} : List (Nat × α) → Nat → Option α
  | [], _ => none
  | (k, v) :: l, q => if k = q then some v else kvGet l q

/-- Put a value at a key, keys rising. -/
def kvPut {α : Type} : List (Nat × α) → Nat → α → List (Nat × α)
  | [], q, w => [(q, w)]
  | (k, v) :: l, q, w => if q < k then (q, w) :: (k, v) :: l else if q = k then (q, w) :: l else (k, v) :: kvPut l q w

/-- Take a key out. -/
def kvDel {α : Type} : List (Nat × α) → Nat → List (Nat × α)
  | [], _ => []
  | (k, v) :: l, q => if k = q then kvDel l q else (k, v) :: kvDel l q

/-- Put a value at a key in canonical form: a value equal to what an unlisted key reads as is not listed. -/
def kvSet {α : Type} [DecidableEq α] (dflt : α) (l : List (Nat × α)) (q : Nat) (w : α) : List (Nat × α) :=
  if w = dflt then kvDel l q else kvPut l q w

/-- Keys strictly rising, all above a bound where there is one. -/
def keysRise {α : Type} : Option Nat → List (Nat × α) → Bool
  | _, [] => true
  | none, (k, _) :: l => keysRise (some k) l
  | some b, (k, _) :: l => decide (b < k) && keysRise (some k) l

/-! ## Registers (00 R14 to R18, 15 R510 to R514) -/

/-- The key of a register: page and offset as ADDR has them (15 R500), with the index of a selector above them. -/
def regKey (idx page off : Nat) : Nat := (idx * 65536 + page) * 4096 + off

/-- The kind of a page (15 R510). -/
def pageKind (page : Nat) : Nat := page / 256

/-- The page of a kind and an instance (15 R510). -/
def pageOf (kind inst : Nat) : Nat := kind * 256 + inst

/-- A field stands in the register at an offset. -/
def Fld.at (f : Fld) (off : Nat) : Bool :=
  decide (f.off ≤ off) && decide (off < f.off + 8 * f.count) && decide ((off - f.off) % 8 = 0)

/-- The fields of the register at an offset of a page kind. -/
def fieldsAt (kind off : Nat) : List Fld :=
  (if off < 0x40 then Reg.headerFields else kindFields kind).filter (·.at off)

/-- The mask of a field. -/
def Fld.mask (f : Fld) : Word := BitVec.ofNat 64 ((2 ^ f.width - 1) <<< f.lo)

/-- The power-on value of a register (00 R15). -/
def regReset (kind off : Nat) : Word :=
  (fieldsAt kind off).foldl (fun a f => a ||| BitVec.ofNat 64 (f.reset <<< f.lo)) 0

/-- The default of a key of the register store. -/
def keyReset (k : Nat) : Word := regReset (pageKind (k / 4096 % 65536)) (k % 4096)

/-- The contents of a register. -/
def getReg (s : State) (idx page off : Nat) : Word :=
  match kvGet s.regs (regKey idx page off) with
  | some v => v
  | none => regReset (pageKind page) off

/-- Set a register. -/
def setReg (s : State) (idx page off : Nat) (v : Word) : State :=
  { s with regs := kvSet (regReset (pageKind page) off) s.regs (regKey idx page off) v }

/-- Bits of a word as a number. -/
def bits (w : Word) (lo width : Nat) : Nat := (w.toNat >>> lo) % 2 ^ width

/-- A word with some bits replaced by a number. -/
def putBits (w : Word) (lo width v : Nat) : Word :=
  (w &&& ~~~(BitVec.ofNat 64 ((2 ^ width - 1) <<< lo))) ||| BitVec.ofNat 64 ((v % 2 ^ width) <<< lo)

/-- Field of the n-th register of its form, at an instance of its page kind and behind a selector index. -/
def getFI (s : State) (idx inst n : Nat) (f : Fld) : Nat :=
  bits (getReg s idx (pageOf f.kind inst) (f.off + 8 * n)) f.lo f.width

/-- Set that field. -/
def setFI (s : State) (idx inst n : Nat) (f : Fld) (v : Nat) : State :=
  let page := pageOf f.kind inst
  let off := f.off + 8 * n
  setReg s idx page off (putBits (getReg s idx page off) f.lo f.width v)

/-- A field of an instance. -/
def getF (s : State) (inst : Nat) (f : Fld) : Nat := getFI s 0 inst 0 f

/-- Set a field of an instance. -/
def setF (s : State) (inst : Nat) (f : Fld) (v : Nat) : State := setFI s 0 inst 0 f v

/-- Set a bit of an instance. -/
def setB (s : State) (inst : Nat) (f : Fld) (b : Bool) : State := setF s inst f (if b then 1 else 0)

/-- A header field of a page (15 R511). -/
def getH (s : State) (page : Nat) (f : Fld) : Nat := bits (getReg s 0 page f.off) f.lo f.width

/-- Set a header field of a page. -/
def setH (s : State) (page : Nat) (f : Fld) (v : Nat) : State :=
  setReg s 0 page f.off (putBits (getReg s 0 page f.off) f.lo f.width v)

/-- A counter goes up. Every counter is 64 bits wide and never wraps in service (15 R513). -/
def bump (s : State) (inst : Nat) (c : Fld) (n : Nat := 1) : State :=
  if n = 0 then s else setF s inst c (getF s inst c + n)

/-- A field that stops at its largest value. -/
def bumpSat (s : State) (inst : Nat) (f : Fld) (n : Nat) : State :=
  setF s inst f (min (getF s inst f + n) (2 ^ f.width - 1))

/-- A digest spread over six registers, the first holding bytes 0 to 7. -/
def setDigest (s : State) (inst : Nat) (f : Fld) (d : Digest) : State :=
  (List.range 6).foldl (fun s n => setFI s 0 inst n f ((d.toNat >>> (64 * n)) % 2 ^ 64)) s

/-- The digest that six registers hold. -/
def getDigest (s : State) (inst : Nat) (f : Fld) : Digest :=
  BitVec.ofNat 384 ((List.range 6).foldl (fun a n => a + getFI s 0 inst n f <<< (64 * n)) 0)

/-! ## Events of one access cycle (00 R20) -/

/-- What the present tick has done already. -/
def tieNow (s : State) : Tie := if s.tie.tick = s.mer then s.tie else ⟨s.mer, [], [], [], [], none, none⟩

/-- A write has set RW bits of a register in this tick. -/
def noteWrote (s : State) (key : Nat) : State :=
  let t := tieNow s
  { s with tie := { t with wrote := key :: t.wrote } }

/-- In this tick a write has set the register: what hardware would write in the same tick gives way (R20). -/
def wroteNow (s : State) (key : Nat) : Bool := (tieNow s).wrote.contains key

/-! ## The outbox and free values -/

/-- Something leaves the device. -/
def emit (s : State) (o : Out) : State := { s with out := o :: s.out }

/-- A fresh free number, and the state with its count drawn. -/
def drawNat (s : State) : Nat × State := (Config.freeNat s.freeCtr, { s with freeCtr := s.freeCtr + 1 })

/-- A fresh free choice. -/
def drawBool (s : State) : Bool × State := (Config.freeBool s.freeCtr, { s with freeCtr := s.freeCtr + 1 })

/-- Fresh free bits. -/
def drawBits (s : State) : BitVec 384 × State := (Config.freeBits s.freeCtr, { s with freeCtr := s.freeCtr + 1 })

/-- NV storage is written in this tick (00 R16, 18 R572). -/
def noteNv (s : State) : State := { s with pwr := { s.pwr with flashAt := some s.mer } }

/-- A write of NV begins over what stands there now; one takes at most 384,000 ticks (18 R572). -/
def noteNvWrite (s : State) (was : NvWas) : State :=
  let s := noteNv s
  { s with fw := { s.fw with writes := (s.mer, was) :: s.fw.writes.filter fun x => decide (s.mer < x.1 + 384000) } }

/-! ## The grade (00 R2 to R6) -/

/-- A port of the grade. -/
def fitsPort (s : State) (port : Nat) : Bool := decide (port < Config.ports s.mfg.grade)

/-- A lane die of the grade. -/
def fitsDie (s : State) (die : Nat) : Bool := decide (die < Config.laneDies s.mfg.grade)

/-- A stack of the grade (R4). -/
def fitsStack (s : State) (st : Nat) : Bool := decide (st < 20) && decide (st % 5 < Config.stacksPerDie s.mfg.grade)

/-- The addressable capacity C: 22.5 GiB per stack less withdrawn stripes of 16 lines' worth each (06 R203, 08 R287). -/
def stripeBytes (grade : Nat) : Nat := 2 * Config.stacksPerDie grade * 1048576

/-- C. -/
def capacity (s : State) : Nat :=
  Config.capacity s.mfg.grade - getF s 0 Reg.memCapacity_stripes * stripeBytes s.mfg.grade

/-- This device's node ID: the owner record's, or 0xFFFF (16 R534). -/
def nodeId (s : State) : Nat :=
  match s.owner with
  | some o => o.node
  | none => 0xFFFF

/-! ## Memory (08 R261 to R272, R623) -/

/-- 480 MiB, the unit of a near window (R261). -/
def nearUnit : Nat := 503316480

/-- A physical line: stack, pseudo-channel and line r within it (R265). -/
structure Phys where
  stack : Nat
  pc : Nat
  r : Nat
  deriving DecidableEq, Repr

/-- Near lines per unit and pseudo-channel (R262). -/
def nearLines (grade : Nat) : Nat := 61440 / Config.stacksPerDie grade

/-- The line of a node offset (R265). -/
def physOf (s : State) (a : Nat) : Phys :=
  let nu := getF s 0 Reg.memSplit_nearUnits
  let wn := nu * nearUnit
  let S := Config.stacksPerDie s.mfg.grade
  if a < 4 * wn then
    let k := a / wn
    let l := (a - k * wn) / 256
    ⟨5 * k + l % S, l / S % 32, l / S / 32⟩
  else
    let l := (a - 4 * wn) / 256
    let q := l / 4 / S
    ⟨5 * (l % 4) + l / 4 % S, q % 32, nu * nearLines s.mfg.grade + q / 32⟩

/-! ### Where a relocated line lies (R276 to R280) -/

/-- Segments of a pseudo-channel (R276). -/
def segments : Nat := 1440

/-- The relocation of a pseudo-channel, if any. -/
def relocOf (s : State) (stack pc : Nat) : Option Reloc := s.mem.relocs.find? fun r => r.stack == stack && r.pc == pc

/-- The spare line of a segment's line: rows 46,080 + 32 j on of the target (R260, R276). -/
def spareLine (stack : Nat) (t : Nat × Nat) (r : Nat) : Phys := ⟨stack, t.1, (46080 + 32 * t.2) * 64 + r % 2048⟩

/-- The spare line of a home line whose copy bit is 1. -/
def movedTo (s : State) (p : Phys) : Option Phys :=
  match relocOf s p.stack p.pc with
  | some r =>
    if p.r / 2048 < r.copied then (r.map[p.r / 2048]?).map fun t => spareLine p.stack t p.r else none
  | none => none

/-- The current location of a node offset: the home line, or the spare line of a segment whose copy bit is 1 (R278). -/
def locOf (s : State) (a : Nat) : Phys := (movedTo s (physOf s a)).getD (physOf s a)

/-- A pseudo-channel is lost, relocated or not (R290, R292). -/
def pcLost (s : State) (stack pc : Nat) : Bool :=
  (s.mem.dead.any fun q => q.1 == stack && q.2 == pc) || s.mem.relocs.any fun r => r.stack == stack && r.pc == pc && r.lost

/-- The location of a node offset as it was when the present tick began (R296). -/
def locThen (s : State) (a : Nat) : Phys := locOf { s with mem := { s.mem with relocs := (tieNow s).relocs.getD s.mem.relocs } } a

/-- A copy bit changes in this tick: where the segments were stays known to its end (R296). -/
def keepRelocs (s : State) : State := { s with tie := { tieNow s with relocs := some ((tieNow s).relocs.getD s.mem.relocs) } }

/-- SUB of a memory fault: pseudo-channel, bank group, bank and row (17 R624). -/
def Phys.sub (p : Phys) : Nat :=
  p.pc * 2 ^ 20 + p.r % 4 * 2 ^ 18 + p.r / 4 % 4 * 2 ^ 16 + p.r / 64

/-- An undefined set covers a byte. -/
def Undef.covers (s : State) (u : Undef) (a : Nat) : Bool :=
  decide (u.base ≤ a) && decide (a < u.base + u.len) &&
    (match u.onlyPc with
     | none => true
     | some q => decide ((physOf s a).stack = q.1) && decide ((physOf s a).pc = q.2.1) && decide (q.2.2 ≤ (physOf s a).r))

/-- What a byte of HBM that is not listed reads as: zero as the scrub of a power-on leaves it (18 R577), and a free value
where its contents are undefined. -/
def memDefault (s : State) (a : Nat) : Byte :=
  match s.mem.undef.find? (·.covers s a) with
  | some u => Config.freeByte u.epoch a
  | none => 0

/-- The byte that HBM stores. -/
def rawByte (s : State) (a : Nat) : Byte :=
  match kvGet s.mem.hbm a with
  | some b => b
  | none => memDefault s a

/-- The canonical form of memory: addresses strictly rise and no entry equals what an unlisted address reads as. -/
def Memory.wf (s : State) : Bool :=
  keysRise none s.mem.hbm && s.mem.hbm.all (fun c => decide (c.2 ≠ memDefault s c.1))

/-- Store one byte. -/
def putByte (s : State) (a : Nat) (b : Byte) : State :=
  { s with mem := { s.mem with hbm := kvSet (memDefault s a) s.mem.hbm a b } }

/-- Store bytes from an address. -/
def putBytes (s : State) (a : Nat) : List Byte → State
  | [] => s
  | b :: bs => putBytes (putByte s a b) (a + 1) bs

/-- The committed value that the commit stage holds of a word (06 R227). -/
def stagedWord (s : State) (a : Nat) : Option Word := kvGet s.eng.stage (a / 8 * 8)

/-- A byte as every reader sees it: the commit stage first (06 R227). -/
def readByte (s : State) (a : Nat) : Byte :=
  match stagedWord s a with
  | some w => w.extractLsb' (8 * (a % 8)) 8
  | none => rawByte s a

/-- Bytes from an address. -/
def readBytes (s : State) (a n : Nat) : List Byte := (List.range n).map fun i => readByte s (a + i)

/-- A word of 8 bytes, least significant first (00 R11). -/
def readWord (s : State) (a : Nat) : Word := BitVec.ofNat 64 (leNat (readBytes s a 8))

/-- A number of n bytes. -/
def readNat (s : State) (a n : Nat) : Nat := leNat (readBytes s a n)

/-- The burst of a byte (08 R259). -/
def burstOf (a : Nat) : Nat := a / 32 * 32

/-- The current location of a byte is on a lost pseudo-channel: one that was lost beyond relocation (R292), or a LOST one that held the
spare lines of another's segments (DEDUCED, log 50). -/
def deadByte (s : State) (a : Nat) : Bool := pcLost s (locOf s a).stack (locOf s a).pc

/-- A read of a byte is uncorrectable (08 R272, R292); a word in the commit stage is not read from HBM (06 R227). -/
def ueByte (s : State) (a : Nat) : Bool :=
  (stagedWord s a).isNone && (s.mem.ue.contains (burstOf a) || deadByte s a)

/-- The first bytes of the lines of a range. -/
def rangeLines (a n : Nat) : List Nat :=
  if n = 0 then [] else (List.range ((a % 256 + n + 255) / 256)).map fun k => max a (a / 256 * 256 + 256 * k)

/-- The first uncorrectable byte of a range, if any. -/
def firstUe (s : State) (a n : Nat) : Option Nat :=
  let hits := (s.mem.ue.flatMap fun u => (List.range 32).map (u + ·)).filter fun b =>
    decide (a ≤ b) && decide (b < a + n) && ueByte s b
  let dead := if s.mem.dead.isEmpty && !s.mem.relocs.any (·.lost) then [] else (rangeLines a n).filter (ueByte s)
  (hits ++ dead).min?

/-- Lists with the entries of a range of bytes taken out. -/
def dropRange (s : State) (base len : Nat) (onlyPc : Option (Nat × Nat × Nat)) : List Host.Cell :=
  s.mem.hbm.filter fun c => !(Undef.covers s ⟨base, len, onlyPc, 0⟩ c.1)

/-- The contents of a range become undefined. -/
def makeUndef (s : State) (base len : Nat) (onlyPc : Option (Nat × Nat × Nat)) : State :=
  if len = 0 then s
  else
    { s with mem := { s.mem with
        hbm := dropRange s base len onlyPc
        undef := ⟨base, len, onlyPc, s.mem.epoch⟩ :: s.mem.undef
        epoch := s.mem.epoch + 1 } }

/-! ## Fault messages and VOID causes (17 R550, R551; 02 R76) -/

/-- The plan runs: ARMED, RUNNING or ENDING (15 R504). -/
def planRuns (s : State) : Bool := decide (getF s 0 Reg.plnState_active ≠ 0)

/-- A plan ran at the start of the present tick (15 R504). -/
def ranAtStart (s : State) : Bool := (tieNow s).ran.getD (planRuns s)

/-- The present tick changes the active state: what it was at the tick's start stays known (15 R504). -/
def keepRan (s : State) : State := { s with tie := { tieNow s with ran := some (ranAtStart s) } }

/-- Steps execute: RUNNING or ENDING. -/
def stepsRun (s : State) : Bool := decide (2 ≤ getF s 0 Reg.plnState_active)

/-- EXEC of a fault record: bits [31:0] of e, or 0xFFFFFFFF outside a plan (17 R550). -/
def execTag (s : State) : Nat := if stepsRun s then getF s 0 Reg.plnExec_exec % 2 ^ 32 else 0xFFFFFFFF

/-- The source of a message: page, SUB and NODE (17 R551). -/
def sameSource (a b : FaultMsg) : Bool := a.page == b.page && a.sub == b.sub && a.node == b.node

/-- A message joins its block's queue of 16, merges into a waiting one of the same KIND and source, or is dropped and
counted (17 R551). -/
def enqueueFault (s : State) (m : FaultMsg) : State :=
  let q := s.flt.queue
  if (q.filter (·.page == m.page)).length < 16 then { s with flt := { s.flt with queue := q ++ [m] } }
  else
    match q.findIdx? (fun w => w.kind == m.kind && sameSource w m) with
    | some i => { s with flt := { s.flt with queue := q.modify i fun w => { w with merged := min 255 (w.merged + 1 + m.merged) } } }
    | none => bump s 0 Reg.fltCntLost

/-- A block detects a fault in this tick. -/
def fault (s : State) (kind page sub node addr detail : Nat) : State :=
  enqueueFault s ⟨s.mer, page, kind, 0, node, sub, execTag s, addr, detail, false⟩

/-! ## The slot grid (02) -/

/-- The current step's record. -/
def curStep (s : State) : Option StepRec :=
  match s.pln.active with
  | some p => p.steps[getF s 0 Reg.plnStep_step]?
  | none => none

/-- The length of a step in a band (R54, R55). -/
def StepRec.len (t : StepRec) (band : Nat) : Nat := if band = 0 then t.lenNom else if band = 1 then t.lenWarm else t.lenHot

/-- B of the current step (R95). -/
def stepBase (s : State) : Nat := getF s 0 Reg.plnStepBase_base

/-- The band of the current step (R93). -/
def stepBand (s : State) : Nat := getF s 0 Reg.plnState_band

/-- e (R72). -/
def curExec (s : State) : Nat := getF s 0 Reg.plnExec_exec

/-- The end E = B + LEN_b of the current step (R73). -/
def stepEnd (s : State) : Nat :=
  match curStep s with
  | some t => stepBase s + t.len (stepBand s)
  | none => stepBase s

/-- W of the current step (R73). -/
def stepW (s : State) : Nat :=
  match curStep s with
  | some t => stepEnd s - t.outwin
  | none => stepEnd s

/-- D of the current step (R73). -/
def stepD (s : State) : Nat :=
  match curStep s with
  | some t => stepEnd s - t.outwin - t.drain
  | none => stepEnd s

/-- The alternate set in use (R93). -/
def curAlt (s : State) : Nat := getF s 0 Reg.plnState_alt

/-- The table of a resource in a table set, band and alternate set; ALT 0 where the set holds none (R61). -/
def Plan.table (p : Plan) (resource tset band alt : Nat) : Option SlotTable :=
  let hit := fun (a : Nat) (t : SlotTable) =>
    t.resource == resource && t.tableSet == tset && t.alt == a && (t.bands >>> band) % 2 == 1
  match p.tables.find? (hit alt) with
  | some t => some t
  | none => p.tables.find? (hit 0)

/-- The table of a resource in the current step; none where the execution runs IDLE (11 R407) and in a hold (R81). -/
def curTable (s : State) (resource : Nat) : Option SlotTable :=
  match s.pln.active, curStep s with
  | some p, some t => if s.pln.idleExec || !stepsRun s || s.pln.hold.isSome then none else p.table resource t.tableSet (stepBand s) (curAlt s)
  | _, _ => none

/-- The run of a table that covers an offset of the step (R56, R58). -/
def SlotTable.runAt (t : SlotTable) (ofs : Nat) : Option Run :=
  let o := if t.cycle = 0 then ofs else ofs % t.cycle
  t.runs.find? fun r => decide (r.start ≤ o) && decide (o < r.start + r.len)

/-- The run of a resource in this tick. -/
def runNow (s : State) (resource : Nat) : Option Run :=
  match curTable s resource with
  | some t => t.runAt (s.mer - stepBase s)
  | none => none

/-- RESOURCE of an engine (R57). -/
def engineRes (unit : Nat) : Nat := 6 * 2 ^ 28 + unit

/-- Offsets of the RUN ticks of a record on an engine in the current step: each as start and length (R59). -/
def useRuns (s : State) (unit use seq : Nat) : List (Nat × Nat) :=
  match curTable s (engineRes unit) with
  | some t =>
    let one := (t.runs.filter fun r => r.use == use && r.arg == seq).map fun r => (r.start, r.len)
    let len := stepEnd s - stepBase s
    (List.range (ceilDiv len (max t.cycle 1))).flatMap fun k =>
      (one.map fun r => (r.1 + k * t.cycle, r.2)).filter fun r => decide (r.1 < len)
  | none => []

/-- The first RUN tick of a record as an offset of the step. -/
def firstRun (s : State) (unit seq : Nat) : Option Nat := ((useRuns s unit 0xB seq).map (·.1)).min?

/-- The end of the last RUN run of a record as an offset of the step. -/
def lastRunEnd (s : State) (unit seq : Nat) : Option Nat := ((useRuns s unit 0xB seq).map fun r => r.1 + r.2).max?

/-- The RELEASE tick of a record as an offset of the step. -/
def releaseAt (s : State) (unit seq : Nat) : Option Nat := ((useRuns s unit 0xC seq).map (·.1)).min?

/-- A RUN tick of a record on an engine (R59). -/
def runTick (s : State) (unit seq : Nat) : Bool :=
  (useRuns s unit 0xB seq).any fun r => decide (r.1 ≤ s.mer - stepBase s) && decide (s.mer - stepBase s < r.1 + r.2)

/-- RESOURCE of a pseudo-channel (R57). -/
def pcRes (stack pc : Nat) : Nat := 5 * 2 ^ 28 + stack * 32 + pc

/-- Units per tick of a die link (01 R29). -/
def linkCap (link : Nat) : Nat := if link < 16 then 6 else if link < 20 then 32 else if link < 22 then 2 else 1

/-- The first offset of the step from `lo` on in which a resource's run meets a condition (R58, R59). -/
def slotWhere (s : State) (resource : Nat) (ok : Run → Bool) (lo : Nat) : Option Nat :=
  match curTable s resource with
  | none => none
  | some t =>
    let len := stepEnd s - stepBase s
    (((t.runs.filter ok).flatMap fun r =>
      (List.range (ceilDiv len (max t.cycle 1))).filterMap fun k =>
        let a := r.start + k * t.cycle
        if max a lo < a + r.len ∧ max a lo < len then some (max a lo) else none)).min?

/-- The first offset of the step from `lo` on in which a resource's run has a USE and names ARG (R58, R59). -/
def slotFrom (s : State) (resource use arg lo : Nat) : Option Nat :=
  slotWhere s resource (fun r => r.use == use && r.arg == arg) lo

/-- The memory die that runs a Mover's or a home agent's records under the alternate set in use (R65). -/
def mappedDie (s : State) (kind die : Nat) : Nat :=
  match s.pln.active with
  | some p =>
    match (p.alts.find? (·.set == curAlt s)) with
    | some a =>
      match a.maps.find? (fun m => m.kind == kind && m.src == die) with
      | some m => m.dst
      | none => die
    | none => die
  | none => die

/-- The unit of a work record with the unit map of the alternate set in force (R63, R65). -/
def mappedUnit (s : State) (u : Nat) : Nat :=
  let kind := u % 16
  let die := u / 16 % 16
  if kind = 3 ∨ kind = 4 then kind + 16 * mappedDie s kind die + 256 * (u / 256) else u

/-- The work records of the current step. -/
def stepWork (s : State) : List WorkRec :=
  match s.pln.active with
  | some p => if s.pln.idleExec || !stepsRun s || s.pln.hold.isSome then [] else p.work.filter (·.step == getF s 0 Reg.plnStep_step)
  | none => []

/-- The home record of the current step (06 R222). -/
def homeRec? (s : State) : Option (WorkRec × HomeRec) :=
  (stepWork s).findSome? fun w =>
    match w.body with
    | .home h => some (w, h)
    | _ => none

/-- A region of the active plan. -/
def planRegion (s : State) (id : Nat) : Option Region :=
  match s.pln.active with
  | some p => p.regions.find? (·.id == id)
  | none => none

/-- Node offset of a byte of a region. -/
def regionAddr (s : State) (id ofs : Nat) : Nat :=
  match planRegion s id with
  | some r => r.base + ofs
  | none => ofs

/-- The numeric mode word of the active plan (R49). -/
def numMode (s : State) : Word :=
  match s.pln.active with
  | some p => p.numericMode
  | none => 0x100

/-- Tree of a record. -/
def planTree (s : State) (id : Nat) : Option Tree :=
  match s.pln.active with
  | some p => p.trees.find? (·.id == id)
  | none => none

/-- A node of a tree. -/
def Tree.node (t : Tree) (n : Nat) : Option TreeNode := t.nodes.find? (·.node == n)

/-- Children of a node in a tree. -/
def Tree.children (t : Tree) (n : Nat) : List TreeNode := t.nodes.filter fun c => c.parent == n && c.node != n

/-- Level-0 members of a tree in ascending node-ID order (04 R132, R138). -/
def Tree.members (t : Tree) : List TreeNode := t.nodes.filter (·.level == 0)

/-- A node is a T4896 of the domain (02 R52). -/
def isDevice (s : State) (n : Nat) : Bool :=
  match s.pln.active with
  | some p => p.manifest.any fun m => m.node == n && m.kind == 1
  | none => false

/-- Where this device stands in a record's tree. -/
def myNode (s : State) (tree : Nat) : Option (Tree × TreeNode) :=
  match planTree s tree with
  | some t => (t.node (nodeId s)).map fun n => (t, n)
  | none => none

/-- This device is the zenith of the tree. -/
def isZenith (s : State) (tree : Nat) : Bool :=
  match planTree s tree with
  | some t => t.zenith == nodeId s
  | none => false

/-- Children of this device in a tree. -/
def myChildren (s : State) (tree : Nat) : List TreeNode :=
  match planTree s tree with
  | some t => t.children (nodeId s)
  | none => []

/-! ## Times of the outcome barrier (04 R626) -/

/-- The zenith's cut before E. -/
def zenithCut (l cable : Nat) : Nat := if l ≤ 1 then 123 else 181 + cable + (l - 2) * (32 + cable)

/-- C(level) before E. -/
def cutBefore (l cable level : Nat) : Nat := zenithCut l cable + (l - level) * (115 + cable)

/-- F(level) before E. -/
def downBefore (l cable level : Nat) : Nat := zenithCut l cable - 91 - (l - level) * (32 + cable)

/-- Depth of tree 0, CABLE_MAX, and this device's level. -/
def obarShape (s : State) : Nat × Nat × Nat :=
  match s.pln.active, myNode s 0 with
  | some p, some (t, n) => (t.depth, p.cableMax, n.level)
  | _, _ => (1, 0, 1)

/-- E: the end of the step or of the hold interval. -/
def barrierEnd (s : State) : Nat := s.pln.hold.getD (stepEnd s)

/-- A step or a hold interval runs, so that an outcome barrier does. -/
def barrierOpen (s : State) : Bool := stepsRun s && (s.pln.hold.isSome || decide (stepBase s ≤ s.mer))

/-- C(l) of this device. -/
def cutAt (s : State) : Nat :=
  let h := obarShape s
  barrierEnd s - cutBefore h.1 h.2.1 h.2.2

/-- F(l) of this device; at the zenith Z + 91. -/
def downAt (s : State) : Nat :=
  let h := obarShape s
  barrierEnd s - downBefore h.1 h.2.1 h.2.2

/-! ## VOID causes and losses (02 R76, 11 R393) -/

/-- The present tick lies at or after this device's cut, or its contribution is fixed: what is reported now belongs to the next
execution (02 R76, R79; 04 R626). -/
def pastCut (s : State) : Bool := s.pln.cutDone || (barrierOpen s && decide (cutAt s ≤ s.mer))

/-- A VOID cause reported on this device in this tick: before its cut it belongs to the current execution, at or after it
to the next one (02 R76). Outside the execution of steps there is no step to void. -/
def reportFrom (s : State) (cause source : Nat) : State :=
  if stepsRun s then
    let r : Report := ⟨cause, source, s.mer⟩
    if pastCut s then { s with pln := { s.pln with nextReports := s.pln.nextReports ++ [r] } }
    else { s with pln := { s.pln with reports := s.pln.reports ++ [r] } }
  else s

/-- A vacate, restore, row repair or lane substitution runs: the execution under way, if any, carries REPAIR (12 R430). -/
def noteRepair (s : State) : State := if stepsRun s then { s with pln := { s.pln with repairRan := true } } else s

/-- A cause that this device reports. -/
def report (s : State) (cause : Nat) : State := reportFrom s cause (nodeId s)

/-- A loss that this device learns of (11 R393). -/
def addLoss (s : State) (l : Loss) : State :=
  if s.pln.losses.contains l || s.pln.nextLosses.contains l then s
  else if pastCut s then { s with pln := { s.pln with nextLosses := s.pln.nextLosses ++ [l] } }
  else { s with pln := { s.pln with losses := s.pln.losses ++ [l] } }

/-- A native CONTAINED fault of an engine or unit with its VOID cause. -/
def faultVoid (s : State) (cause kind page sub node addr detail : Nat) : State :=
  report (fault s kind page sub node addr detail) cause

/-! ## Logical and physical engines (01 R25, R26; 02 R63) -/

/-- Pages of the units of a kind on a memory die; for a barrier unit the five BRU pages. -/
def unitPages (kind die : Nat) : List Nat :=
  if kind = 1 then [pageOf 2 (3 * die), pageOf 2 (3 * die + 1), pageOf 2 (3 * die + 2)]
  else if kind = 2 then [pageOf 5 (3 * die), pageOf 5 (3 * die + 1), pageOf 5 (3 * die + 2)]
  else if kind = 3 then [pageOf 6 0]
  else if kind = 4 then [pageOf 7 die]
  else [pageOf 3 0, pageOf 3 1, pageOf 3 2, pageOf 3 3, pageOf 3 4]

/-- ROLE and LOGICAL stand at the same place of the RDE, BRU and POE pages (04 R165, 05 R197). -/
def unitRole (s : State) (page : Nat) : Nat := bits (getReg s 0 page 0x100) 0 2
def unitLogical (s : State) (page : Nat) : Nat := bits (getReg s 0 page 0x100) 4 4

/-- The page of the physical unit that serves a logical unit: for a reduction engine, pool engine or barrier unit the
ACTIVE one with that LOGICAL position (02 R63); a unit that has just been marked FAILED serves to the next boundary (17 R560). -/
def unitPage (s : State) (u : Nat) : Option Nat :=
  let kind := u % 16
  let die := u / 16 % 16
  if kind = 3 ∨ kind = 4 then (unitPages kind die).head?
  else (unitPages kind die).find? fun p => (unitRole s p == 0 || s.eng.toSpare.contains p) && unitLogical s p == u / 256

/-- A block reset of a page, or of a UNIT of it, is in progress: the block takes no new work (18 R582, R583). -/
def blockBusy (s : State) (page unit : Nat) : Bool :=
  s.pwr.blocks.any fun b => !b.waits && b.page == page && (b.unit == 0 || b.unit == unit)

/-- The job of a logical unit that has not been released. -/
def Engines.job (e : Engines) (u seq : Nat) : Option Job := e.jobs.find? fun j => j.unit == u && j.seq == seq

/-- Replace or add a job. -/
def putJob (s : State) (j : Job) : State :=
  { s with eng := { s.eng with jobs := (s.eng.jobs.filter fun k => !(k.unit == j.unit && k.seq == j.seq)) ++ [j] } }

/-! ## What runs (18 R579, R584; 17 R558) -/

/-- The parts of the device that power states, Dusk and a stop act on. -/
inductive Domain where
  | core
  | lanes
  | memory
  | hosts
  | service
  deriving DecidableEq, Repr

/-- The power state: 0 Run, 1 Quiet, 2 Standby, 3 Sleep (R591). -/
def powerState (s : State) : Nat := getF s 0 Reg.pwrState_state

/-- A part of the device runs. In Dusk and after a stop only SD0 runs in full. -/
def runs (s : State) (d : Domain) : Bool :=
  match s.pwr.phase, d with
  | .service, .service => true
  | .service, .core => !s.flt.stopped && decide (powerState s ≤ 2)
  | .service, .hosts => !s.flt.stopped && decide (powerState s ≤ 2)
  | .service, .lanes => !s.flt.stopped && decide (powerState s ≤ 1)
  | .service, .memory => !s.flt.stopped && decide (powerState s ≤ 1)
  | .dusk, .service => true
  | _, _ => false

/-- What no command changes: the manufacturing record, which only Utenal changes at a return (16 R527), and the commands that wait. -/
def keepFixed (s t : State) : State := { t with pending := s.pending, mfg := s.mfg }

/-- An outcome with what no command changes. -/
def settled (s : State) : Host.Outcome State Fault Refusal → Host.Outcome State Fault Refusal
  | .next t => .next (keepFixed s t)
  | o => o

/-- An event acts on a part of the device only while that part runs. -/
def whenRuns (s : State) (d : Domain) (o : Host.Outcome State Fault Refusal) : Host.Outcome State Fault Refusal :=
  if runs s d then settled s o else .next s

/-- A register command reaches its block only while the block runs. A page that Dusk does not list draws NOPAGE (15 R517), and a block
that does not answer TIMEOUT (15 R499). -/
def whenServes (s : State) (d : Domain) (o : Host.Outcome State Fault Refusal) : Host.Outcome State Fault Refusal :=
  if runs s d then settled s o else .next { s with cmdStatus := if s.pwr.phase = .dusk then 2 else 9 }

/-- A register command whose address names a page that the directory does not list (15 R499). -/
def noPage (s : State) : Host.Outcome State Fault Refusal := .next { s with cmdStatus := 2 }

/-- The requests of some sessions go, but for an access that has been sent to its blocks: it completes, and no response is sent. -/
def dropRequests (s : State) (gone : Nat → Bool) : State :=
  let keep := fun (l : List Request) => l.filter fun r => !gone r.session
  let left := match s.ctl.access, s.ctl.requests with
    | some _, r :: l => r :: keep l
    | _, l => keep l
  { s with ctl := { s.ctl with requests := left } }

/-! ## Cells (09 R301 to R304) -/

/-- Header fields of a cell (R302). -/
def cellNat (c : FabCell) (lo width : Nat) : Nat := (c.toNat >>> lo) % 2 ^ width
def cellKind (c : FabCell) : Nat := cellNat c 0 5
def cellResent (c : FabCell) : Bool := c.getLsbD 5
def cellVc (c : FabCell) : Nat := cellNat c 6 2
def cellDst (c : FabCell) : Nat := cellNat c 8 16
def cellSrc (c : FabCell) : Nat := cellNat c 24 16
def cellFlow (c : FabCell) : Nat := cellNat c 40 12
def cellSeq (c : FabCell) : Nat := cellNat c 52 20
def cellStep (c : FabCell) : Nat := cellNat c 72 8
def cellOfs (c : FabCell) : Nat := cellNat c 80 16
def cellPayload (c : FabCell) : Payload := c.extractLsb' 96 384
def cellCrc (c : FabCell) : Nat := cellNat c 480 32

/-- One bit of the reflected CRC-32C (R304). -/
def crcBit (crc : Nat) : Nat := if crc % 2 = 1 then (crc / 2) ^^^ 0x82F63B78 else crc / 2

/-- One byte of the CRC-32C. -/
def crcByte (crc b : Nat) : Nat :=
  crcBit (crcBit (crcBit (crcBit (crcBit (crcBit (crcBit (crcBit (crc ^^^ b))))))))

/-- CRC-32C of bytes (R304). -/
def crc32c (bs : List Byte) : Nat := (bs.foldl (fun c b => crcByte c b.toNat) 0xFFFFFFFF) ^^^ 0xFFFFFFFF

/-- The CRC of a cell's bytes 0 to 59. -/
def cellCrcOf (c : FabCell) : Nat := crc32c (leBytes 60 (c.toNat % 2 ^ 480))

/-- The CRC of a cell is right. -/
def cellCrcOk (c : FabCell) : Bool := decide (cellCrc c = cellCrcOf c)

/-- A cell with a computed CRC (R302, R304). -/
def mkCell (kind : Nat) (resent : Bool) (vc dst src flow seq step ofs : Nat) (payload : Payload) : FabCell :=
  let h := kind + (if resent then 32 else 0) + vc * 2 ^ 6 + dst * 2 ^ 8 + src * 2 ^ 24 + flow * 2 ^ 40 + seq * 2 ^ 52 +
    step * 2 ^ 72 + ofs * 2 ^ 80
  let body := h + payload.toNat * 2 ^ 96
  BitVec.ofNat 512 (body + crc32c (leBytes 60 body) * 2 ^ 480)

/-- The copy that a source sends again: RESENT set and the CRC computed again (R303, R304). -/
def resentCopy (c : FabCell) : FabCell :=
  mkCell (cellKind c) true (cellVc c) (cellDst c) (cellSrc c) (cellFlow c) (cellSeq c) (cellStep c) (cellOfs c)
    (cellPayload c)

/-- The flow of a cell (R309). -/
def cellKey (c : FabCell) : FlowKey := ⟨cellSrc c, cellDst c, cellVc c, cellFlow c⟩

end Sys2Proof.Machine
end

