-- ==== Sys2Proof/Machine/Route.lean ====
section
/-! DEFINITION. The cell pool, the queues of the egress ports, routes and groups, and the cells that this device
originates (09 R310 to R325, 14 R479 to R489). -/

namespace Sys2Proof.Machine

/-! ## Ports -/

/-- Port number of a port code (R57). -/
def portNo (code : Nat) : Nat := code % 128

/-- A port code names a half-port. -/
def isHalf (code : Nat) : Bool := decide (128 ≤ code)

/-- Bit of a port code in PORT_UP and in a group's port map (R321). -/
def portBit (code : Nat) : Nat := 2 * portNo code + (if code / 128 = 3 then 1 else 0)

/-- SPLIT in LANE_CFG, which the next bring-up takes (R374, R389). -/
def splitCfg (s : State) (p : Nat) : Bool := (getF s (p / 6) Reg.laneCfg_split).testBit (p % 6)

/-- The port code of a bit of a port map: of a split port its half, else the whole port. -/
def codeOfBit (s : State) (b : Nat) : Nat :=
  let p := b / 2
  let split := (getF s (p / 6) Reg.laneCfg_split).testBit (p % 6)
  if split then p + (if b % 2 = 1 then 384 else 256) else p

/-- The port faces up in the active plan (R321). -/
def facesUp (s : State) (code : Nat) : Bool :=
  match s.pln.active with
  | some p => p.routes.portUp.getLsbD (portBit code)
  | none => false

/-- Empty queues of a port. -/
def Egress.empty (code : Nat) : Egress := ⟨code, [], [], [], [], [], [], []⟩

/-- The queues of a port. -/
def egressOf (s : State) (code : Nat) : Egress := (s.fab.egress.find? (·.code == code)).getD (.empty code)

/-- Set the queues of a port, ports in rising code. -/
def setEgress (s : State) (e : Egress) : State :=
  let rest := s.fab.egress.filter (·.code != e.code)
  { s with fab := { s.fab with egress := (rest.filter (·.code < e.code)) ++ [e] ++ rest.filter (e.code < ·.code) } }

/-! ## The cell pool (14 R479 to R487) -/

/-- Marks a queued cell that holds no buffer: a cell that this device originates waits in the output stage of its engine, outside
the egress queue and the cell pool, until it leaves (01 R39, 09 R315; DEDUCED, log 35). -/
def noBuf : Nat := 131072

/-- This device originates the cell. -/
def ownCell (s : State) (c : FabCell) : Bool := cellSrc c == nodeId s

/-- Buffers that a port holds. -/
def Egress.bufs (e : Egress) : List Nat :=
  (((e.plan ++ e.req ++ e.rsp ++ e.resend ++ e.svc).map (·.buf)).filter (· != noBuf)) ++ e.ret.map (·.buf)

/-- Buffers of the cells in reorder windows. -/
def windowBufs (s : State) : List Nat := s.fab.rx.flatMap fun r => r.window.map (·.buf)

/-- The owner mask of a cell buffer (R482): an owner's bit is set while its queues, its retention, the window or the way to a local consumer
hold the buffer. -/
def ownerMask (s : State) (buf : Nat) : BitVec 98 :=
  let ports := (s.fab.egress.filter fun e => e.bufs.contains buf).map fun e => portNo e.code
  let bits := ports ++ (if (windowBufs s).contains buf then [96] else []) ++ (if (s.fab.home.map (·.1)).contains buf then [97] else [])
  bits.dedup.foldl (fun m b => m ||| BitVec.ofNat 98 (2 ^ b)) 0

/-- Buffers in use: those whose owner mask is not empty (R482, R483). -/
def poolUsed (s : State) : List Nat := (s.fab.egress.flatMap Egress.bufs ++ windowBufs s ++ s.fab.home.map (·.1)).dedup

/-- Cells in reorder windows. -/
def windowCells (s : State) : Nat := (s.fab.rx.map (·.window.length)).sum

/-- Cells of the pool in use. -/
def poolUse (s : State) : Nat := (poolUsed s).length

/-- The pool's size (R479). -/
def poolSize : Nat := 131072

/-- Thresholds of the four levels of a store of `n` buffers (R485). -/
def levelAt (n level : Nat) : Nat :=
  if level = 1 then n * 3 / 4 else if level = 2 then n * 7 / 8 else if level = 3 then n * 95 / 100 else n

/-- The level after a change of use: a level is entered at its threshold and left below the threshold less 1/64 of the
store (R485). -/
def nextLevel (n cur use : Nat) : Nat :=
  let up := ((List.range 5).filter fun l => decide (l = 0) || decide (levelAt n l ≤ use)).getLastD 0
  let stay := ((List.range 5).filter fun l => decide (l ≤ cur) && (decide (l = 0) || decide (levelAt n l - n / 64 ≤ use))).getLastD 0
  max up stay

/-- After any change of the cell pool: LOW, the level, and a BUF_LEVEL fault for each level entered (R353, R485). -/
def poolNote (s : State) : State :=
  let use := poolUse s
  let s := if poolSize - use < getF s 0 Reg.fabPool_low then setF s 0 Reg.fabPool_low (poolSize - use) else s
  let cur := getF s 0 Reg.bufLevel_levelC
  let new := nextLevel poolSize cur use
  let s := if new = cur then s else setF s 0 Reg.bufLevel_levelC new
  let s := if getF s 0 Reg.bufLevel_peak < new then setF s 0 Reg.bufLevel_peak new else s
  (List.range 5).foldl (fun s l =>
    if cur < l ∧ l ≤ new then bump (fault s 0x30 0x1000 0 0xFFFF 0 l) 0 Reg.cellBufCntLevel else s) s

/-- The lowest-numbered free cell; a buffer released in this tick is not yet free (R481, R483). -/
def poolAlloc (s : State) : Nat :=
  let used := poolUsed s ++ (if s.fab.freedAt = s.mer then s.fab.freed else [])
  ((List.range (used.length + 1)).find? fun i => !used.contains i).getD 0

/-- Every holder of a buffer goes on with another number. -/
def renameBufs (s : State) (f : Nat → Nat) : State :=
  let q := fun (l : List QCell) => l.map fun x => if x.buf = noBuf then x else { x with buf := f x.buf }
  { s with fab := { s.fab with
    egress := s.fab.egress.map fun e => { e with
      plan := q e.plan, req := q e.req, rsp := q e.rsp, resend := q e.resend, svc := q e.svc
      ret := e.ret.map fun x => { x with buf := f x.buf } }
    rx := s.fab.rx.map fun r => { r with window := r.window.map fun w => { w with buf := f w.buf } }
    home := s.fab.home.map fun x => (f x.1, x.2) } }

/-- The place of an ingress port and a VC in the fixed order of requesters (R481). A cell of this device comes from the CD: it stands after
every port and die link (DESIGN CHOICE, log 107). -/
def requester (code vc : Nat) : Nat := 4 * code + vc
def ownRequester : Nat := 4096

/-- A requester takes a buffer: the requesters of one tick hold successive lowest free cells in their fixed order, whichever asked
first (R481). -/
def poolTake (s : State) (who : Nat) : State × Nat :=
  let used := poolUsed s
  let taken := if s.fab.takenAt = s.mer then s.fab.taken.filter fun x => used.contains x.2 else []
  let new := poolAlloc s
  let later := taken.filter fun x => decide (who < x.1)
  let bufs := later.map (·.2) ++ [new]
  let moved := later.zip (bufs.drop 1)
  let s := if later.isEmpty then s else renameBufs s fun b => ((moved.find? fun m => m.1.2 == b).map (·.2)).getD b
  let own := bufs.headD new
  let list := taken.filter (fun x => decide (x.1 ≤ who)) ++ [(who, own)] ++ moved.map fun m => (m.1.1, m.2)
  ({ s with fab := { s.fab with takenAt := s.mer, taken := list } }, own)

/-- The buffer of a first copy as it leaves: its own, or for a cell out of an output stage the one that the retention of another
port holds for the same cell, else a new one (14 R482). -/
def leavingBuf (s : State) (q : QCell) : State × Nat :=
  if q.buf = noBuf then
    match s.fab.egress.findSome? fun e => e.ret.find? fun x => x.key == cellKey q.cell && x.seq == cellSeq q.cell with
    | some x => (s, x.buf)
    | none => poolTake s ownRequester
  else (s, q.buf)

/-- Remember the buffers that a change of the queues released in this tick (R483). -/
def poolFreed (before after : State) : State :=
  let now := poolUsed after
  let gone := (poolUsed before).filter fun b => !now.contains b
  if gone.isEmpty then after
  else
    { after with fab := { after.fab with
        freedAt := after.mer
        freed := (if after.fab.freedAt = after.mer then after.fab.freed else []) ++ gone } }

/-- The pool admits an arriving cell: none when no buffer is free, at level 3 only outcome-barrier cells, VC_SVC and resent copies
(R486). -/
def poolAdmits (s : State) (c : FabCell) : Bool :=
  let l := getF s 0 Reg.bufLevel_levelC
  if l = 4 || decide (poolSize ≤ poolAlloc s) then false
  else if l = 3 then cellVc c == 3 || cellResent c || cellKind c == 4 || cellKind c == 5 || cellKind c == 6
  else true

/-- An arriving cell that the pool does not admit is dropped whole and counted on the page of its ingress port (R316, R486). -/
def poolDrop (s : State) (code : Nat) : State :=
  let s := bump s (portNo code) Reg.fabCntOverrun
  if getF s 0 Reg.bufLevel_levelC = 3 then bump s 0 Reg.cellBufCntL3drop else s

/-! ## Die links (R313; 01 R30) -/

/-- USE of a cell's unit position or slot (R308, R313). -/
def useOfCell (c : FabCell) : Nat :=
  if cellVc c = 3 then 5 else if cellResent c then 2 else if cellVc c = 0 then 1 else if cellVc c = 1 then 3 else 4

/-- A cell of a step crosses a die link, toward the CD (`dir` 3) or away from it (4): it waits for its unit position, and reaches the end of
its way in a tick (R313; 01 R30, R34, R35). -/
def cross (s : State) (dir link : Nat) (c : FabCell) (reach : Nat) (sink : Option (Nat × Nat) := none) : State :=
  if stepsRun s && s.pln.hold.isNone then
    { s with fab := { s.fab with transit := s.fab.transit ++ [⟨dir, link, useOfCell c, c, reach, sink⟩] } }
  else s

/-- Number of a port's lane-die link (02 R57). -/
def laneLink (code : Nat) : Nat := portNo code / 6

/-- Two cells are one on its way: alike but for SEQ, STEP and CRC, which this device sets as a cell of its own leaves. -/
def sameCell (a b : FabCell) : Bool :=
  cellNat a 0 52 == cellNat b 0 52 && cellOfs a == cellOfs b && cellPayload a == cellPayload b

/-- A cell still waits for its unit position on a link toward the CD, or on the link to a lane die (R313). -/
def crossing (s : State) (link : Nat) (c : FabCell) : Bool :=
  s.fab.transit.any fun t => (t.dir == 3 || t.link == link) && sameCell t.cell c

/-! ## Queues (R313, R315) -/

/-- Capacity of a buffer, halved on a half-port (R315). -/
def capOf (code n : Nat) : Nat := if isHalf code then n / 2 else n

/-- Put a first copy in the egress queue of its virtual channel. The capacity bounds the cells that arrived. -/
def pushQueue (s : State) (code : Nat) (q : QCell) : State :=
  let e := egressOf s code
  let vc := cellVc q.cell
  let l := if vc = 0 then e.plan else if vc = 1 then e.req else e.rsp
  if !ownCell s q.cell && decide (capOf code 512 ≤ (l.filter fun x => !ownCell s x.cell).length) then bump s (portNo code) Reg.fabCntOverrun
  else
    let l := l ++ [q]
    poolNote (setEgress (cross s 4 (laneLink code) q.cell q.readyAt) (if vc = 0 then { e with plan := l } else if vc = 1 then { e with req := l } else { e with rsp := l }))

/-- Put a cell in the service queue; a full queue drops it (R336), and a pool with no free buffer one that this device sends, which has
none yet (DESIGN CHOICE, log 107). -/
def pushSvc (s : State) (code : Nat) (c : FabCell) (readyAt : Nat) (buf : Option Nat := none) : State :=
  if capOf code 64 ≤ (egressOf s code).svc.length || (buf.isNone && !poolAdmits s c) then bump s (portNo code) Reg.fabCntSvcdrop
  else
    let r := match buf with
      | some b => (s, b)
      | none => poolTake s ownRequester
    let e := egressOf r.1 code
    poolNote (setEgress (cross r.1 4 (laneLink code) c readyAt) { e with svc := e.svc ++ [⟨c, readyAt, r.2⟩] })

/-- Ticks of a use that remain on a port before an offset of the step, from the next tick on. -/
def ticksLeft (s : State) (code use : Nat) (before : Nat) : Nat :=
  match curTable s (2 ^ 28 + code) with
  | none => 0
  | some t =>
    let now := s.mer - stepBase s
    (t.runs.filter (·.use == use)).foldl (fun a r =>
      a + ((List.range (ceilDiv before (max t.cycle 1))).map fun k =>
        let lo := max (r.start + k * t.cycle) (now + 1)
        let hi := min (r.start + k * t.cycle + r.len) before
        hi - lo).sum) 0

/-- Put a resent copy in the resend queue of a port, in the buffer of the cell that it repeats or in the one that it came in (14 R482): a
full queue drops it, and a queue that outnumbers the RESEND ticks left before D reports cause RESEND too (R334, R335). -/
def pushResend (s : State) (code : Nat) (c : FabCell) (readyAt buf : Nat) : State :=
  let e := egressOf s code
  if capOf code 32 ≤ e.resend.length then report (bump s (portNo code) Reg.fabCntOverrun) 3
  else
    let s := poolNote (setEgress (cross s 4 (laneLink code) c readyAt) { e with resend := e.resend ++ [⟨c, readyAt, buf⟩] })
    if stepsRun s && s.pln.hold.isNone && decide (ticksLeft s code 2 (stepD s - stepBase s) < e.resend.length + 1) then report s 3 else s

/-! ## Routes (R322 to R325) -/

/-- The route record for a destination and a virtual channel under the alternate set in use, else ALT 0 (R323). -/
def routeFor (s : State) (dst vc : Nat) : Option Route :=
  match s.pln.active with
  | none => none
  | some p =>
    let hit := fun (alt : Nat) (r : Route) => r.dst == dst && r.vcmask.testBit vc && r.alt == alt
    match p.routes.routes.find? (hit (curAlt s)) with
    | some r => some r
    | none => p.routes.routes.find? (hit 0)

/-- The port of a route for a flow and a SEQ (R324). -/
def routePort (s : State) (r : Route) (flow seq : Nat) : Option Nat :=
  if r.spread then
    match s.pln.active with
    | none => none
    | some p =>
      match p.routes.spreads.find? (·.set == r.target) with
      | some sp => if sp.ports.isEmpty then none else sp.ports[(flow + seq) % sp.ports.length]?
      | none => none
  else some r.target

/-- The group record under the alternate set in use, else ALT 0 (R312 rule 4, R325). -/
def groupFor (s : State) (g : Nat) : Option Group :=
  match s.pln.active with
  | none => none
  | some p =>
    match p.routes.groups.find? (fun r => r.group == g && r.alt == curAlt s) with
    | some r => some r
    | none => p.routes.groups.find? (fun r => r.group == g && r.alt == 0)

/-- Port codes of a group's map. -/
def groupPorts (s : State) (g : Group) : List Nat :=
  ((List.range 192).filter fun b => g.map.getLsbD b).map (codeOfBit s)

/-- DST of a multicast group (R306). -/
def isGroupDst (d : Nat) : Bool := decide (0xF000 ≤ d) && decide (d ≤ 0xFEFF)

/-- Place a whole cell on its way to a port: service, resend or egress queue. A first copy of this device holds no buffer. -/
def placeCell (s : State) (code : Nat) (c : FabCell) (readyAt buf : Nat) : State :=
  if cellVc c = 3 then pushSvc s code c readyAt (some buf)
  else if cellResent c then pushResend s code c readyAt buf
  else pushQueue s code ⟨c, readyAt, if ownCell s c then noBuf else buf⟩

/-- Route a unicast cell by DST and VC in a buffer; without a route it is dropped and counted (R312 rule 5, R323). A cell from an
up-facing port whose route is UP is discarded and voids the step (R319). -/
def routeUnicast (s : State) (ingress : Option Nat) (dst : Nat) (c : FabCell) (readyAt buf : Nat) : State :=
  match routeFor s dst (cellVc c) with
  | none => bump s 0 Reg.fabCntNoroute
  | some r =>
    match ingress with
    | some p =>
      if facesUp s p && r.up then
        faultVoid (bump s (portNo p) Reg.fabCntUpdown) 4 0x0A (pageOf 0xB (portNo p)) p 0xFFFF dst (cellFlow c)
      else
        match routePort s r (cellFlow c) (cellSeq c) with
        | some e => placeCell s e c readyAt buf
        | none => bump s 0 Reg.fabCntNoroute
    | none =>
      match routePort s r (cellFlow c) (cellSeq c) with
      | some e => placeCell s e c readyAt buf
      | none => bump s 0 Reg.fabCntNoroute

/-! ## Cells that this device originates (R310, R325) -/

/-- The next SEQ of a flow that this device sends in this execution (R310). -/
def nextSeq (s : State) (k : FlowKey) : Nat := ((s.fab.txSeq.find? (·.1 == k)).map (·.2)).getD 0

/-- Count a new cell of the flow. -/
def countSeq (s : State) (k : FlowKey) : State :=
  { s with fab := { s.fab with txSeq := (s.fab.txSeq.filter (·.1 != k)) ++ [(k, nextSeq s k + 1)] } }

/-- STEP of the cells that this device sends: 0xFF in the start barrier, in a hold that of the execution that follows (04 R626),
else e mod 256 (R72). -/
def txStep (s : State) : Nat :=
  if s.pln.starting then 0xFF else if s.pln.hold.isSome then (curExec s + 1) % 256 else curExec s % 256

/-- Copies of a group cell: toward UPSTREAM as a unicast, or to every port of the map; the copies share one buffer (R325,
R482). The second component says whether a local copy is offered. -/
def fanOut (s : State) (g : Group) (fromAbove : Bool) (c : FabCell) (readyAt buf : Nat) : State × Bool :=
  if g.upstream ≠ 0xFFFF && !fromAbove then (routeUnicast s none g.upstream c readyAt buf, false)
  else ((groupPorts s g).foldl (fun s p => placeCell s p c readyAt buf) s, g.localCopy)

/-- Queue one cell of an engine, a barrier unit or the outcome barrier, first leaving at `readyAt`. A local copy of a
group that this device roots is answered in the second component. -/
def originate (s : State) (t : TxCell) (readyAt : Nat) : State × Option FabCell :=
  let k : FlowKey := ⟨nodeId s, t.dst, t.vc, t.flow⟩
  let c := mkCell t.kind false t.vc t.dst (nodeId s) t.flow (nextSeq s k) (txStep s) t.ofs t.payload
  let s := countSeq s k
  if isGroupDst t.dst then
    match groupFor s (t.dst - 0xF000) with
    | none => (bump s 0 Reg.fabCntNoroute, none)
    | some g =>
      let r := fanOut s g false c readyAt noBuf
      (r.1, if r.2 then some c else none)
  else if t.dst = nodeId s then (s, some c)
  else (routeUnicast s none t.dst c readyAt noBuf, none)

/-! ## The order of steps (R72, R78) -/

/-- The step in order after one, with the passes of the loop body that are complete (R72). -/
def nextInOrder (p : Plan) (step loops : Nat) : Option (Nat × Nat × Nat) :=
  if step = p.loopLast ∧ loops + 1 < p.loopCount then some (p.loopFirst, 0, loops + 1)
  else if step + 1 < p.steps.length then some (step + 1, 0, if step = p.loopLast then loops + 1 else loops)
  else none

/-- The execution that ON_VOID chooses, and whether it is a retry; none ends the plan (R78). -/
def afterVoid (p : Plan) (t : StepRec) (step attempt loops : Nat) : Option (Nat × Nat × Nat) × Bool :=
  if t.onVoid = 0 ∧ attempt < t.retryMax then (some (step, attempt + 1, loops), true)
  else if t.onVoid = 1 then (nextInOrder p step loops, false)
  else (none, false)

/-! ## The flush at a step boundary (R317, R489) -/

/-- Cells that the flush discards. -/
def flushCount (s : State) : Nat :=
  (s.fab.egress.map fun e => e.plan.length + e.req.length + e.rsp.length + e.resend.length + e.ret.length).sum + windowCells s

/-- Empty the plan, request and reply queues, the resend queues, the retention and the reorder windows, and count the
cells in FAB_CNT_FLUSH; every flow starts again at SEQ 0 (R317, R339). -/
def flushStep (s : State) : State :=
  let n := flushCount s
  let eg := s.fab.egress.map fun e => { e with plan := [], req := [], rsp := [], resend := [], ret := [], unret := [] }
  let t := { s with fab := { s.fab with egress := eg, rx := [], txSeq := [], transit := [] } }
  bump (poolNote (poolFreed s t)) 0 Reg.fabCntFlush n

end Sys2Proof.Machine
end

