-- ==== Sys2Proof/Machine/Records.lean ====
section
/-! DEFINITION. Work records of the current step: their inputs, the consumer of a local cell, their deadlines and when a
contribution is complete (04 R138 to R151, 05 R183, 06 R220, 07 R246, 09 R318, R627). -/

namespace Sys2Proof.Machine

/-- The unit that runs a work record in this step, mapped by the alternate set (02 R63, R65). A home record runs on the
home agents. -/
def recUnit (s : State) (w : WorkRec) : Nat := mappedUnit s w.unit

/-- Memory dies that hold a byte of a region (08 R264, R265). -/
def regionDies (r : Region) : List Nat := if r.placement = 0 then [r.die] else [0, 1, 2, 3]

/-- Home agents that a home record needs (06 R223). -/
def homeNeeds (p : Plan) (h : HomeRec) : List Nat :=
  ((h.regions.filterMap fun id => p.regions.find? (·.id == id)).flatMap regionDies).dedup.map fun d => 3 + 16 * d

/-- The home agents that run the step's home record: those that it needs, under the unit map in force, where the slot tables give them
RUN runs (06 R223; 02 R65). -/
def homeUnits (s : State) (seq : Nat) : List Nat :=
  match s.pln.active, homeRec? s with
  | some p, some (w, h) =>
    if w.seq = seq then (((homeNeeds p h).map (mappedUnit s)).dedup).filter fun u => !(useRuns s u 0xB seq).isEmpty else []
  | _, _ => []

/-! ## The neighbours that a plan foresees (09 R323, 11 R394) -/

/-- Ports of a route. -/
def routePorts (p : Plan) (r : Route) : List Nat :=
  if r.spread then ((p.routes.spreads.find? (·.set == r.target)).map (·.ports)).getD [] else [r.target]

/-- The route that applies to a destination, VC and alternate set (R323). -/
def planRoute (p : Plan) (dst vc alt : Nat) : Option Route :=
  match p.routes.routes.find? fun r => r.dst == dst && r.vcmask.testBit vc && r.alt == alt with
  | some r => some r
  | none => p.routes.routes.find? fun r => r.dst == dst && r.vcmask.testBit vc && r.alt == 0

/-- KIND of a node in the MANIFEST, 0 for none. -/
def manKind (p : Plan) (n : Nat) : Nat := ((p.manifest.find? (·.node == n)).map (·.kind)).getD 0

/-- Candidates for the foreseen neighbour of a port (11 R394): destination and the number of ports of its target. -/
def candidates (p : Plan) (alt code : Nat) : List (Nat × Nat) :=
  let dsts := (p.routes.routes.map (·.dst)).dedup
  (dsts.filterMap fun d =>
    match [0, 1, 2, 3].filterMap fun v => planRoute p d v alt with
    | [] => none
    | rs =>
      match rs.find? fun r => (routePorts p r).contains code with
      | some r => some (d, (routePorts p r).length)
      | none => none)

/-- The steps of R394: none, one or several candidates remain. -/
def foreseenList (p : Plan) (alt code : Nat) : List Nat :=
  let c := candidates p alt code
  let few := (c.map (·.2)).min?.getD 0
  let one := (c.filter fun x => x.2 == few).map (·.1)
  if one.length ≤ 1 then one
  else
    let dev := one.filter fun d => manKind p d == 1
    if dev.length = 1 then dev
    else
      let kin := one.filter fun d =>
        match p.trees.find? (·.id == 0) with
        | some t => ((t.node p.node).map (·.parent)) == some d || (t.children p.node).any (·.node == d)
        | none => false
      if kin.length = 1 then kin else one

/-- Ports of a route to a neighbour on VC_PLAN under an alternate set. -/
def portsTo (p : Plan) (alt dst : Nat) : List Nat := ((planRoute p dst 0 alt).map (routePorts p)).getD []

/-- The ports that face a neighbour: those of its route whose foreseen neighbour it is (R394). -/
def portsFacing (p : Plan) (alt d : Nat) : List Nat := (portsTo p alt d).filter fun q => foreseenList p alt q == [d]

/-- The endpoint members attached directly to the plan's device, in ascending node-ID order: the level-0 children of it in any tree, and
every endpoint of the MANIFEST that a port of it faces (04 R147, R161; DEDUCED, log 34). -/
def planMembers (p : Plan) : List Nat :=
  let kids := ((p.trees.flatMap fun t => t.children p.node).filter (·.level == 0)).map (·.node)
  let near := ((p.manifest.filter (·.kind == 2)).map (·.node)).filter fun d => !(portsFacing p 0 d).isEmpty
  (kids ++ near).dedup.mergeSort fun a b => decide (a ≤ b)

/-- Cells that a reduction child sends: ceil(N / c) in its format (04 R140). -/
def redCells (r : RedRec) (leaf : Bool) : Nat := ceilDiv r.n (perCell (if leaf then r.inFmt else 3))

/-- Cells that a barrier child sends (04 R150). -/
def barCells (r : BarRec) (leaf : Bool) : Nat :=
  if leaf then (if r.ops.length ≤ 6 then 1 else 2) else ceilDiv (r.ops.length + 1) 3

/-- The identity of a work record in its step: SEQ names a record of one engine only (02 R58), so its logical unit stands with it. -/
def WorkRec.rid (w : WorkRec) : Nat := w.seq * 4096 + w.unit

/-- The barrier records of the step whose releases come from a zenith (04 R150). -/
def barsUnder (s : State) (src : Nat) : List (WorkRec × BarRec) :=
  (stepWork s).filterMap fun w =>
    match w.body with
    | .bar r => if !isZenith s r.tree && (planTree s r.tree).map (·.zenith) == some src then some (w, r) else none
    | _ => none

/-- The barrier record that a release cell belongs to. The cell carries the zenith's OUT_FLOW, which the record of a device below need
not name: the record that has taken the flow already, else the one that names it, else the first that has taken none (DEDUCED,
log 81). -/
def downRecord (s : State) (src flow : Nat) : Option WorkRec :=
  let l := barsUnder s src
  let free := l.filter fun x => (kvGet s.eng.downs x.1.rid).isNone
  match l.find? fun x => kvGet s.eng.downs x.1.rid == some flow with
  | some x => some x.1
  | none =>
    match free.find? fun x => x.2.outFlow == flow || x.2.inFlow == flow with
    | some x => some x.1
    | none => free.head?.map (·.1)

/-- A source names an input of a record on VC_PLAN (09 R318). -/
def takes (s : State) (w : WorkRec) (src flow kind : Nat) : Bool :=
  match w.body with
  | .red r => flow == r.inFlow && kind == 1 && (myChildren s r.tree).any (·.node == src)
  | .bar r =>
    (flow == r.inFlow && kind == 2 && (myChildren s r.tree).any (·.node == src)) || (kind == 3 && downRecord s src flow == some w)
  | .pool r => r.fabricIdx && flow == r.inFlow && src == r.inSrc && kind == 1
  | .mov r => r.fabricSrc && flow == r.inFlow && src == r.inSrc && kind == 1
  | .home _ => false

/-- The first consumer of a local cell (09 R318). -/
inductive Consumer where
  | record (w : WorkRec)
  | home (w : WorkRec) (h : HomeRec)
  | sink (k : Sink)
  | obar
  | none
  deriving DecidableEq, Repr

/-- A cell that is delivered now still reaches the record, 24 ticks on (01 R35), by its RELEASE tick (04 R142; 09 R318). -/
def beforeRelease (s : State) (w : WorkRec) : Bool :=
  match releaseAt s (recUnit s w) w.seq with
  | some r => decide (s.mer + 24 ≤ stepBase s + r)
  | none => true

/-- The consumer of a cell by its VC, FLOW, SRC and KIND. -/
def consumerOf (s : State) (c : FabCell) : Consumer :=
  let src := cellSrc c
  let flow := cellFlow c
  let kind := cellKind c
  if kind = 5 ∨ kind = 6 then .obar
  else if cellVc c = 0 then
    match (stepWork s).find? (fun w => takes s w src flow kind && (kind == 3 || beforeRelease s w)) with
    | some w => .record w
    | none =>
      match s.pln.active with
      | some p =>
        match p.routes.sinks.find? (fun k => k.src == src && k.flow == flow) with
        | some k => if kind = 1 && stepsRun s && !s.pln.idleExec then .sink k else .none
        | none => .none
      | none => .none
  else if cellVc c = 1 then
    match homeRec? s with
    | some (w, h) => .home w h
    | none => .none
  else .none

/-! ## Deadlines -/

/-- The arrival deadline of a record for its endpoint inputs, an absolute tick (04 R142, R151; 05 R183; 06 R220; 07 R246);
none for a record without such inputs. -/
def deadlineOf (s : State) (w : WorkRec) : Option Nat :=
  let b := stepBase s
  let d := stepD s
  let u := recUnit s w
  match w.body with
  | .red _ => (lastRunEnd s u w.seq).map fun e => min d (b + e - 24)
  | .bar _ => (firstRun s u w.seq).map fun f => b + f - 24
  | .pool r => if r.fabricIdx then (firstRun s u w.seq).map fun f => min d (b + f - 24) else none
  | .mov r => if r.fabricSrc && decide (0 < r.len) then (lastRunEnd s u w.seq).map fun e => min d (b + e - 24) else none
  | .home _ =>
    (((homeUnits s w.seq).filterMap fun u => firstRun s u w.seq).min?).map fun f => min d (b + f - 24)

/-- Cells of a record from a source, in arrival order. -/
def cellsFrom (s : State) (rid src : Nat) : List Arrival :=
  s.eng.arrivals.filter fun a => a.rid == rid && a.src == src

/-- A cell that a record takes still waits for a unit position on its way (09 R313). -/
def onWay (s : State) (a : Arrival) : Bool :=
  s.fab.transit.any fun t => cellSrc t.cell == a.src && cellFlow t.cell == a.flow && cellKind t.cell == a.kind &&
    cellOfs t.cell == a.ofs && cellPayload t.cell == a.payload

/-- Those of them that have reached the record's engine (01 R35). -/
def cellsIn (s : State) (rid src : Nat) : List Arrival :=
  (cellsFrom s rid src).filter fun a => decide (a.reach ≤ s.mer) && !onWay s a

/-- All OFS below n from a source have reached the engine. -/
def hasAll (s : State) (rid src n : Nat) : Bool :=
  let l := cellsIn s rid src
  (List.range n).all fun o => l.any (·.ofs == o)

/-- The bytes of a transfer that arrived from a source, byte k from OFS k / 48 (05 R183, 07 R240). -/
def bytesFrom (s : State) (rid src n : Nat) : List Byte :=
  let l := cellsFrom s rid src
  ((List.range (ceilDiv n 48)).flatMap fun o =>
    match l.find? (·.ofs == o) with
    | some a => payBytes a.payload
    | none => List.replicate 48 0).take n

/-- Length of an IXL from its header (05 R174 to R176). -/
def ixlLen (weightMode nbags total : Nat) : Nat := 16 + 8 * ceilDiv nbags 2 + total * (if weightMode = 0 then 4 else 8)

/-- Cells of a fabric IXL, once its first cell is here. -/
def ixlCells (s : State) (r : PoolRec) (rid : Nat) : Option Nat :=
  ((cellsFrom s rid r.inSrc).find? (·.ofs == 0)).map fun a =>
    ceilDiv (ixlLen r.weightMode (payNat a.payload 0 2) (payNat a.payload 4 4)) 48

/-- A fabric IXL is complete (05 R183). -/
def ixlComplete (s : State) (r : PoolRec) (rid : Nat) : Bool :=
  match ixlCells s r rid with
  | some n => hasAll s rid r.inSrc n
  | none => false

/-- A request flow has brought its TXN_END (06 R220). -/
def flowEnded (s : State) (rid : Nat) (f : HomeFlow) : Bool :=
  s.eng.arrivals.any fun a =>
    a.rid == rid && a.src == f.submitter && a.flow == f.reqFlow && a.kind == 0xA && decide (a.reach ≤ s.mer) && !onWay s a

/-- The endpoint inputs of a record that are incomplete now (R627). -/
def missingInputs (s : State) (w : WorkRec) : List Nat :=
  match w.body with
  | .red r => ((myChildren s r.tree).filter fun c => c.level == 0 && !(hasAll s w.rid c.node (redCells r true))).map (·.node)
  | .bar r => ((myChildren s r.tree).filter fun c => c.level == 0 && !(hasAll s w.rid c.node (barCells r true))).map (·.node)
  | .pool r => if r.fabricIdx && !(ixlComplete s r w.rid) then [r.inSrc] else []
  | .mov r => if r.fabricSrc && !(hasAll s w.rid r.inSrc (ceilDiv r.len 48)) then [r.inSrc] else []
  | .home h => (h.flows.filter fun f => !(flowEnded s w.rid f)).map (·.submitter)

/-- Device children of a record whose partial results are incomplete. -/
def missingDevices (s : State) (w : WorkRec) : List Nat :=
  match w.body with
  | .red r => ((myChildren s r.tree).filter fun c => c.level != 0 && !(hasAll s w.rid c.node (redCells r false))).map (·.node)
  | .bar r => ((myChildren s r.tree).filter fun c => c.level != 0 && !(hasAll s w.rid c.node (barCells r false))).map (·.node)
  | _ => []

/-- The tick at which the endpoint inputs of a record are judged: 24 ticks after the deadline (R627). -/
def judgeAt (s : State) (w : WorkRec) : Option Nat := (deadlineOf s w).map (· + 24)

/-- The inputs of a record are in, or its deadline has been judged: the engine can complete (R143). -/
def inputsDone (s : State) (w : WorkRec) : Bool :=
  (missingDevices s w).isEmpty &&
    ((missingInputs s w).isEmpty ||
      (match judgeAt s w with
       | some t => decide (t ≤ s.mer)
       | none => true))

/-- A submitter's request cell comes after the deadline of the step's home record (06 R220). -/
def lateRequest (s : State) (src flow : Nat) : Bool :=
  match homeRec? s with
  | some (w, h) => (h.flows.any fun f => f.submitter == src && f.reqFlow == flow) && (deadlineOf s w).any fun d => decide (d ≤ s.mer)
  | none => false

/-- A member's cell whose record has ended with its RELEASE tick came after the record's deadline: it is late (04 R157). -/
def lateMember (s : State) (src flow kind : Nat) : Bool :=
  (stepWork s).any fun w => kind != 3 && takes s w src flow kind &&
    (match w.body with
     | .red r => (myChildren s r.tree).any fun c => c.node == src && c.level == 0
     | .bar r => (myChildren s r.tree).any fun c => c.node == src && c.level == 0
     | _ => true) &&
    (match deadlineOf s w with
     | some d => decide (d ≤ s.mer)
     | none => false)

/-! ## Lag entries (04 R158 to R162) -/

/-- The endpoint members attached directly to this device (R161). -/
def attached (s : State) : List Nat :=
  match s.pln.active with
  | some p => planMembers p
  | none => []

/-- An entry with nothing counted. -/
def LagEntry.empty (node : Nat) : LagEntry := ⟨node, 0, 0, 0, 0, 0, List.replicate 16 0⟩

/-- The lag entries of a plan that begins: one for each attached member in ascending node-ID order (R161, R169). -/
def beginLags (s : State) : State :=
  { s with fab := { s.fab with lags := (attached s).map fun n => (s.fab.lags.find? (·.node == n)).getD (.empty n) } }

/-- A node has a lag entry, or is attached and so has one from now on (R161, R171). -/
def hasLag (s : State) (node : Nat) : Bool := (s.fab.lags.any fun e => e.node == node) || (attached s).contains node

/-- Update the entry of a member, if it is attached. -/
def onLag (s : State) (node : Nat) (f : LagEntry → LagEntry) : State :=
  if s.fab.lags.any fun e => e.node == node then
    { s with fab := { s.fab with lags := s.fab.lags.map fun e => if e.node = node then f e else e } }
  else if (attached s).contains node then
    { s with fab := { s.fab with lags := (s.fab.lags.filter (·.node < node)) ++ [f (.empty node)] ++ s.fab.lags.filter (node < ·.node) } }
  else s

/-- A 32-bit count that stops (R161). -/
def sat32 (n : Nat) : Nat := min n 0xFFFFFFFF

/-- The bin of a lag (R161). -/
def lagBin (lag : Nat) : Nat := if lag = 0 then 0 else min 15 (lag.log2 + 1)

/-- One barrier or step in which a member took part (R158, R161). -/
def countLag (s : State) (node lag : Nat) (missed : Bool) : State :=
  onLag s node fun e =>
    let b := if missed then 15 else lagBin lag
    { e with
      last := lag
      max := max e.max lag
      misses := if missed then sat32 (e.misses + 1) else e.misses
      bins := e.bins.modify b fun n => sat32 (n + 1) }

/-- A cell that this device discards for its STEP (R162). -/
def countStale (s : State) (src : Nat) : State :=
  if hasLag s src then onLag s src fun e => { e with stale := sat32 (e.stale + 1) }
  else setF (bumpSat s 0 Reg.bruStaleOther_count 1) 0 Reg.bruStaleOther_lastSrc src

/-- A cell that came after its deadline (R157). -/
def countLate (s : State) (src : Nat) : State := onLag s src fun e => { e with late := sat32 (e.late + 1) }

/-- The tick of a member's last cell of the step (R158). -/
def noteArrival (s : State) (src tick : Nat) : State :=
  if hasLag s src then
    { s with fab := { s.fab with lagNow := kvPut s.fab.lagNow src (max tick ((kvGet s.fab.lagNow src).getD 0)) } }
  else s

/-- Of two slots, the slower: MISSED before any arrival, then the later arrival, then the lower node ID (R159). -/
def slower (a b : LagSlot) : LagSlot :=
  let e := min (if a.none then b.earliest else a.earliest) (if b.none then a.earliest else b.earliest)
  let pick :=
    if a.none then b else if b.none then a
    else if a.missed ≠ b.missed then (if a.missed then a else b)
    else if a.value ≠ b.value then (if b.value < a.value then a else b)
    else if a.node ≤ b.node then a else b
  { pick with earliest := e }

/-- The upward lag slot of one member: its arrival, or its deadline where it missed it, as an offset from B (R150, R158). -/
def memberSlot (s : State) (node arrival : Nat) (missed : Option Nat) : LagSlot :=
  let b := stepBase s
  match missed with
  | some d => ⟨node, true, false, false, d - b, 0xFFFFFFFFFF⟩
  | none => ⟨node, false, false, false, arrival - b, arrival - b⟩

/-- The downward slot that the zenith makes of an upward one (R150, R159). -/
def downSlot (l : LagSlot) (voided : Bool) : LagSlot :=
  if l.none then { l with voided := voided } else { l with value := l.value - l.earliest, voided := voided }

/-- A lag slot as its 16 bytes (R150). -/
def lagBytes (l : LagSlot) : List Byte :=
  if l.none then leBytes 2 0 ++ leBytes 1 (2 + (if l.voided then 4 else 0)) ++ leBytes 13 0
  else leBytes 2 l.node ++ leBytes 1 ((if l.missed then 1 else 0) + (if l.voided then 4 else 0)) ++
    leBytes 5 l.value ++ leBytes 5 l.earliest ++ leBytes 3 0

/-- A lag slot from 16 bytes of a payload. -/
def lagOf (p : Payload) (ofs : Nat) : LagSlot :=
  let f := payNat p (ofs + 2) 1
  ⟨payNat p ofs 2, f.testBit 0, f.testBit 1, f.testBit 2, payNat p (ofs + 3) 5, payNat p (ofs + 8) 5⟩

end Sys2Proof.Machine
end

