-- ==== Sys2Proof/Machine/Reduce.lean ====
section
/-! DEFINITION. Reduction and barrier records: the accumulation of their inputs, what they send and what they write (04 R137
to R152). -/

namespace Sys2Proof.Machine

/-- Destinations of a multicast on a flow: the group values that PLAN runs of the step's egress tables name for the flow,
or each member where no run names a group (04 R138, R152; DEDUCED, log 12). -/
def multicastDsts (s : State) (flow : Nat) (members : List Nat) : List Nat :=
  match s.pln.active, curStep s with
  | some p, some t =>
    let gs := (p.tables.filter fun tb => tb.resource / 2 ^ 28 == 1 && tb.tableSet == t.tableSet).flatMap fun tb =>
      (tb.runs.filter fun r => r.use == 1 && r.flow == flow && isGroupDst r.peer).map (·.peer)
    if gs.isEmpty then members else gs.dedup
  | _, _ => members

/-! ## Reduction records -/

/-- The format of a child's cells: IN_FMT from an endpoint, PSF from a device (R140). -/
def childFmt (s : State) (r : RedRec) (src : Nat) : Nat :=
  if (myChildren s r.tree).any (fun c => c.node == src && c.level == 0) then r.inFmt else 3

/-- One cell's term of element i (R140, R141): its own element of that index, if the cell carries it. -/
def redTerm (s : State) (r : RedRec) (i : Nat) (a : Exa × NumFlags) (c : Arrival) : Exa × NumFlags :=
  let fmt := childFmt s r c.src
  if c.ofs = i / perCell fmt then
    let w := payElem fmt c.payload (i % perCell fmt)
    if fmt = 3 then
      match decodePsf (BitVec.ofNat 128 w) with
      | some t => accTerm a t false
      | none => a
    else accCode (numMode s) fmt a w
  else a

/-- The accumulation of element i over the cells that the record holds, in arrival order (R108, R141). -/
def redElem (s : State) (r : RedRec) (rid i : Nat) : Exa × NumFlags :=
  (s.eng.arrivals.filter (·.rid == rid)).foldl (redTerm s r i) (exaInit, 0)

/-- All N accumulations with the flags they raise. -/
def redSums (s : State) (r : RedRec) (rid : Nat) : List (Exa × NumFlags) := (List.range r.n).map (redElem s r rid)

/-- Cells of element codes on a flow to a destination. -/
def dataCells (fmt dst flow : Nat) (codes : List Nat) : List TxCell :=
  (withOfs (elemCells fmt codes)).map fun p => ⟨1, 0, dst, flow, p.1, p.2⟩

/-- Shares of a reduce-scatter: share j to the member of rank j on OUT_FLOW + j, from OFS 0 (R138, R140, R164). -/
def shareCells (r : RedRec) (members : List Nat) (codes : List Nat) : List TxCell :=
  ((List.range r.shares).zip members).flatMap fun jm =>
    dataCells r.ocd.fmt jm.2 (r.outFlow + jm.1) ((codes.drop (jm.1 * r.shareLen)).take r.shareLen)

/-- What a reduction record gives when it completes: cells, region writes, flags, the rounded-PSF count and its component
item (R138, R141, 12 R429). -/
structure RedOut where
  cells : List TxCell
  writes : List (Nat × List Byte)
  flags : NumFlags
  rounded : Nat
  item : List Byte
  deriving DecidableEq, Repr

/-- The result of a reduction record on this device (R138, R141, R145). -/
def redResult (s : State) (r : RedRec) (rid : Nat) : RedOut :=
  let sums := redSums s r rid
  let accFlags := sums.foldl (fun f a => f ||| a.2) 0
  match myNode s r.tree with
  | none => ⟨[], [], accFlags, 0, []⟩
  | some (t, n) =>
    if t.zenith = nodeId s then
      let conv := sums.map fun a => convert (numMode s) r.ocd 149 (exaResult a.1)
      let codes := conv.map (·.1)
      let members := t.members.map (·.node)
      let bytes := elemBytes r.ocd.fmt codes
      let cells :=
        if r.op = 1 then (multicastDsts s r.outFlow members).flatMap fun d => dataCells r.ocd.fmt d r.outFlow codes
        else if r.op = 3 then shareCells r members codes
        else []
      let writes := if r.region = 0xFFFFFFFF ∨ r.n = 0 then [] else [(regionAddr s r.region r.ofs, bytes)]
      ⟨cells, writes, conv.foldl (fun f c => f ||| c.2) accFlags, 0, leBytes 4 r.n ++ digestBytes (sha384 bytes)⟩
    else
      let psf := sums.map fun a => convertPsf (numMode s) r.ocd 149 (exaResult a.1)
      ⟨dataCells 3 n.parent r.outFlow (psf.map fun p => p.1.toNat), [], accFlags, (psf.filter (·.2)).length, []⟩

/-! ## Barrier records -/

/-- Value j of an endpoint's cells (R149, R150). -/
def barLeafValue (l : List Arrival) (j : Nat) : Option Nat :=
  (l.find? (·.ofs == j / 6)).map fun a => payNat a.payload (8 * (j % 6)) 8

/-- Slot k of a device's cells (R150): 16 bytes, three per cell. -/
def barSlot (l : List Arrival) (k : Nat) : Option (BitVec 128) :=
  (l.find? (·.ofs == k / 3)).map fun a => BitVec.ofNat 128 (payNat a.payload (16 * (k % 3)) 16)

/-- A 64-bit code as a signed number. -/
def asInt (v : Nat) : Int := (BitVec.ofNat 64 v).toInt

/-- The bound that an exact INT64 sum saturates to, and whether it does (R149). -/
def satInt64 (v : Int) : Nat × Bool :=
  if v < -(2 ^ 63) then (2 ^ 63, true)
  else if 2 ^ 63 ≤ v then (2 ^ 63 - 1, true)
  else ((BitVec.ofInt 64 v).toNat, false)

/-- An integer or bitwise operation over the terms' codes (R149). An upward ISUM is the 64-bit bound of its subtree. R149 and R164 set
OVF beyond INT64, where R126 says that no event outside its own table sets a flag: the model follows R149 (DESIGN CHOICE, log 82). -/
def barCombine (mode : Word) (op : Nat) (l : List Nat) : Nat × NumFlags :=
  match op with
  | 2 => let r := satInt64 (l.map asInt).sum; (r.1, flagIf r.2 fOvf)
  | 3 => (l.foldl (fun a b => if asInt b < asInt a then b else a) (l.headD 0), 0)
  | 4 => (l.foldl (fun a b => if asInt a < asInt b then b else a) (l.headD 0), 0)
  | 5 => fminmax mode false (l.map (· % 2 ^ 32))
  | 6 => fminmax mode true (l.map (· % 2 ^ 32))
  | 7 => (l.foldl (· &&& ·) (2 ^ 64 - 1), 0)
  | 8 => (l.foldl (· ||| ·) 0, 0)
  | _ => (0, 0)

/-- The accumulation of an FSUM value over endpoint and device children, in the tree's node order (R149). The manual gives no order,
and INV can depend on it where both infinities meet a quiet NaN (R109; DESIGN CHOICE, log 83). -/
def barFsum (s : State) (kids : List TreeNode) (rid j : Nat) : Exa × NumFlags :=
  kids.foldl (fun a k =>
    let l := cellsFrom s rid k.node
    if k.level = 0 then
      match barLeafValue l j with
      | some v => accCode (numMode s) 2 a (v % 2 ^ 32)
      | none => a
    else
      match (barSlot l (j + 1)).bind decodePsf with
      | some t => accTerm a t false
      | none => a) (exaInit, 0)

/-- The codes of value j of the children that sent it (R149 to R151). -/
def barCodes (s : State) (kids : List TreeNode) (rid j : Nat) : List Nat :=
  kids.filterMap fun k =>
    let l := cellsFrom s rid k.node
    if k.level = 0 then barLeafValue l j else (barSlot l (j + 1)).map fun w => w.toNat % 2 ^ 64

/-- The upward lag slot over the children of a barrier (R150, R151, R159). -/
def barLag (s : State) (kids : List TreeNode) (rid : Nat) : LagSlot :=
  kids.foldl (fun a k =>
    let l := cellsFrom s rid k.node
    if k.level = 0 then
      match s.eng.missed.find? (fun m => m.1 == rid && m.2.1 == k.node) with
      | some m => slower a (memberSlot s k.node 0 (some m.2.2))
      | none => slower a (memberSlot s k.node ((l.map (·.tick)).max?.getD (stepBase s)) none)
    else
      match barSlot l 0 with
      | some w => slower a (lagOf (w.zeroExtend 384) 0)
      | none => a) .empty

/-- Pack 16-byte slots three to a cell (R150). -/
def slotCells (kind dst flow : Nat) (slots : List (List Byte)) : List TxCell :=
  (withOfs (chunks 3 slots.length slots)).map fun p => ⟨kind, 0, dst, flow, p.1, payOf p.2.flatten⟩

/-- The cells of a downward release: the lag slot and the final values from offset 16 on (R150). -/
def downCells (dst flow : Nat) (lag : LagSlot) (vals : List Nat) : List TxCell :=
  let body := lagBytes lag ++ vals.flatMap (leBytes 8)
  (withOfs (chunks 48 (body.length + 1) body)).map fun p => ⟨3, 0, dst, flow, p.1, payOf p.2⟩

/-- What a barrier record gives when it completes. -/
structure BarOut where
  cells : List TxCell
  writes : List (Nat × List Byte)
  flags : NumFlags
  rounded : Nat
  item : List Byte
  lag : LagSlot
  deriving DecidableEq, Repr

/-- The result of a barrier record on this device (R148 to R152): values and lag slot upward below the zenith, the final
values and the downward slot at the zenith, all zero where a member was missed (R151). -/
def barResult (s : State) (r : BarRec) (rid : Nat) : BarOut :=
  match myNode s r.tree with
  | none => ⟨[], [], 0, 0, [], .empty⟩
  | some (t, n) =>
    let kids := t.children (nodeId s)
    let lag := barLag s kids rid
    let vals := r.ops.zipIdx.map fun oj =>
      if oj.1 = 1 then (none, barFsum s kids rid oj.2) else (some (barCombine (numMode s) oj.1 (barCodes s kids rid oj.2)), (exaInit, 0))
    let flags := vals.foldl (fun f v =>
      f ||| (match v.1 with
        | some c => c.2
        | none => v.2.2)) (0 : NumFlags)
    if t.zenith = nodeId s then
      let fin := vals.map fun v =>
        match v.1 with
        | some c => (c.1, (0 : NumFlags))
        | none => convert (numMode s) fsumOcd 149 (exaResult v.2.1)
      let out := if lag.missed then fin.map (fun _ => 0) else fin.map (·.1)
      let down := downSlot lag lag.missed
      let members := t.members.map (·.node)
      let cells := (multicastDsts s r.outFlow members).flatMap fun d => downCells d r.outFlow down out
      let writes := if r.region = 0xFFFFFFFF then [] else [(regionAddr s r.region r.ofs, out.flatMap (leBytes 8))]
      ⟨cells, writes, fin.foldl (fun f v => f ||| v.2) flags, 0, leBytes 1 r.ops.length ++ out.flatMap (leBytes 8), down⟩
    else
      let up := vals.map fun v =>
        match v.1 with
        | some c => (leBytes 8 c.1 ++ leBytes 8 0, false)
        | none => let p := encodePsf 149 (exaResult v.2.1); (leBytes 16 p.1.toNat, p.2)
      ⟨slotCells 2 n.parent r.outFlow (lagBytes lag :: up.map (·.1)), [], flags, (up.filter (·.2)).length, [], lag⟩

end Sys2Proof.Machine
end

