-- ==== Sys2Proof/Machine/MemOps.lean ====
section
/-! DEFINITION. Uncorrectable bursts, writes burst by burst, the commit stage and its drain (08 R272, R623; 06 R227). -/

namespace Sys2Proof.Machine

/-- MEM_UE_LOG takes the node offset of the uncorrectable 256-byte line, and the pseudo-channel that it was read from: its location at the
start of the tick (08 R265, R278, R296, R297). -/
def logUe (s : State) (a : Nat) (copy : Bool) : State :=
  let p := locThen s a
  setReg s 0 0x0800 0x118
    (BitVec.ofNat 64 ((a - a % 256) % 2 ^ 40 + p.pc * 2 ^ 40 + p.stack * 2 ^ 45 + (if copy then 2 ^ 50 else 0) + 2 ^ 51))

/-- A user reads an uncorrectable burst: counters, MEM_UE_LOG and the fault MEM_UE (R272, R622 for its NODE). -/
def memUe (s : State) (a : Nat) : State :=
  let p := locThen s a
  let s := bump (bump s 0 Reg.memCntUe) p.stack Reg.memStkCntUe
  fault (logUe s a false) 0x11 (pageOf 9 p.stack) p.sub 0xFFFF (burstOf a) 0

/-- A read of n bytes; where a burst is uncorrectable the fault is raised and nothing is read (R272). -/
def readChecked (s : State) (a n : Nat) : State × Option (List Byte) :=
  match firstUe s a n with
  | some u => (memUe s u, none)
  | none => (s, some (readBytes s a n))

/-- A burst is no longer uncorrectable. -/
def clearUe (s : State) (b : Nat) : State := { s with mem := { s.mem with ue := s.mem.ue.filter (· != b) } }

/-- A write gives a burst a new codeword: what the decoder made of the old one goes (R272). -/
def freshBurst (s : State) (a : Nat) : State :=
  if s.mem.judged.isEmpty then s else { s with mem := { s.mem with judged := s.mem.judged.filter fun x => x.1 != burstOf a } }

/-- Write the part of the data that lies in one burst (R623): a whole burst makes it correctable; a part of an
uncorrectable burst makes no write, and the burst is named in the answer. A lost pseudo-channel keeps nothing (R292). -/
def writeBurst (s : State) (a : Nat) (bs : List Byte) : State × Option Nat :=
  if deadByte s a then
    if bs.length = 32 then (s, none) else (memUe s a, some (burstOf a))
  else if s.mem.ue.contains (burstOf a) then
    if bs.length = 32 then (freshBurst (putBytes (clearUe s (burstOf a)) a bs) a, none) else (memUe s a, some (burstOf a))
  else (freshBurst (putBytes s a bs) a, none)

/-- The data cut at burst bounds, each piece with its address. -/
def burstPieces : Nat → Nat → List Byte → List (Nat × List Byte)
  | 0, _, _ => []
  | _ + 1, _, [] => []
  | f + 1, a, bs =>
    let n := 32 - a % 32
    (a, bs.take n) :: burstPieces f (a + n) (bs.drop n)

/-- Words of the commit stage that a write covers take the written bytes (06 R227). -/
def overStage (s : State) (a : Nat) (bs : List Byte) : State :=
  { s with eng := { s.eng with stage := s.eng.stage.map fun kw =>
      (kw.1, (List.range 8).foldl (fun w i =>
        if a ≤ kw.1 + i ∧ kw.1 + i < a + bs.length then
          putBits w (8 * i) 8 (bs.getD (kw.1 + i - a) 0).toNat
        else w) kw.2) } }

/-- Every byte of a piece lies in a word that the commit stage holds: the write goes to the stage alone (06 R227). -/
def inStage (s : State) (a n : Nat) : Bool := decide (0 < n) && (List.range n).all fun i => (stagedWord s (a + i)).isSome

/-- A write of bytes to HBM, with the bursts that could not be written (R623). -/
def writeChecked (s : State) (a : Nat) (bs : List Byte) : State × List Nat :=
  (burstPieces (bs.length + 1) a bs).foldl (fun r p =>
    if inStage r.1 p.1 p.2.length then r
    else
      let w := writeBurst r.1 p.1 p.2
      (w.1, r.2 ++ w.2.toList)) (overStage s a bs, [])

/-- A write of an engine record or a sink: a burst that could not be written voids the step (R623). -/
def writeVoid (s : State) (a : Nat) (bs : List Byte) : State :=
  let r := writeChecked s a bs
  if r.2.isEmpty then r.1 else report r.1 4

/-! ## Pseudo-channel slots (R266; 01 R36) -/

/-- Burst positions of a tick: two at frame offsets 0 to 2, one at 3 (R266). -/
def tickBursts (t : Nat) : Nat := if t % 4 = 3 then 1 else 2

/-- Burst positions of the ticks below `t`. -/
def burstsBelow (t : Nat) : Nat := 7 * (t / 4) + 2 * (t % 4)

/-- Burst positions that runs of a pseudo-channel which meet a condition give between two ticks of the step (02 R58, R59). -/
def slotBursts (s : State) (ok : Run → Bool) (stack pc lo hi : Nat) : Nat :=
  match curTable s (pcRes stack pc) with
  | none => 0
  | some t =>
    let b := stepBase s
    ((t.runs.filter ok).map fun r =>
      ((List.range (ceilDiv (stepEnd s - b) (max t.cycle 1))).map fun k =>
        let a := b + r.start + k * t.cycle
        burstsBelow (min (a + r.len) (min hi (stepEnd s))) - burstsBelow (max a lo)).sum).sum

/-- Burst positions of a pseudo-channel in a tick that host staging and capture have taken, the read of a read-merge-write among them. -/
def pcUsed (s : State) (stack pc t : Nat) : Nat :=
  let here := fun a => (locOf s a).stack == stack && (locOf s a).pc == pc
  (s.host.moves.filter fun m => m.pc == t && here m.base).length + (s.host.moves.filter fun m => m.merge == some t && here m.base).length +
    (s.host.caps.map fun c => ((withOfs c.slots).filter fun x => x.2.2.2 == t && here (c.base + 32 * x.1)).length).sum

/-- The tick in which a burst of a pseudo-channel is served: the first from `lo` on whose run meets a condition, or COPY tick for a spare
line (R280), that still has a burst position beside `taken`. `fuel` counts the ticks that may be full. -/
def pcTick (s : State) (ok : Run → Bool) (a : Nat) (taken : List Nat) : Nat → Nat → Option Nat
  | 0, _ => none
  | fuel + 1, lo =>
    let p := locOf s a
    let moved := (movedTo s (physOf s a)).isSome
    match slotWhere s (pcRes p.stack p.pc) (fun r => if moved then r.use == 10 else ok r) lo with
    | none => none
    | some o =>
      let t := stepBase s + o
      if pcUsed s p.stack p.pc t + taken.count t < tickBursts t then some t else pcTick s ok a taken fuel (o + 1)

/-- Ticks of a pseudo-channel or link that may be full. -/
def fullTicks (s : State) : Nat := 2 * s.host.moves.length + 4 * s.host.caps.length + 2

/-! ### Accesses that wait for their positions (01 R36; 07 R243, R244) -/

/-- A byte lies in a region of the active plan. -/
def regionHolds (s : State) (id a : Nat) : Bool :=
  match planRegion s id with
  | some g => decide (g.base ≤ a) && decide (a < g.base + g.size)
  | none => false

/-- A range cut at unit bounds: 32-byte bursts, and for a read from a far stack 64-byte units (05 R192; 07 R243). Each piece is its
address and its length. -/
def accPieces (s : State) (die : Nat) (write : Bool) : Nat → Nat → Nat → List (Nat × Nat)
  | 0, _, _ => []
  | f + 1, a, n =>
    if n = 0 then []
    else
      let unit := if !write && (locOf s a).stack / 5 != die then 64 else 32
      let m := min n (unit - a % unit)
      (a, m) :: accPieces s die write f (a + m) (n - m)

/-- Positions of an access: one for a burst, two for a 64-byte unit, and two for a write that covers a burst only in part (R270). -/
def accCost (s : State) (die : Nat) (write : Bool) (a n : Nat) : Nat :=
  if write then (if n = 32 then 1 else 2) else if (locOf s a).stack / 5 != die then 2 else 1

/-- The accesses of a range for a user on a memory die. -/
def accRange (s : State) (user : MemUser) (die region : Nat) (write : Bool) (a n ready : Nat) : List MemAcc :=
  (accPieces s die write (n + 1) a n).map fun p =>
    ⟨user, region, write, p.1, p.2, p.1 - a, [], ready, accCost s die write p.1 p.2⟩

/-- The accesses of a write whose bytes are known. -/
def accWrite (s : State) (user : MemUser) (die region a : Nat) (bs : List Byte) (ready : Nat) : List MemAcc :=
  (accRange s user die region true a bs.length ready).map fun x => { x with bytes := (bs.drop x.ofs).take x.len }

/-- Accesses join those that wait. -/
def addTodo (s : State) (l : List MemAcc) : State := { s with eng := { s.eng with todo := s.eng.todo ++ l } }

/-- A user's accesses go. -/
def dropTodo (s : State) (gone : MemUser → Bool) : State :=
  { s with eng := { s.eng with todo := s.eng.todo.filter fun x => !gone x.user } }

/-- A record has accesses that wait. -/
def todoOf (s : State) (u seq : Nat) : List MemAcc := s.eng.todo.filter fun x => x.user == .record u seq

/-- A job with nothing done yet, in a state of 05 R182. -/
def freshJob (s : State) (u seq state : Nat) : Job :=
  ⟨u, seq, s.mer, state, none, false, false, false, 0, [], [], 0, 0, [], [], [], [], .empty⟩

/-! ## Sink writes (09 R326) -/

/-- The payload of a sink's cell waits for its FIRM ticks, burst by burst. -/
def sinkBytes (s : State) (region from' a : Nat) (bs : List Byte) : State :=
  addTodo s (accWrite s .sink 0 region a bs from')

/-- The word of the commit stage leaves for HBM; behind an uncorrectable burst it is lost (R227, R623). -/
def drainWord (s : State) (kw : Nat × Word) : State :=
  match stagedWord s kw.1 with
  | some w =>
    let s := { s with eng := { s.eng with stage := kvDel s.eng.stage (kw.1 / 8 * 8) } }
    (writeBurst s (kw.1 / 8 * 8) (leBytes 8 w.toNat)).1
  | none => s

/-- The whole commit stage drains (R227). -/
def drainStage (s : State) : State :=
  let t := s.eng.stage.foldl drainWord s
  dropTodo { t with eng := { t.eng with stage := [] } } (· == .drain)

/-- Every word of the commit stage waits for its FIRM slots: it covers its burst in part, a read and a write (R227, R623; 08 R270). -/
def awaitDrain (s : State) : State :=
  addTodo s ((s.eng.stage.filter fun kw => !s.eng.todo.any fun x => x.user == .drain && x.base == kw.1).map fun kw =>
    ⟨.drain, 0, true, kw.1, 8, 0, [], s.mer, 2⟩)

/-- The first line of a range whose current location is on a pseudo-channel that is reported lost. The segments of a relocated LOST
pseudo-channel are read from the spare rows (08 R290, R291). -/
def firstLost (s : State) (a n : Nat) : Option Nat :=
  if s.mem.dead.isEmpty && !s.mem.relocs.any (·.lost) then none else (rangeLines a n).find? (deadByte s)

end Sys2Proof.Machine
end

