-- ==== Sys2Proof/Machine/Mover.lean ====
section
/-! DEFINITION. The Movers: transfers in a plan and on the control channel, digests and bus errors (07 R236 to R258). -/

namespace Sys2Proof.Machine

/-- The page of a Mover. -/
def movPage (die : Nat) : Nat := pageOf 7 die

/-- Status of a channel (R257): 0 IDLE, 1 BUSY, 2 DONE, 3 EMPTY, 4 BUSERR, 5 CANCELLED. -/
def chStat (s : State) (die ch : Nat) : Nat := bits (getReg s 0 (movPage die) 0x108) (4 * ch) 4

/-- Set the status of a channel; BUSY in MOV_STATUS follows it. -/
def setChStat (s : State) (die ch v : Nat) : State :=
  let s := setReg s 0 (movPage die) 0x108 (putBits (getReg s 0 (movPage die) 0x108) (4 * ch) 4 v)
  setReg s 0 (movPage die) 0x100 (putBits (getReg s 0 (movPage die) 0x100) (8 + ch) 1 (if v = 1 then 1 else 0))

/-- The Mover is stopped by a bus error. -/
def movStopped (s : State) (die : Nat) : Bool := decide (getF s die Reg.movStatus_stopped = 1)

/-- The completion flag of a transfer is set in this tick. -/
def noteEnd (s : State) (j : MovJob) : State :=
  let t := tieNow s
  { s with tie := { t with ends := j :: t.ends } }

/-- Transfers of a Mover whose completion flag was set in this tick and not before it (R250). -/
def endsNow (s : State) (die : Nat) : List MovJob := (tieNow s).ends.filter (·.mover == die)

/-- Channels that had not set their completion flag before this tick (R250). -/
def openChannels (s : State) (die : Nat) : List Nat :=
  (List.range 16).filter fun ch => chStat s die ch == 1 || (endsNow s die).any (·.channel == ch)

/-- Control-channel transfers of a Mover whose destination becomes undefined. -/
def dropMovJobs (s : State) (die : Nat) (only : Nat → Bool) : State :=
  let gone := s.eng.movJobs.filter fun j => j.mover == die && only j.channel
  let s := { s with eng := { s.eng with movJobs := s.eng.movJobs.filter fun j => !(j.mover == die && only j.channel) } }
  gone.foldl (fun s j => makeUndef s j.cmd.dstOfs j.cmd.len none) s

/-- A control-channel transfer whose flag was set in the tick of a bus error takes BUSERR: its destination is undefined (R250, R252). -/
def dropEnds (s : State) (die : Nat) : State :=
  if planRuns s then s else (endsNow s die).foldl (fun s j => makeUndef s j.cmd.dstOfs j.cmd.len none) s

/-- A bus error at a byte: the fault, MOV_BUSERR, every channel that had not finished before BUSERR and the Mover STOPPED; in a plan the
step ends VOID with cause UNCORR (R250, R251). -/
def movBusErr (s : State) (die addr : Nat) (write : Bool) : State :=
  let busy := openChannels s die
  let p := locThen s addr
  let mask := busy.foldl (fun m ch => m + 2 ^ ch) 0
  let s := faultVoid s 4 9 (movPage die) mask 0xFFFF (burstOf addr) (p.stack * 32 + p.pc)
  let s := setReg s 0 (movPage die) 0x110
    (BitVec.ofNat 64 (burstOf addr % 2 ^ 40 + p.pc * 2 ^ 40 + p.stack * 2 ^ 45 + (if write then 2 ^ 50 else 0) + 2 ^ 51))
  let s := busy.foldl (fun s ch => setChStat s die ch 4) s
  let s := bump (setF s die Reg.movStatus_stopped 1) die Reg.movCntBuserr
  let s := { s with eng := { s.eng with jobs := s.eng.jobs.map fun j =>
    if j.unit % 16 = 4 ∧ j.unit / 16 % 16 = die ∧ (j.doneAt = none ∨ j.doneAt = some s.mer) then { j with busErr := true } else j } }
  let s := dropTodo s fun
    | .record u _ => u % 16 == 4 && u / 16 % 16 == die
    | _ => false
  dropMovJobs (dropEnds s die) die fun _ => true

/-- The Mover recovers: the buffer empties, BUSERR channels return to IDLE, STOPPED and VALID clear (R251, R252). -/
def movRecover (s : State) (die : Nat) : State :=
  let s := (List.range 16).foldl (fun s ch => if chStat s die ch = 4 then setChStat s die ch 0 else s) s
  setF (setF s die Reg.movStatus_stopped 0) die Reg.movBuserr_valid 0

/-- At the end of a step the channels of records that have not finished stop: no record runs on them any more (R257; DEDUCED, log 85). -/
def stopChannels (s : State) : State :=
  [0, 1, 2, 3].foldl (fun s d => (List.range 16).foldl (fun s ch =>
    if chStat s d ch = 1 && !(s.eng.movJobs.any fun j => j.mover == d && j.channel == ch) then setChStat s d ch 0 else s) s) s

/-- A read of the source by a Mover: an uncorrectable burst raises MEM_UE and is a bus error, and so is an access to a
pseudo-channel that is reported lost (R250). -/
def movRead (s : State) (die a n : Nat) : State × Option (List Byte) :=
  match firstLost s a n with
  | some b => (movBusErr s die b false, none)
  | none =>
    match readChecked s a n with
    | (s, some l) => (s, some l)
    | (t, none) => (movBusErr t die ((firstUe s a n).getD a) false, none)

/-- A write of the destination by a Mover (R250, R623); true if all of it was written. -/
def movWrite (s : State) (die a : Nat) (bs : List Byte) : State × Bool :=
  match firstLost s a bs.length with
  | some b => (movBusErr s die b true, false)
  | none =>
    let r := writeChecked s a bs
    match r.2 with
    | [] => (r.1, true)
    | b :: _ => (movBusErr r.1 die b true, false)

/-- The bytes that FILL lays from an offset on (R239). -/
def fillBytes (pattern ofs n : Nat) : List Byte := (List.range n).map fun j => BitVec.ofNat 8 (pattern >>> (8 * ((ofs + j) % 8)))

/-- Cells of a transfer from its bytes (R240). -/
def movCells (r : MovRec) (bs : List Byte) : List TxCell :=
  (withOfs (chunks 48 (bs.length + 1) bs)).map fun c => ⟨1, 0, r.destNode, r.outFlow, c.1, payOf c.2⟩

/-- The cell that a record from fabric to fabric sends for one that it takes: the bytes of the transfer, and zeros beyond its last byte
(R240). -/
def movCell (r : MovRec) (ofs : Nat) (p : Payload) : TxCell :=
  ⟨1, 0, r.destNode, r.outFlow, ofs, payOf ((payBytes p).take (r.len - 48 * ofs))⟩

/-- The AUX record of a digest: SEQ, source region, offset, LEN and digest (R248, 12 R433). -/
def movAux (r : MovRec) (seq : Nat) (d : Digest) : List Byte :=
  leBytes 4 seq ++ leBytes 4 r.srcRegion ++ leBytes 8 r.srcOfs ++ leBytes 8 r.len ++ digestBytes d

/-- Counter increments of a finished transfer. -/
def movCounts (die : Nat) (r : MovRec) : List (Nat × Nat) :=
  [(movPage die * 4096 + 0x40, 1), (movPage die * 4096 + 0x48, r.len),
    (movPage die * 4096 + 0x50, if r.len = 0 then 1 else 0), (movPage die * 4096 + 0x60, if r.digest then 1 else 0)]

/-- Add counter increments. -/
def addCounts (s : State) (l : List (Nat × Nat)) : State :=
  l.foldl (fun s c => if c.2 = 0 then s
    else setReg s 0 (c.1 / 4096) (c.1 % 4096) (getReg s 0 (c.1 / 4096) (c.1 % 4096) + BitVec.ofNat 64 c.2)) s

/-- The accesses of a record: the reads of a source in memory, then the writes of a destination in memory (R243, R244). -/
def movTodo (s : State) (u seq : Nat) (r : MovRec) : List MemAcc :=
  let die := u / 16 % 16
  let user := MemUser.record u seq
  let a := regionAddr s r.dstRegion r.dstOfs
  (if r.fill || r.fabricSrc then [] else accRange s user die r.srcRegion false (regionAddr s r.srcRegion r.srcOfs) r.len s.mer) ++
    (if r.fabricDst then []
     else if r.fill then accWrite s user die r.dstRegion a (fillBytes r.srcOfs r.dstOfs r.len) s.mer
     else accRange s user die r.dstRegion true a r.len s.mer)

/-- The first RUN tick of a Mover record: an empty transfer completes at once, a stopped Mover does nothing, and every other one begins to
wait for its slots (R236, R243 to R245, R250, R256). -/
def runMover (s : State) (u seq : Nat) (r : MovRec) : State :=
  let die := u / 16 % 16
  let ch := u / 256
  let job := freshJob s u seq 0
  if movStopped s die then putJob s { job with busErr := true }
  else if r.len = 0 then
    let s := noteEnd (setChStat s die ch 3) ⟨die, ch, r⟩
    putJob s { job with
      doneAt := some s.mer
      counts := movCounts die r
      item := if r.digest then movAux r seq (sha384 []) else [] }
  else
    let cells := if r.fill && r.fabricDst then movCells r (fillBytes r.srcOfs r.dstOfs r.len) else []
    addTodo (putJob (setChStat s die ch 1) { job with cells := cells, formed := cells.length }) (movTodo s u seq r)

/-- The byte of a transfer at a place among those read. -/
def gotByte (l : List (Nat × List Byte)) (o : Nat) : Option Byte :=
  l.findSome? fun p => if p.1 ≤ o then p.2[o - p.1]? else none

/-- Bytes of a transfer among those read; none unless all of them are. -/
def gotBytes (l : List (Nat × List Byte)) (o n : Nat) : Option (List Byte) :=
  let bs := (List.range n).filterMap fun i => gotByte l (o + i)
  if bs.length = n then some bs else none

/-- Bytes of a transfer as its Mover has them: read from memory, or arrived in cells (R240). -/
def movData (s : State) (j : Job) (rid : Nat) (r : MovRec) (o n : Nat) : Option (List Byte) :=
  if r.fabricSrc then
    let l := cellsIn s rid r.inSrc
    if (List.range (ceilDiv (o + n) 48)).all fun c => decide (c < o / 48) || l.any (·.ofs == c) then
      some ((bytesFrom s rid r.inSrc (o + n)).drop o)
    else none
  else gotBytes j.got o n

/-- Bytes in the channel's buffer: read, and neither written nor gone in a cell that has left (R243). -/
def movHeld (r : MovRec) (j : Job) : Nat :=
  (j.got.map (·.2.length)).sum - (if r.fabricDst then 48 * (j.formed - j.cells.length) else j.moved)

/-- A Mover record ends: its last destination byte is written, or its last cell has been handed over, and the flag is set (R245). -/
def endMover (s : State) (j : Job) (rid : Nat) (r : MovRec) : State :=
  let die := j.unit / 16 % 16
  let ch := j.unit / 256
  let item := if r.digest then movAux r j.seq (sha384 ((movData s j rid r 0 r.len).getD [])) else []
  putJob (noteEnd (setChStat s die ch 2) ⟨die, ch, r⟩) { j with doneAt := some s.mer, item := item, counts := movCounts die r }

/-! ## Control-channel transfers (R254, R255) -/

/-- Byte k of the record body in MOV_CREC0 to MOV_CREC5, as offset 0x10 + k of the record. -/
def crecNat (s : State) (die ofs n : Nat) : Nat :=
  let v := (List.range 6).foldl (fun a k => a + (getFI s 0 die k Reg.movCrec_body) <<< (64 * k)) 0
  (v >>> (8 * (ofs - 0x10))) % 2 ^ (8 * n)

/-- The record that MOV_CREC0 to MOV_CREC5 hold. -/
def crecRec (s : State) (die : Nat) : MovRec :=
  let g := crecNat s die
  { fill := g 0x10 1 == 2, digest := (g 0x11 1).testBit 0, fabricSrc := g 0x12 1 == 1, fabricDst := g 0x13 1 == 1
    srcRegion := g 0x14 4, srcOfs := g 0x18 8, dstRegion := g 0x20 4, inFlow := g 0x24 2, inSrc := g 0x26 2
    dstOfs := g 0x28 8, len := g 0x30 8, outFlow := g 0x38 2, destNode := g 0x3A 2 }

/-- The record meets R254 and R241 with the addressable range as its region. -/
def crecOk (s : State) (die : Nat) : Bool :=
  let g := crecNat s die
  let op := g 0x10 1
  let r := crecRec s die
  (op == 1 || op == 2) && decide (g 0x11 1 ≤ 1) && g 0x12 1 == 0 && g 0x13 1 == 0 &&
    g 0x14 4 == 0xFFFFFFFF && g 0x20 4 == 0xFFFFFFFF && decide (r.inFlow < 4096) && decide (r.outFlow < 4096) &&
    g 0x3C 4 == 0 && decide (r.len ≤ 2 ^ 36) && decide (r.dstOfs + r.len ≤ capacity s) &&
    (if op = 2 then !r.digest
     else decide (r.srcOfs + r.len ≤ capacity s) &&
       (decide (r.len = 0) || decide (r.srcOfs + r.len ≤ r.dstOfs) || decide (r.dstOfs + r.len ≤ r.srcOfs)))

/-- The digest of a control-channel transfer shows in MOV_DIGEST0 to MOV_DIGEST5 (R254). -/
def showDigest (s : State) (die ch : Nat) (d : Digest) : State :=
  setF (setDigest s die Reg.movDigest_digest d) die Reg.movDigestAt_channel ch

/-- START of a channel: accepted or refused with status STATE (R254, R256); the Movers are stopped outside Run (18 R584). -/
def movStart (s : State) (die ch : Nat) : State :=
  if planRuns s || powerState s != 0 || movStopped s die || chStat s die ch == 1 || getF s die Reg.movStatus_failed == 1 || !crecOk s die then
    { s with cmdStatus := 8 }
  else
    let s := { s with cmdStatus := 0 }
    let r := crecRec s die
    if r.len = 0 then
      let s := noteEnd (addCounts (setChStat s die ch 3) (movCounts die r)) ⟨die, ch, r⟩
      if r.digest then showDigest s die ch (sha384 []) else s
    else
      { setChStat s die ch 1 with eng := { s.eng with movJobs := s.eng.movJobs ++ [⟨die, ch, r⟩] } }

/-- The last byte of a control-channel transfer is written. -/
def movDone (s : State) (die ch : Nat) : State :=
  match if powerState s = 0 then s.eng.movJobs.find? fun j => j.mover == die && j.channel == ch else none with
  | none => s
  | some j =>
    let r := j.cmd
    let src := if r.fill then (s, some (fillBytes r.srcOfs r.dstOfs r.len)) else movRead s die r.srcOfs r.len
    match src with
    | (s, none) => s
    | (s, some bs) =>
      match movWrite s die r.dstOfs bs with
      | (s, false) => s
      | (s, true) =>
        let s := { s with eng := { s.eng with movJobs := s.eng.movJobs.filter fun k => !(k.mover == die && k.channel == ch) } }
        let s := noteEnd (addCounts (setChStat s die ch 2) (movCounts die r)) j
        if r.digest then showDigest s die ch (sha384 bs) else s

/-- CANCEL of a channel (R255): ignored with status STATE unless it runs a control-channel transfer (15 R505). -/
def movCancel (s : State) (die ch : Nat) : State :=
  if s.eng.movJobs.any fun j => j.mover == die && j.channel == ch then
    setChStat (dropMovJobs { s with cmdStatus := 0 } die (· == ch)) die ch 5
  else { s with cmdStatus := 8 }

/-- RECOVER (R252, R255): ignored with status STATE unless the Mover is stopped. -/
def movRecoverCmd (s : State) (die : Nat) : State :=
  if movStopped s die then movRecover { s with cmdStatus := 0 } die else { s with cmdStatus := 8 }

/-! ## The commands START, CANCEL, RECOVER and the end of a transfer -/

/-- START in MOV_CMD (R254). -/
def execStart (mov ch : Nat) (s : State) : Host.Outcome State Fault Refusal :=
  if 4 ≤ mov then noPage s else if ch < 16 then whenServes s .memory (.next (movStart s mov ch)) else .fault .absentUnit

/-- CANCEL in MOV_CMD (R255). -/
def execCancel (mov ch : Nat) (s : State) : Host.Outcome State Fault Refusal :=
  if 4 ≤ mov then noPage s else if ch < 16 then whenServes s .memory (.next (movCancel s mov ch)) else .fault .absentUnit

/-- RECOVER in MOV_CMD (R252). -/
def execRecover (mov : Nat) (s : State) : Host.Outcome State Fault Refusal :=
  if mov < 4 then whenServes s .memory (.next (movRecoverCmd s mov)) else noPage s

/-- A control-channel transfer writes its last byte (R254). -/
def execMoverTransferDone (mov ch : Nat) (s : State) : Host.Outcome State Fault Refusal :=
  whenRuns s .memory (if mov < 4 ∧ ch < 16 then .next (movDone s mov ch) else .fault .absentUnit)

end Sys2Proof.Machine
end

