-- ==== Sys2Proof/Machine/Pool.lean ====
section
/-! DEFINITION. The pool engine: index lists, gathers and weighted sums (05 R173 to R192). -/

namespace Sys2Proof.Machine

/-- The page of the engine that serves a unit, the first of its kind where none does. -/
def pageOfUnit (s : State) (u : Nat) : Nat :=
  (unitPage s u).getD ((unitPages (u % 16) (u / 16 % 16)).headD 0)

/-- Number of `n` bytes at a byte of a list. -/
def natAt (l : List Byte) (ofs n : Nat) : Nat := leNat ((l.drop ofs).take n)

/-- An index list as read (R174, R175). -/
structure Ixl where
  nbags : Nat
  flags : Nat
  part : Nat
  total : Nat
  batch : Nat
  resv : Nat
  bags : List (Nat × Nat)
  entries : List (Nat × Nat)
  padOk : Bool
  deriving DecidableEq, Repr

/-- The index list in a byte string (R174 to R176): bags are (LEN, SLOT), entries (row index, weight code). -/
def parseIxl (weightMode : Nat) (l : List Byte) : Ixl :=
  let nbags := natAt l 0 2
  let total := natAt l 4 4
  let base := 16 + 8 * ceilDiv nbags 2
  let esz := if weightMode = 0 then 4 else 8
  let bags := (List.range nbags).map fun k => (natAt l (16 + 4 * k) 2, natAt l (18 + 4 * k) 2)
  let entries := (List.range total).map fun k =>
    (natAt l (base + k * esz) 4, if weightMode = 0 then 0 else natAt l (base + k * esz + 4) 4)
  let padOk := (nbags % 2 = 0 || natAt l (16 + 4 * nbags) 4 == 0) &&
    (weightMode != 1 || entries.all fun e => decide (e.2 < 65536))
  ⟨nbags, natAt l 2 1, natAt l 3 1, total, natAt l 8 4, natAt l 12 4, bags, entries, padOk⟩

/-- The checks of R184 that the counts alone decide. -/
def ixlSizesOk (r : PoolRec) (nbags total : Nat) : Bool := decide (nbags ≤ r.maxBags) && decide (total ≤ r.maxIndices)

/-- The checks of R177 and R184 on a whole list; `die` is the record's memory die. PART of a list without PARTITIONED is 0 (R174); that
another value there draws IXL_FORM R184 does not say (DESIGN CHOICE, log 104). -/
def ixlOk (r : PoolRec) (die : Nat) (x : Ixl) : Bool :=
  ixlSizesOk r x.nbags x.total &&
  decide ((x.bags.map (·.1)).sum = x.total) &&
  (x.flags.testBit 0 == r.partitioned) && decide (x.flags < 2) &&
  (if r.partitioned then decide (x.part = die) else decide (x.part = 0)) &&
  (if r.partitioned then decide ((x.bags.map (·.2)).Nodup) && x.bags.all (fun b => decide (b.2 < r.maxBags))
   else x.bags.zipIdx.all fun b => decide (b.1.2 = b.2)) &&
  decide (x.resv = 0) && x.padOk

/-- The bags with their entries, each entry with its position within the bag (R175). -/
def bagEntries : List (Nat × Nat) → List (Nat × Nat) → List (Nat × List (Nat × Nat × Nat))
  | [], _ => []
  | (len, slot) :: bs, es =>
    (slot, (es.take len).zipIdx.map fun e => (e.2, e.1.1, e.1.2)) :: bagEntries bs (es.drop len)

/-- Node offset of a row (R173). -/
def rowAddr (s : State) (r : PoolRec) (row : Nat) : Nat := regionAddr s r.tableRegion (r.tableOfs + row * r.rowStride)

/-- Element i of a row. -/
def rowElem (s : State) (r : PoolRec) (row i : Nat) : Nat :=
  readNat s (rowAddr s r row + i * elemSize r.elemFmt) (elemSize r.elemFmt)

/-- Element i of a bag (R185, R186). -/
def bagElem (s : State) (r : PoolRec) (es : List (Nat × Nat × Nat)) (i : Nat) : Exa × NumFlags :=
  es.foldl (fun a e =>
    if r.weightMode = 0 then
      let code := rowElem s r e.2.1 i
      accTerm a (match readOperand (flushIn (numMode s)) r.elemFmt code with
        | .fin n m => .fin n (m * 2 ^ 149)
        | x => x) (codeIsSnan r.elemFmt code)
    else accProduct (numMode s) r.elemFmt r.weightMode a (rowElem s r e.2.1 i) e.2.2) (exaInit, 0)

/-- The parts of a range by line, each as the stack that holds it and its length (08 R265). -/
def lineParts (s : State) (a n : Nat) : List (Nat × Nat) :=
  (List.range ((a % 256 + n + 255) / 256)).map fun k =>
    (⟨(physOf s (max a (a / 256 * 256 + 256 * k))).stack,
      min (a + n) (a / 256 * 256 + 256 * (k + 1)) - max a (a / 256 * 256 + 256 * k)⟩ : Nat × Nat)

/-- Bytes that a row read costs: from a near region its length rounded up to 32 bytes, to 64 where another die holds it; from a
global region stack by stack, each part by the rule of its own stack (R192). -/
def readCost (s : State) (die region a n : Nat) : Nat :=
  match planRegion s region with
  | some g =>
    if g.placement = 0 then (if g.die = die then ceilDiv n 32 * 32 else ceilDiv n 64 * 64)
    else
      let parts := lineParts s a n
      ((parts.map (·.1)).dedup.map fun st =>
        let m := ((parts.filter (·.1 == st)).map (·.2)).sum
        if st / 5 = die then ceilDiv m 32 * 32 else ceilDiv m 64 * 64).sum
  | none => 0

/-- Bytes that an IXL read from a region costs: its length rounded up to 32 bytes, at near or far cost by the region's placement (R192). For a
list in a global region the placement names neither: the model takes the far cost, the length rounded up to 64 bytes (DESIGN CHOICE,
log 104). -/
def listCost (s : State) (die region n : Nat) : Nat :=
  match planRegion s region with
  | some g => if g.placement = 0 ∧ g.die = die then ceilDiv n 32 * 32 else ceilDiv n 64 * 64
  | none => 0

/-- The accumulations of one bag; none of an empty bag (R185, R188). -/
def bagSums (s : State) (r : PoolRec) (es : List (Nat × Nat × Nat)) : List (Exa × NumFlags) :=
  if es.isEmpty then [] else (List.range r.rowLen).map (bagElem s r es)

/-- CONVERT: output codes of one bag with flags, from its accumulations: the empty value, or each element converted (R188). -/
def bagRow (s : State) (r : PoolRec) (sums : List (Exa × NumFlags)) : List Nat × NumFlags :=
  if sums.isEmpty then (List.replicate r.rowLen (if r.emptyCfg then r.empty.toNat else 0), 0)
  else
    let conv := sums.map fun a =>
      let c := convert (numMode s) r.ocd 298 (exaResult a.1)
      (c.1, a.2 ||| c.2)
    (conv.map (·.1), conv.foldl (fun f c => f ||| c.2) 0)

/-- The first bad index of the bags in order (R187). -/
def firstBad (r : PoolRec) (bags : List (Nat × List (Nat × Nat × Nat))) : Option (Nat × Nat × Nat) :=
  bags.findSome? fun b => (b.2.find? fun e => decide (r.rows ≤ e.2.1)).map fun e => (b.1, e.1, e.2.1)

/-- A job that sends nothing and whose completion flag is set at once (R183): HELD. -/
def skipJob (s : State) (u seq : Nat) : Job := { freshJob s u seq 4 with doneAt := some s.mer, skipped := true }

/-- Counter increments at a counter of a page, to wait for COMMIT. -/
def cnt (page : Nat) (f : Fld) (n : Nat) : Nat × Nat := (page * 4096 + f.off, n)

/-- What LIST and GATHER give: the accumulations of every bag, and the counts that wait for COMMIT (R182, R185 to R187, R192). The job
stands in CONVERT. -/
def poolJob (s : State) (j : Job) (r : PoolRec) (x : Ixl) (listCost : Nat) : Job :=
  let u := j.unit
  let page := pageOfUnit s u
  let die := u / 16 % 16
  let all := bagEntries x.bags x.entries
  let bad := (all.flatMap (·.2)).filter fun e => decide (r.rows ≤ e.2.1)
  let bags := all.map fun b => (b.1, b.2.filter fun e => decide (e.2.1 < r.rows))
  let good := bags.flatMap (·.2)
  let cost := listCost +
    (good.map fun e => readCost s die r.tableRegion (rowAddr s r e.2.1) (r.rowLen * elemSize r.elemFmt)).sum
  { j with
    state := 3
    sums := bags.map fun b => (b.1, bagSums s r b.2)
    counts := [cnt page Reg.poeCntRecords 1, cnt page Reg.poeCntBags x.nbags,
      cnt page Reg.poeCntEmpty (bags.filter (·.2.isEmpty)).length, cnt page Reg.poeCntRows good.length,
      cnt page Reg.poeCntBytes cost, cnt page Reg.poeCntBadidx bad.length] }

/-- Result cells of one bag from its first OFS on (R189). -/
def dataCellsAt (fmt dst flow ofs : Nat) (codes : List Nat) : List TxCell :=
  (withOfs (elemCells fmt codes)).map fun c => ⟨1, 0, dst, flow, ofs + c.1, c.2⟩

/-- CONVERT: cells or writes, flags and the component item of every bag; the completion flag is set, and the job is HELD (R182, R188 to
R191). -/
def poolConvert (s : State) (j : Job) (r : PoolRec) : Job :=
  let rows := j.sums.map fun b => (b.1, bagRow s r b.2)
  let osz := elemSize r.ocd.fmt
  let p := ceilDiv r.rowLen (perCell r.ocd.fmt)
  let sorted := rows.mergeSort fun a b => decide (a.1 ≤ b.1)
  { j with
    state := 4, doneAt := some s.mer, sums := []
    flags := rows.foldl (fun f b => f ||| b.2.2) 0
    cells := if r.fabricDest then sorted.flatMap fun b => dataCellsAt r.ocd.fmt r.destNode r.outFlow (b.1 * p) b.2.1 else []
    writes := if r.fabricDest then []
      else rows.map fun b => (regionAddr s r.destRegion (r.destOfs + b.1 * r.outStride), elemBytes r.ocd.fmt b.2.1)
    item := leBytes 2 rows.length ++
      digestBytes (sha384 (rows.flatMap fun b => leBytes 2 b.1 ++ (b.2.1.flatMap (leBytes osz)))) }

/-- NODE of a fault that a list caused: the sender of a list that came over the fabric (17 R550). -/
def listNode (r : PoolRec) : Nat := if r.fabricIdx then r.inSrc else 0xFFFF

/-- IXL_FORM: the record is skipped and the step ends VOID with cause UNCORR (R184). -/
def ixlForm (s : State) (u node seq batch : Nat) : State :=
  faultVoid s 4 6 (pageOfUnit s u) u node seq batch

/-- Skipped bad indices of a record, in order (R187, R199). -/
def badEntries (u seq : Nat) (r : PoolRec) (x : Ixl) : List BadIdx :=
  (bagEntries x.bags x.entries).flatMap fun b =>
    (b.2.filter fun e => decide (r.rows ≤ e.2.1)).map fun e => ⟨u, e.2.1, b.1, e.1, seq, x.batch % 2 ^ 31⟩

/-- Ranges of the rows that the good entries name, one for each entry (R187). -/
def rowRanges (s : State) (r : PoolRec) (x : Ixl) : List (Nat × Nat) :=
  (x.entries.filter fun e => decide (e.1 < r.rows)).map fun e => (rowAddr s r e.1, r.rowLen * elemSize r.elemFmt)

/-- The list of a record from a region is read, or taken from the index buffer (R182, R183). -/
def poolList (s : State) (rid : Nat) (r : PoolRec) : Ixl :=
  if r.fabricIdx then
    let n := ((ixlCells s r rid).getD 0) * 48
    let hd := bytesFrom s rid r.inSrc 16
    parseIxl r.weightMode (bytesFrom s rid r.inSrc (min n (ixlLen r.weightMode (natAt hd 0 2) (natAt hd 4 4))))
  else
    let a := regionAddr s r.idxRegion r.idxOfs
    let hd := readBytes s a 16
    parseIxl r.weightMode (readBytes s a (ixlLen r.weightMode (natAt hd 0 2) (natAt hd 4 4)))

/-- Bytes that the list has cost (R192): one from the fabric costs none. -/
def poolListCost (s : State) (die : Nat) (r : PoolRec) (x : Ixl) : Nat :=
  if r.fabricIdx then 0 else listCost s die r.idxRegion (ixlLen r.weightMode x.nbags x.total)

/-- A record whose read is uncorrectable delivers nothing: MEM_UE, and the step ends VOID (08 R272). -/
def poolUe (s : State) (u seq a : Nat) : State :=
  putJob (report (memUe (dropTodo s (· == .record u seq)) a) 4) (skipJob s u seq)

/-- GATHER begins on a list that passed its checks: VOID mode stops at the first bad index, and the rows of every good entry wait for
their slots (R182, R187). POE_BADIDX shows a bad index of VOID mode as SLOT × 2^32 + index in DETAIL: R187 names the two and no layout
(DESIGN CHOICE, log 104). -/
def poolGather (s : State) (j : Job) (r : PoolRec) (x : Ixl) : State :=
  let u := j.unit
  match (if r.skip then none else firstBad r (bagEntries x.bags x.entries)) with
  | some b =>
    putJob (faultVoid s 4 7 (pageOfUnit s u) u (listNode r) j.seq (b.1 * 2 ^ 32 + b.2.2)) (skipJob s u j.seq)
  | none =>
    let s := { s with eng := { s.eng with badIdx := s.eng.badIdx ++ badEntries u j.seq r x } }
    let die := u / 16 % 16
    addTodo (putJob s { j with state := 2 })
      ((rowRanges s r x).flatMap fun a => accRange s (.record u j.seq) die r.tableRegion false a.1 a.2 s.mer)

/-- LIST ends: the list is validated (R182, R184). -/
def poolListed (s : State) (j : Job) (rid : Nat) (r : PoolRec) : State :=
  let x := poolList s rid r
  if ixlOk r (j.unit / 16 % 16) x then poolGather s j r x
  else putJob (ixlForm s j.unit (listNode r) j.seq x.batch) (skipJob s j.unit j.seq)

/-- A step of a pool record whose accesses are all served: LIST reads the header of its list and then the rest of it, GATHER follows LIST,
and CONVERT follows GATHER (R182). `formed` counts the parts of the list that are read. -/
def poolAdvance (s : State) (j : Job) (rid : Nat) (r : PoolRec) : State :=
  let u := j.unit
  if j.state = 1 then
    if r.fabricIdx || decide (0 < j.formed) then poolListed s j rid r
    else
      let a := regionAddr s r.idxRegion r.idxOfs
      let hd := readBytes s a 16
      if ixlSizesOk r (natAt hd 0 2) (natAt hd 4 4) then
        let n := ixlLen r.weightMode (natAt hd 0 2) (natAt hd 4 4)
        addTodo (putJob s { j with formed := 1 })
          (accRange s (.record u j.seq) (u / 16 % 16) r.idxRegion false (a + 16) (n - 16) s.mer)
      else putJob (ixlForm s u (listNode r) j.seq (natAt hd 8 4)) (skipJob s u j.seq)
  else if j.state = 2 then
    let x := poolList s rid r
    putJob s (poolJob s j r x (poolListCost s (u / 16 % 16) r x))
  else s

/-- The first RUN tick of a pool record: LIST begins; a record whose list is refused already, or is incomplete at the deadline, is skipped
(R182, R183). -/
def runPool (s : State) (u seq rid : Nat) (r : PoolRec) : State :=
  if s.eng.badRecs.contains rid || (r.fabricIdx && !ixlComplete s r rid) then putJob s (skipJob s u seq)
  else
    let s := putJob s (freshJob s u seq 1)
    if r.fabricIdx then s
    else addTodo s (accRange s (.record u seq) (u / 16 % 16) r.idxRegion false (regionAddr s r.idxRegion r.idxOfs) 16 s.mer)

end Sys2Proof.Machine
end

