-- ==== Sys2Proof/Machine/Txn.lean ====
section
/-! DEFINITION. The transaction coordinator and the home agents: request checks, the execution of a step's parts, replies,
votes and the commit stage (06 R205 to R235). -/

namespace Sys2Proof.Machine

/-! ## Requests (R213 to R216, R221) -/

/-- An action of a TXN_ACT payload at slot k (R215). -/
def actionAt (p : Payload) (k : Nat) : Action :=
  ⟨payNat p (16 * k) 1, payNat p (16 * k + 1) 1 % 2 == 1, payNat p (16 * k + 2) 1, payNat p (16 * k + 3) 5,
    BitVec.ofNat 64 (payNat p (16 * k + 8) 8)⟩

/-- A request part as its cells carry it. -/
structure RawPart where
  hdr : Payload
  acts : List Payload
  deriving DecidableEq, Repr

/-- PACT of a header. -/
def hdrPact (p : Payload) : Nat := payNat p 5 1

/-- The actions that a part carries: PACT of them, three to a cell (R213). -/
def RawPart.actions (r : RawPart) : List Action :=
  (r.acts.flatMap fun p => [actionAt p 0, actionAt p 1, actionAt p 2]).take (hdrPact r.hdr)

/-- Group a flow's cells into parts, the newest part first. -/
def rawParts (l : List Arrival) : List RawPart :=
  l.foldl (fun ps a =>
    if a.kind = 8 then ⟨a.payload, []⟩ :: ps
    else if a.kind = 9 then
      match ps with
      | p :: rest => { p with acts := p.acts ++ [a.payload] } :: rest
      | [] => []
    else ps) []

/-- Request cells of a flow in the step. -/
def flowCells (s : State) (rid : Nat) (f : HomeFlow) : List Arrival :=
  s.eng.arrivals.filter fun a => a.rid == rid && a.src == f.submitter && a.flow == f.reqFlow

/-- The node IDs that HOMES names. -/
def hdrHomes (p : Payload) : List Nat := (List.range (payNat p 6 1)).map fun k => payNat p (0x10 + 2 * k) 2

/-- A list rises strictly. -/
def risesStrictly : List Nat → Bool
  | a :: b :: l => decide (a < b) && risesStrictly (b :: l)
  | _ => true

/-- Checks of a TXN_HDR in the order of R221: the first that fails, or 0. A spare HOMES entry that is not zero draws check 3, of HOMES, for
which the table names no check (DESIGN CHOICE, log 106). -/
def hdrCheck (s : State) (rid : Nat) (h : HomeRec) (f : HomeFlow) (before : List Arrival) (p : Payload) : Nat :=
  let nact := payNat p 4 1
  let pact := hdrPact p
  let nhome := payNat p 6 1
  let vote := payNat p 8 2
  let parts := rawParts before
  let votes := h.flows.flatMap fun g => (rawParts (flowCells s rid g)).map fun r => payNat r.hdr 8 2
  if 16 < nact ∨ nact < pact ∨ nhome = 0 ∨ 8 < nhome ∨ payNat p 7 1 ≠ 0 ∨ payNat p 0xA 6 ≠ 0 ∨ payNat p 0x20 16 ≠ 0 then 2
  else if !risesStrictly (hdrHomes p) || !(hdrHomes p).contains (nodeId s) || (hdrHomes p).any (fun n => !isDevice s n) ||
      decide (payNat p (0x10 + 2 * nhome) (16 - 2 * nhome) ≠ 0) then 3
  else if (decide (nhome = 1) && decide (vote ≠ 0xFFFF)) ||
      (decide (1 < nhome) && (decide (vote < f.voteBase) || decide (f.voteBase + f.voteCount ≤ vote) || decide (pact = 0))) ||
      (decide (nact = 0) && decide (nhome ≠ 1)) then 4
  else if vote ≠ 0xFFFF ∧ votes.contains vote then 5
  else if parts.any (fun r => decide (payNat p 0 4 ≤ payNat r.hdr 0 4)) then 6
  else if f.groups ≤ parts.length then 8
  else 0

/-- One action of an used slot is malformed (R221 check 7). -/
def actionBad (nact : Nat) (p : Payload) (k : Nat) : Bool :=
  let a := actionAt p k
  let mode := payNat p (16 * k + 1) 1
  decide (a.op = 0) || decide (6 < a.op) || (if 5 ≤ a.op then decide (1 < mode) else decide (mode ≠ 0)) ||
    decide (nact ≤ a.index)

/-- Checks of a TXN_ACT in the order of R221. One that no TXN_HDR of its flow precedes is no part of a group: the table names no check for it,
and the model gives check 2 to it unless it is all zero (DESIGN CHOICE, log 106). -/
def actCheck (before : List Arrival) (p : Payload) : Nat :=
  match rawParts before with
  | [] => if p = 0 then 0 else 2
  | r :: _ =>
    let nact := payNat r.hdr 4 1
    let used := min 3 (hdrPact r.hdr - 3 * r.acts.length)
    let idx := r.actions.map (·.index) ++ (List.range used).map fun k => (actionAt p k).index
    if (List.range 3).any fun k => decide (used ≤ k) && decide (payNat p (16 * k) 16 ≠ 0) then 2
    else if ((List.range used).any fun k => actionBad nact p k) || !decide idx.Nodup then 7
    else 0

/-- Checks of a TXN_END (R216, R221 check 9). -/
def endCheck (before : List Arrival) (ofs : Nat) (p : Payload) : Nat :=
  if payNat p 0 4 = (rawParts before).length ∧ payNat p 4 4 = before.length ∧ ofs = before.length then 0 else 9

/-- TXN_FORM: register, fault and VOID cause UNCORR (R221, R233). -/
def txnForm (s : State) (src flow ofs check : Nat) : State :=
  faultVoid (setReg s 0 0x0600 0x108
    (BitVec.ofNat 64 (src % 65536 + flow % 4096 * 2 ^ 16 + check % 16 * 2 ^ 28 + ofs % 65536 * 2 ^ 32)))
    4 8 0x0600 flow src ofs check

/-- The same as the cell reaches the coordinator, 24 ticks after its K27.7 (01 R35). -/
def txnLater (s : State) (src flow ofs check : Nat) : State :=
  { s with eng := { s.eng with due := s.eng.due ++ [(s.mer + 24, .txn src flow ofs check)] } }

/-- A request cell delivered to the home record (R213 to R221). -/
def homeTake (s : State) (w : WorkRec) (h : HomeRec) (a : Arrival) : State :=
  match h.flows.find? fun f => f.submitter == a.src && f.reqFlow == a.flow with
  | none => txnLater s a.src a.flow a.ofs 1
  | some f =>
    let before := flowCells s w.rid f
    let check :=
      if before.any (·.kind == 0xA) then 9
      else if a.kind = 8 then hdrCheck s w.rid h f before a.payload
      else if a.kind = 9 then actCheck before a.payload
      else endCheck before a.ofs a.payload
    let s := { s with eng := { s.eng with arrivals := s.eng.arrivals ++ [{ a with rid := w.rid }] } }
    if check = 0 then s else txnLater s a.src a.flow a.ofs check

/-! ## Execution (R206 to R210, R226) -/

/-- An action modifies its word (R206). -/
def Action.modifies (a : Action) : Bool := decide (3 ≤ a.op)

/-- Two actions of different groups on one word that do not conflict (R209). -/
def compatible (a b : Action) : Bool :=
  (!a.modifies && !b.modifies) || (a.op == b.op && (a.op == 4 || ((a.op == 5 || a.op == 6) && a.signed == b.signed)))

/-- Regions of the home record that hold a word. -/
def homeRegions (s : State) (h : HomeRec) (a : Action) : List Region :=
  (h.regions.filterMap (planRegion s)).filter fun r => decide (r.base ≤ a.offset) && decide (a.offset + 8 ≤ r.base + r.size)

/-- ADDR: not aligned, at or beyond C, or outside every region of the record (R210). -/
def badAddr (s : State) (h : HomeRec) (a : Action) : Bool :=
  decide (a.offset % 8 ≠ 0) || decide (capacity s ≤ a.offset) || (homeRegions s h a).isEmpty

/-- READONLY: a modifying action in a region flagged read-only (R64, R210). -/
def badWrite (s : State) (h : HomeRec) (a : Action) : Bool :=
  a.modifies && (homeRegions s h a).any fun r => r.flags.testBit 2

/-- DUPWORD: another modifying action of the group names the word (R208). -/
def dupWord (l : List Action) (a : Action) : Bool :=
  a.modifies && decide (1 < (l.filter fun b => b.modifies && b.offset == a.offset).length)

/-- CONFLICT: an action of a lower key on the same word (R209). -/
def conflicts (lower : List Action) (a : Action) : Bool := lower.any fun b => b.offset == a.offset && !compatible a b

/-- A word that a READ or CMPEQ names: its snapshot; a word that does not exist has none, a free value (R203, R217). -/
def snapshot (s : State) (offset : Nat) : Word :=
  if offset % 8 = 0 ∧ offset < capacity s then readWord s offset else Config.freeWord s.freeCtr offset

/-- CMP_FAIL: the snapshot differs from the operand (R206). -/
def cmpFails (s : State) (a : Action) : Bool := a.op == 2 && snapshot s a.offset != a.operand

/-- The lowest INDEX among actions, 0xFF for none (R210). -/
def lowestIndex (l : List Action) : Nat := ((l.map (·.index)).min?).getD 0xFF

/-- The local status of a part and its FAIL_INDEX (R210). -/
def partStatus (s : State) (h : HomeRec) (lower : List Action) (countBefore : Nat) (acts : List Action) : Nat × Nat :=
  let addr := acts.filter (badAddr s h)
  let ro := acts.filter (badWrite s h)
  let dup := acts.filter (dupWord acts)
  let conf := acts.filter (conflicts lower)
  let cmp := acts.filter (cmpFails s)
  if !addr.isEmpty then (1, lowestIndex addr)
  else if !ro.isEmpty then (2, lowestIndex ro)
  else if !dup.isEmpty then (3, lowestIndex dup)
  else if h.maxActions < countBefore + acts.length ∧ acts ≠ [] then (4, 0xFF)
  else if !conf.isEmpty then (5, lowestIndex conf)
  else if !cmp.isEmpty then (6, lowestIndex cmp)
  else (0, 0xFF)

/-- READ results in ascending INDEX order (R217). -/
def partReads (s : State) (acts : List Action) : List Word :=
  ((acts.filter (·.op == 1)).mergeSort fun a b => decide (a.index ≤ b.index)).map fun a => snapshot s a.offset

/-- Parts of the step with their submitter, in ascending key order (R205, R226). -/
def sortedParts (s : State) (rid : Nat) (h : HomeRec) : List (Nat × RawPart) :=
  (h.flows.flatMap fun f => (rawParts (flowCells s rid f)).reverse.map fun r => (f.submitter, r)).mergeSort
    fun a b => decide (a.1 < b.1) || (decide (a.1 = b.1) && decide (payNat a.2.hdr 0 4 ≤ payNat b.2.hdr 0 4))

/-- Execute the parts in key order; `lower` holds the actions of the parts before. -/
def runParts (s : State) (h : HomeRec) : List Action → List (Nat × RawPart) → List Part
  | _, [] => []
  | lower, (sub, r) :: ps =>
    let acts := r.actions
    let st := partStatus s h lower lower.length acts
    ⟨sub, payNat r.hdr 0 4, payNat r.hdr 8 2, payNat r.hdr 4 1, payNat r.hdr 6 1, st.1, st.2, partReads s acts,
      if st.1 = 0 then (acts.filter (·.modifies)).map fun a => (a, snapshot s a.offset) else []⟩ :: runParts s h (lower ++ acts) ps

/-- Actions that a home executes: those of the parts that do not report LIMIT (R231, TXN_CNT_ACTIONS). -/
def actionsRun (parts : List (Nat × RawPart)) (done : List Part) : Nat :=
  ((parts.zip done).map fun p => if p.2.status = 4 then 0 else p.1.2.actions.length).sum

/-- Counter increments of the home, applied at COMMIT (06 Registers). -/
def txnCounts (parts : List Part) (actions : Nat) (votes : BitVec 512) : List (Nat × Nat) :=
  let n (f : Part → Bool) := (parts.filter f).length
  [(0x0600 * 4096 + 0x40, parts.length),
    (0x0600 * 4096 + 0x48, n fun p => p.status == 0 && (p.nhome == 1 || votes.getLsbD p.vote)),
    (0x0600 * 4096 + 0x50, n (·.nact == 0)), (0x0600 * 4096 + 0x58, n (·.status == 5)),
    (0x0600 * 4096 + 0x60, n (·.status == 6)),
    (0x0600 * 4096 + 0x68, n fun p => p.status == 1 || p.status == 2 || p.status == 3),
    (0x0600 * 4096 + 0x70, n (·.status == 4)), (0x0600 * 4096 + 0x78, actions)]

/-- The words that an agent reads: those that the parts name on its memory die, less the ones that the commit stage holds (R226, R227). -/
def homeReads (s : State) (u : Nat) (w : WorkRec) (h : HomeRec) : List MemAcc :=
  let die := u / 16 % 16
  let words := ((sortedParts s w.rid h).flatMap fun p => (p.2.actions.filter fun a => !badAddr s h a).map (·.offset)).dedup
  (words.filter fun a => (locOf s a).stack / 5 == die && (stagedWord s a).isNone).flatMap fun a =>
    accRange s (.record u w.seq) die 0 false a 8 s.mer

/-- The first RUN tick of a home record on a home agent: its snapshot reads wait for their FIRM slots, and the first agent to run executes
the step's parts, whose snapshot is the same for all (R226). -/
def runHome (s : State) (u : Nat) (w : WorkRec) (h : HomeRec) : State :=
  let s := addTodo (putJob s (freshJob s u w.seq 0)) (homeReads s u w h)
  if s.eng.partsDone then s
  else
    let parts := sortedParts s w.rid h
    let done := runParts s h [] parts
    { s with
      freeCtr := s.freeCtr + 1
      eng := { s.eng with parts := done, partsDone := true, partActions := actionsRun parts done } }

/-! ## Replies (R217) -/

/-- Reply payloads of a part. -/
def replyCells (s : State) (p : Part) : List (Nat × Payload) :=
  let v := p.reads.map fun w => leBytes 8 w.toNat
  let hdr := leBytes 4 p.seq ++ leBytes 1 p.status ++ leBytes 1 p.failIndex ++ leBytes 1 p.reads.length ++ leBytes 1 0 ++
    leBytes 2 (nodeId s) ++ leBytes 6 0 ++ (v.take 4).flatten
  let more := v.drop 4
  (0xC, payOf hdr) :: (chunks 6 more.length more).map fun l => (0xD, payOf l.flatten)

/-- Replies of the home on every reply flow, OFS rising from 0 on each (R213, R217). -/
def homeReplies (s : State) (h : HomeRec) : List TxCell :=
  h.flows.flatMap fun f =>
    (withOfs ((s.eng.parts.filter (·.submitter == f.submitter)).flatMap (replyCells s))).map fun c =>
      ⟨c.2.1, 2, f.submitter, f.rspFlow, c.1, c.2.2⟩

/-! ## Votes and commit (R211, R212, R226, R227) -/

/-- The vote vector of this device: bit i is 0 if a group with vote index i has a part here whose status is not OK
(R212). -/
def voteVector (s : State) : BitVec 512 :=
  s.eng.parts.foldl (fun v p =>
    if p.nhome ≠ 1 ∧ p.status ≠ 0 ∧ p.vote < 512 then v &&& ~~~(BitVec.ofNat 512 (2 ^ p.vote)) else v) (BitVec.allOnes 512)

/-- The effect of a modifying action on its word (R206). -/
def applyAction (a : Action) (w : Word) : Word :=
  match a.op with
  | 3 => a.operand
  | 4 => w + a.operand
  | 5 => if a.signed then (if a.operand.toInt < w.toInt then a.operand else w)
         else (if a.operand.toNat < w.toNat then a.operand else w)
  | 6 => if a.signed then (if w.toInt < a.operand.toInt then a.operand else w)
         else (if w.toNat < a.operand.toNat then a.operand else w)
  | _ => w

/-- A modification moves into the commit stage (R227): it applies to what an earlier group of the step has left of the word, else to the
snapshot, which is the staged value of an earlier step where that has not drained (R207, R227). -/
def stageAction (s : State) (m : Action × Word) : State :=
  let old := (stagedWord s m.1.offset).getD m.2
  { s with eng := { s.eng with stage := kvPut s.eng.stage m.1.offset (applyAction m.1 old) } }

/-- A group commits: its only home, or every home by the combined vote, reported OK (R211, R212). -/
def Part.commits (p : Part) (votes : BitVec 512) : Bool := p.status == 0 && (p.nhome == 1 || votes.getLsbD p.vote)

/-- At COMMIT the modifications of committed groups move into the commit stage, groups in ascending key order, and wait for their FIRM slots
(R207, R226, R227). -/
def commitParts (s : State) (votes : BitVec 512) : State :=
  awaitDrain (((s.eng.parts.filter (·.commits votes)).flatMap (·.mods)).foldl stageAction s)

/-- The combined vote vector shows in TXN_VOTE0 to TXN_VOTE7 (R234). -/
def showVotes (s : State) (v : BitVec 512) : State :=
  (List.range 8).foldl (fun s n => setFI s 0 0 n Reg.txnVote_vote ((v.toNat >>> (64 * n)) % 2 ^ 64)) s

end Sys2Proof.Machine
end

