-- ==== Sys2Proof/Machine/Serve.lean ====
section
/-! DEFINITION. The burst positions of a tick: which access to HBM each of them serves, and what the engines do with what they have read
(01 R36; 05 R182, R192; 06 R226, R227; 07 R243 to R247; 08 R266 to R270, R280). -/

namespace Sys2Proof.Machine

/-- The record of a unit that a predicate on its SEQ picks: a home agent runs the step's home record. -/
def unitRecord (s : State) (u : Nat) (pick : Nat → Bool) : Option WorkRec :=
  (stepWork s).find? fun w =>
    (match w.body with
     | .home _ => (homeUnits s w.seq).contains u
     | _ => recUnit s w == u) && pick w.seq

/-- The record of a unit with a SEQ. -/
def recordOf (s : State) (u seq : Nat) : Option WorkRec := unitRecord s u (· == seq)

/-- This tick lies in the current step. -/
def inStep (s : State) : Bool := stepsRun s && s.pln.hold.isNone && decide (stepBase s ≤ s.mer) && decide (s.mer < stepEnd s)

/-- Replace a job in its place. -/
def setJob (s : State) (j : Job) : State :=
  { s with eng := { s.eng with jobs := s.eng.jobs.map fun k => if k.unit = j.unit ∧ k.seq = j.seq then j else k } }

/-! ## Which access a position serves -/

/-- A run of a pseudo-channel serves an access: LOCAL or REMOTE with its region for an engine on the same or another memory die, FIRM for
the home agents, the drain and the sinks, and the target's COPY ticks where the line has moved (02 R58, R59; 06 R227; 08 R280). A barrier
unit stands on the CD, on no memory die: its region's LOCAL and REMOTE slots both serve it (DEDUCED, log 105). -/
def accRun (s : State) (x : MemAcc) (stack : Nat) (moved : Bool) (r : Run) : Bool :=
  if moved then r.use == 10
  else
    match x.user with
    | .record u _ =>
      if u % 16 = 3 then r.use == 8 && regionHolds s r.arg x.base
      else r.arg == x.region &&
        (if u % 16 = 5 then r.use == 6 || r.use == 7
         else if stack / 5 = u / 16 % 16 then r.use == 6 else r.use == 7 && r.peer == u / 16 % 16)
    | .sink => r.use == 8 && r.arg == x.region
    | .drain => r.use == 8 && regionHolds s r.arg x.base

/-- Positions of 32 bytes that a Mover's engine moves in a tick: 937.5 bytes on average (07 R243). -/
def movRate (t : Nat) : Nat := 1875 * (t + 1) / 64 - 1875 * t / 64

/-- The same for a pool engine: 3750 bytes (05 R192). -/
def poolRate (t : Nat) : Nat := 1875 * (t + 1) / 16 - 1875 * t / 16

/-- A Mover record computes a digest (07 R247). -/
def digests (s : State) (u seq : Nat) : Bool :=
  match recordOf s u seq with
  | some w =>
    match w.body with
    | .mov r => r.digest
    | _ => false
  | none => false

/-- What bounds an access beside its pseudo-channel, each with the positions that a tick gives it: a Mover's read engine, which also reads
for a read-merge-write, its write engine, a digesting channel (07 R243, R247), and a pool engine's reads (05 R192). -/
def accBounds (s : State) (x : MemAcc) : List (Nat × Nat) :=
  match x.user with
  | .record u seq =>
    let die := u / 16 % 16
    if u % 16 = 4 then
      (1000 + 2 * die + (if x.write && x.left == 1 then 1 else 0), movRate s.mer) ::
        (if digests s u seq && !x.write then [(4096 + u, 1)] else [])
    else if u % 16 = 2 && !x.write then [(4096 + u, poolRate s.mer)]
    else []
  | _ => []

/-- The user is ready for an access: a Mover that has not stopped reads into free blocks and writes what it has (07 R243, R244), a pool engine
reads in its RUN ticks (05 R182). -/
def accReady (s : State) (x : MemAcc) : Bool :=
  match x.user with
  | .record u seq =>
    match s.eng.job u seq, recordOf s u seq with
    | some j, some w =>
      match w.body with
      | .mov r =>
        !j.busErr &&
          (if x.write then r.fill || (movData s j w.rid r x.ofs x.len).isSome else decide (movHeld r j + x.len ≤ 131072))
      | .pool _ => x.write || runTick s u seq
      | _ => true
    | _, _ => false
  | _ => true

/-- Positions that a key has taken in this tick. -/
def takenOf (taken : List (Nat × Nat)) (k : Nat) : Nat := (kvGet taken k).getD 0

/-- An access takes a burst position in this tick. Outside the execution of steps the drain takes any (06 R227; 08 R269). -/
def accServed (s : State) (taken : List (Nat × Nat)) (x : MemAcc) : Bool :=
  let p := locOf s x.base
  let moved := (movedTo s (physOf s x.base)).isSome
  s.eng.todo.contains x && decide (x.ready ≤ s.mer) &&
    ((x.user == .drain && !stepsRun s) || (inStep s && (runNow s (pcRes p.stack p.pc)).any (accRun s x p.stack moved))) &&
    decide (pcUsed s p.stack p.pc s.mer + takenOf taken (32 * p.stack + p.pc) < tickBursts s.mer) &&
    (accBounds s x).all (fun b => decide (takenOf taken b.1 < b.2)) && accReady s x

/-! ## What an access does -/

/-- A Mover reads or writes a piece of its transfer (07 R244, R250). -/
def moverAccess (s : State) (j : Job) (rid : Nat) (r : MovRec) (x : MemAcc) : State :=
  let die := j.unit / 16 % 16
  if x.write then
    match if r.fill then some x.bytes else movData s j rid r x.ofs x.len with
    | none => s
    | some bs =>
      match movWrite s die x.base bs with
      | (s, true) => setJob s { j with moved := j.moved + x.len }
      | (s, false) => s
  else
    match movRead s die x.base x.len with
    | (s, some bs) => setJob s { j with got := j.got ++ [(x.ofs, bs)] }
    | (s, none) => s

/-- An access of a record has its last position: the bytes are read or written (06 R226; 08 R268, R272, R623). -/
def recordAccess (s : State) (u seq : Nat) (x : MemAcc) : State :=
  match s.eng.job u seq, recordOf s u seq with
  | some j, some w =>
    match w.body with
    | .mov r => moverAccess s j w.rid r x
    | .pool _ =>
      if x.write then writeVoid s x.base x.bytes
      else
        match firstUe s x.base x.len with
        | some a => poolUe s u seq a
        | none => s
    | .home _ =>
      match firstUe s x.base x.len with
      | some a => report (memUe s a) 4
      | none => s
    | _ => writeVoid s x.base x.bytes
  | _, _ => s

/-- An access has its last position. -/
def doAccess (s : State) (x : MemAcc) : State :=
  let s := { s with eng := { s.eng with todo := s.eng.todo.erase x } }
  match x.user with
  | .record u seq => recordAccess s u seq x
  | .sink => writeVoid s x.base x.bytes
  | .drain => drainWord s (x.base, 0)

/-- An access takes positions of this tick as long as it needs them and finds them. -/
def serveAcc : Nat → State × List (Nat × Nat) → MemAcc → State × List (Nat × Nat)
  | 0, a, _ => a
  | n + 1, a, x =>
    if accServed a.1 a.2 x then
      let p := locOf a.1 x.base
      let taken := ((32 * p.stack + p.pc, 0) :: accBounds a.1 x).foldl (fun t k => kvPut t k.1 (takenOf t k.1 + 1)) a.2
      if x.left ≤ 1 then (doAccess a.1 x, taken)
      else
        let y := { x with left := x.left - 1 }
        serveAcc n ({ a.1 with eng := { a.1.eng with todo := a.1.eng.todo.map fun z => if z = x then y else z } }, taken) y
    else a

/-! ## What the engines do with what they have read -/

/-- Cells of an engine on a memory die cross its link toward the CD (01 R30). -/
def crossFrom (s : State) (u : Nat) (cells : List TxCell) : State :=
  if u % 16 = 5 then s
  else cells.foldl (fun s t =>
    cross s 3 (16 + u / 16 % 16) (mkCell t.kind false t.vc t.dst (nodeId s) t.flow 0 0 t.ofs t.payload) (s.mer + 20)) s

/-- A record bound for the fabric forms the cells whose bytes are all read (07 R240). -/
def movForm (s : State) (j : Job) (r : MovRec) : Nat → List TxCell
  | 0 => []
  | n + 1 =>
    let k := ceilDiv r.len 48 - (n + 1)
    if k < j.formed then movForm s j r n
    else
      match gotBytes j.got (48 * k) (min 48 (r.len - 48 * k)) with
      | some bs => ⟨1, 0, r.destNode, r.outFlow, k, payOf bs⟩ :: movForm s j r n
      | none => []

/-- The cells that a Mover record has ready for its egress slots after this tick: from its reads in order, or from the cells that have
reached it (07 R240, R244; 01 R35). -/
def movNew (s : State) (j : Job) (rid : Nat) (r : MovRec) : List TxCell :=
  if r.fill || !r.fabricDst then []
  else if r.fabricSrc then
    (((cellsFrom s rid r.inSrc).drop j.formed).takeWhile fun a => decide (a.reach ≤ s.mer + 1) && !onWay s a).map fun a => movCell r a.ofs a.payload
  else movForm s j r (ceilDiv r.len 48)

/-- An engine goes on after this tick's accesses. -/
def advance (s : State) (k : Nat × Nat) : State :=
  match s.eng.job k.1 k.2, recordOf s k.1 k.2 with
  | some j, some w =>
    if !(todoOf s k.1 k.2).isEmpty && k.1 % 16 != 4 then s
    else if j.released then (if j.state = 5 then setJob s { j with state := 0 } else s)
    else if j.doneAt.isSome || j.busErr then s
    else
      match w.body with
      | .pool r => poolAdvance s j w.rid r
      | .mov r =>
        let cells := movNew s j w.rid r
        crossFrom (setJob s { j with cells := j.cells ++ cells, formed := j.formed + cells.length }) j.unit cells
      | _ => s
  | _, _ => s

/-- Burst positions that the redirected accesses ask of a pseudo-channel in this tick, beside those of staging and capture (R280). -/
def copyDemand (s : State) (stack pc : Nat) : Nat :=
  pcUsed s stack pc s.mer +
    ((s.eng.todo.filter fun x => (movedTo s (physOf s x.base)).isSome && (locOf s x.base).stack == stack && (locOf s x.base).pc == pc &&
      accServed s [] x).map (·.left)).sum

/-- The burst positions of this tick: the waiting accesses take them oldest first (R267), and the engines go on with what they have read. -/
def serveTick (s : State) : State :=
  let s := if s.eng.todo.isEmpty then s else (s.eng.todo.foldl (serveAcc 2) (s, [])).1
  (s.eng.jobs.map fun j => (j.unit, j.seq)).foldl advance s

/-! ## Writes that find no position (08 R284) -/

/-- An access belongs to the result of a step: a sink's write or one of a released record. -/
def resultAcc (s : State) (x : MemAcc) : Bool :=
  match x.user with
  | .record u seq => x.write && s.eng.jobs.any fun j => j.unit == u && j.seq == seq && j.released && !j.busErr
  | .sink => true
  | .drain => false

/-- The slots up to the step's end serve every write of a result that still waits. -/
def writesFit (s : State) : Bool :=
  let l := s.eng.todo.filter (resultAcc s)
  l.all fun x =>
    let p := locOf s x.base
    let moved := (movedTo s (physOf s x.base)).isSome
    let ok := accRun s x p.stack moved
    let need := ((l.filter fun y =>
      let q := locOf s y.base
      q.stack == p.stack && q.pc == p.pc && (if moved then (movedTo s (physOf s y.base)).isSome
        else (movedTo s (physOf s y.base)).isNone && y.region == x.region && (y.user == .sink) == (x.user == .sink))).map (·.left)).sum
    decide (need ≤ slotBursts s ok p.stack p.pc (max s.mer x.ready) (stepEnd s))

/-- In the last tick before this device's cut a result whose writes no longer all find a position is late: the step ends VOID (08 R284; 01
R40). -/
def judgeWrites (s : State) : State :=
  if barrierOpen s && s.pln.hold.isNone && decide (s.mer + 1 = cutAt s) && !(writesFit s && s.fab.transit.all (·.sink.isNone)) then report s 1
  else s

/-- At the end of a step the writes of its results are done, and every other access of the step goes. -/
def finishWrites (s : State) : State :=
  let l := s.eng.todo.filter (resultAcc s)
  if s.eng.todo.isEmpty then s
  else dropTodo (l.foldl (fun s x => writeVoid s x.base x.bytes) s) (· != .drain)

end Sys2Proof.Machine
end

