-- ==== Sys2Proof/Machine/Deliver.lean ====
section
/-! DEFINITION. What the consumers of this device do with a cell that the reorder window delivers (09 R318, R326, R346; 04
R141, R149 to R160). -/

namespace Sys2Proof.Machine

/-! ## Steps and their tags -/

/-- The STEP value that cells of the present interval carry: 0xFF in the start barrier, in a hold that of the execution that
follows (R626), else e mod 256 (02 R72); none where no cell of a step may arrive. -/
def stepTag (s : State) : Option Nat :=
  if s.pln.starting then some 0xFF
  else if s.pln.hold.isSome then some ((curExec s + 1) % 256)
  else if stepsRun s then some (curExec s % 256)
  else none

/-- A cell of a stale STEP (02 R74). -/
def staleCell (s : State) (c : FabCell) : Bool :=
  match stepTag s with
  | some t => decide (cellStep c ≠ t)
  | none => false

/-- The page of a record's unit. -/
def recPage (s : State) (w : WorkRec) : Nat := pageOfUnit s (recUnit s w)

/-- Count a stale cell: the stale counter of the consumer that it would have, and the lag counters (R162, R329). -/
def countStaleCell (s : State) (c : FabCell) : State :=
  let s := countStale s (cellSrc c)
  match consumerOf s c with
  | .record w =>
    match w.body with
    | .red _ => addCounts s [(recPage s w * 4096 + 0x58, 1)]
    | .pool _ => addCounts s [(recPage s w * 4096 + 0x70, 1)]
    | .mov _ => addCounts s [(recPage s w * 4096 + 0x68, 1)]
    | _ => s
  | .home _ _ => bump s 0 Reg.txnCntStale
  | .sink _ => s
  | .obar => s
  | .none => if cellVc c = 3 then s else bump s 0 Reg.fabCntNomatch

/-! ## Engine records -/

/-- The consumer of a record keeps a cell. -/
def keepCell (s : State) (w : WorkRec) (c : FabCell) (tick port : Nat) : State :=
  let a : Arrival := ⟨w.rid, cellSrc c, cellFlow c, cellKind c, cellOfs c, cellPayload c, tick, s.mer + 24, port⟩
  noteArrival { s with eng := { s.eng with arrivals := s.eng.arrivals ++ [a] } } (cellSrc c) tick

/-- What a cell brings about waits until it reaches its consumer, 24 ticks after its K27.7 (01 R35). -/
def later (s : State) (d : Due) : State := { s with eng := { s.eng with due := s.eng.due ++ [(s.mer + 24, d)] } }

/-- The record already holds a cell of that source and OFS. -/
def heldAlready (s : State) (w : WorkRec) (c : FabCell) : Bool :=
  s.eng.arrivals.any fun a => a.rid == w.rid && a.src == cellSrc c && a.ofs == cellOfs c && a.flow == cellFlow c

/-- A cell came at or after the deadline of its record (04 R157, R627). -/
def cameLate (s : State) (w : WorkRec) (tick : Nat) : Bool :=
  match deadlineOf s w with
  | some d => decide (d ≤ tick)
  | none => false

/-- A child of this device in the tree of a record is an endpoint. -/
def childIsLeaf (s : State) (tree src : Nat) : Bool := (myChildren s tree).any fun c => c.node == src && c.level == 0

/-- Elements of a payload that a reduction record counts, by their index in the cell. -/
def badPsf (p : Payload) (ks : List Nat) : Bool := ks.any fun k => (decodePsf (BitVec.ofNat 128 (payNat p (16 * k) 16))).isNone

/-- A contribution cell of a reduction record (R141, R114). -/
def takeRed (s : State) (w : WorkRec) (r : RedRec) (c : FabCell) (tick port : Nat) : State :=
  let src := cellSrc c
  let leaf := childIsLeaf s r.tree src
  if leaf && cameLate s w tick then countLate s src
  else if redCells r leaf ≤ cellOfs c || heldAlready s w c then
    later s (.void 4 5 (recPage s w) (recUnit s w) src w.seq (cellOfs c))
  else
    let psf := decide (childFmt s r src = 3)
    let ks := (List.range 3).filter fun k => decide (cellOfs c * 3 + k < r.n)
    let s' := keepCell s w c tick port
    if psf && badPsf (cellPayload c) ks then later s' (.void 4 4 (recPage s w) (recUnit s w) src w.seq (cellOfs c)) else s'

/-- A contribution cell of a barrier record (R149 to R151, R114). -/
def takeBarUp (s : State) (w : WorkRec) (r : BarRec) (c : FabCell) (tick port : Nat) : State :=
  let src := cellSrc c
  let leaf := childIsLeaf s r.tree src
  if leaf && cameLate s w tick then countLate s src
  else if heldAlready s w c then s
  else
    let ks := (List.range 3).filter fun k => !leaf && decide (1 ≤ cellOfs c * 3 + k) && r.ops[cellOfs c * 3 + k - 1]? == some 1
    let s' := keepCell s w c tick port
    if badPsf (cellPayload c) ks then later s' (.void 4 4 (recPage s w) (recUnit s w) src w.seq (cellOfs c)) else s'

/-- Attached members of a barrier take part with the lag that the downward slot gives (R158, R161). -/
def countBarrierLags (s : State) (w : WorkRec) (r : BarRec) (down : LagSlot) : State :=
  ((myChildren s r.tree).filter (·.level == 0)).foldl (fun s k =>
    match s.eng.missed.find? fun m => m.1 == w.rid && m.2.1 == k.node with
    | some m => countLag s k.node (m.2.2 - stepBase s - down.earliest) true
    | none =>
      match ((cellsFrom s w.rid k.node).map (·.tick)).max? with
      | some t => countLag s k.node (t - stepBase s - down.earliest) false
      | none => s) s

/-- The downward slot of a barrier shows in BRU_SLOWEST and BRU_SLOWEST_SEQ (R160, R167, R168). -/
def showSlowest (s : State) (w : WorkRec) (r : BarRec) (down : LagSlot) : State :=
  let page := recPage s w
  let s := setReg s 0 page 0x110 (BitVec.ofNat 64
    ((if down.none then 0 else down.node % 65536) + (if down.missed then 2 ^ 16 else 0) + (if down.none then 2 ^ 17 else 0) +
      (if down.voided then 2 ^ 18 else 0) + (if down.none then 0 else (down.value % 2 ^ 40) * 2 ^ 24)))
  let s := setReg s 0 page 0x118 (BitVec.ofNat 64 (w.seq % 2 ^ 32 + execTag s * 2 ^ 32))
  countBarrierLags s w r down

/-- A release cell from the zenith (R150, R160): its record is the one of that flow from now on. -/
def takeBarDown (s : State) (w : WorkRec) (c : FabCell) : State :=
  let s := { s with eng := { s.eng with downs := kvPut s.eng.downs w.rid (cellFlow c) } }
  if cellOfs c = 0 then later s (.down w.rid (lagOf (cellPayload c) 0)) else s

/-- A cell of a fabric index list (05 R183, R184): a list that its counts already refuse is refused as it reaches the engine. A second cell
of the sender with an OFS that is held already is dropped without a count: the manual says nothing of it (DESIGN CHOICE, log 104). -/
def takeIxl (s : State) (w : WorkRec) (r : PoolRec) (c : FabCell) (tick port : Nat) : State :=
  if cameLate s w tick then countLate s (cellSrc c)
  else if heldAlready s w c then s
  else
    let s := keepCell s w c tick port
    if s.eng.badRecs.contains w.rid then s
    else
      match (cellsFrom s w.rid r.inSrc).find? (·.ofs == 0) with
      | none => s
      | some h =>
        let n := (ixlCells s r w.rid).getD 0
        if !(ixlSizesOk r (payNat h.payload 0 2) (payNat h.payload 4 4)) ||
            (cellsFrom s w.rid r.inSrc).any (fun a => decide (n ≤ a.ofs)) then
          later { s with eng := { s.eng with badRecs := w.rid :: s.eng.badRecs } }
            (.void 4 6 (recPage s w) (recUnit s w) (listNode r) w.seq (payNat h.payload 8 4))
        else s

/-- A cell of a Mover's fabric source (07 R240, R244): it is kept, and once it has reached the Mover its bytes go on. -/
def takeMov (s : State) (w : WorkRec) (r : MovRec) (c : FabCell) (tick port : Nat) : State :=
  if cameLate s w tick then countLate s (cellSrc c)
  else if heldAlready s w c || ceilDiv r.len 48 ≤ cellOfs c then s
  else keepCell s w c tick port

/-- An engine record takes a cell. -/
def takeRecord (s : State) (w : WorkRec) (c : FabCell) (tick port : Nat) : State :=
  match w.body with
  | .red r => takeRed s w r c tick port
  | .bar r => if cellKind c = 3 then takeBarDown s w c else takeBarUp s w r c tick port
  | .pool r => takeIxl s w r c tick port
  | .mov r => takeMov s w r c tick port
  | .home _ => s

/-! ## The home, sinks and the outcome barrier -/

/-- A request cell: late after the record's deadline, else checked and kept (06 R213 to R221). -/
def takeHome (s : State) (w : WorkRec) (h : HomeRec) (c : FabCell) (tick port : Nat) : State :=
  if cameLate s w tick then countLate s (cellSrc c)
  else
    homeTake (noteArrival s (cellSrc c) tick) w h
      ⟨w.rid, cellSrc c, cellFlow c, cellKind c, cellOfs c, cellPayload c, tick, s.mer + 24, port⟩

/-- A sink writes the payload at REGION_OFS + 48 × OFS in FIRM ticks that name its region, once the cell has come to the memory die
(R326; 01 R30, R35). -/
def sinkWrite (s : State) (k : Sink) (c : FabCell) (tick : Nat) : State :=
  if k.maxCells ≤ cellOfs c then bump s 0 Reg.fabCntNomatch
  else
    let s := noteArrival s (cellSrc c) tick
    let a := regionAddr s k.region (k.ofs + 48 * cellOfs c)
    let s := { s with eng := { s.eng with sunk := if s.eng.sunk.contains k.region then s.eng.sunk else k.region :: s.eng.sunk } }
    cross s 4 (16 + (physOf s a).stack / 5) c (s.mer + 24) (some (k.region, a))

/-- A loss entry at byte `ofs` of a payload (R346). -/
def lossOf (p : Payload) (ofs : Nat) : Loss := ⟨payNat p ofs 2, payNat p (ofs + 2) 1, payNat p (ofs + 4) 4⟩

/-- A loss entry as bytes. -/
def lossBytes (l : Loss) : List Byte := leBytes 2 l.node ++ leBytes 1 l.kind ++ [0] ++ leBytes 4 l.unit

/-- Payloads of an OBAR message in OFS order (R346). -/
def obarPayloads (m : ObarMsg) : List Payload :=
  let n := match m.losses with
    | some l => l.length
    | none => 0xFFFF
  let head := leBytes 1 ((if m.ok then 1 else 0) + (if m.abort then 2 else 0)) ++ leBytes 1 m.band ++ leBytes 2 n ++
    leBytes 1 m.report.cause ++ leBytes 2 m.report.source ++ [0] ++ lagBytes m.lag ++ leBytes 8 m.report.tick
  let votes := leBytes 64 m.votes.toNat
  let losses := (m.losses.getD []).map lossBytes
  [payOf head, payOf (votes.take 48), payOf (votes.drop 48)] ++ (chunks 6 losses.length losses).map fun l => payOf l.flatten

/-- Payload of an OFS among received cells. -/
def payAt (l : List (Nat × Payload)) (ofs : Nat) : Option Payload := (l.find? (·.1 == ofs)).map (·.2)

/-- Cells of an OBAR message by its NLOSS (R346); none where NLOSS is malformed (R347). -/
def obarLen (p : Payload) : Option Nat :=
  let n := payNat p 2 2
  if n ≤ 30 then some (3 + ceilDiv n 6) else if n = 0xFFFF then some 3 else none

/-- The message of complete cells (R346). -/
def obarOf (l : List (Nat × Payload)) : Option ObarMsg :=
  match payAt l 0, payAt l 1, payAt l 2 with
  | some p, some v, some w =>
    let n := payNat p 2 2
    let losses := if n = 0xFFFF then none
      else some ((List.range n).map fun k => lossOf ((payAt l (3 + k / 6)).getD 0) (8 * (k % 6)))
    some ⟨payNat p 0 1 % 2 == 1, (payNat p 0 1).testBit 1, payNat p 1 1, losses,
      ⟨payNat p 4 1, payNat p 5 2, payNat p 24 8⟩, lagOf p 8,
      BitVec.ofNat 512 (payNat v 0 48 + payNat w 0 16 * 2 ^ 384)⟩
  | _, _, _ => none

/-- Received cells of one OBAR message: (kind, source, OFS, payload, K27.7 tick). -/
def obarCells (s : State) (kind src : Nat) : List (Nat × Nat × Nat × Payload × Nat) :=
  s.fab.obarRx.filter fun x => x.1 == kind && x.2.1 == src

/-- The last cell of loss entries holds an entry beyond NLOSS (R347). -/
def surplusEntry (pays : List (Nat × Payload)) (n : Nat) : Bool :=
  decide (n ≤ 30) && decide (n % 6 ≠ 0) && decide (payNat ((payAt pays (3 + n / 6)).getD 0) (8 * (n % 6)) (48 - 8 * (n % 6)) ≠ 0)

/-- A slot within NLOSS holds no entry: the cells carry fewer than NLOSS (R347). -/
def missingEntry (pays : List (Nat × Payload)) (n : Nat) : Bool :=
  decide (n ≤ 30) && (List.range n).any fun k => payNat ((payAt pays (3 + k / 6)).getD 0) (8 * (k % 6)) 8 == 0

/-- Received cells of a message go. -/
def dropObar (s : State) (kind src : Nat) : State :=
  { s with fab := { s.fab with obarRx := s.fab.obarRx.filter fun x => !(x.1 == kind && x.2.1 == src) } }

/-- A malformed message: discarded and counted, and its sender is missing (R347). An outcome that the barrier unit holds already stays. -/
def obarBad (s : State) (kind src : Nat) : State :=
  let s := bump (dropObar s kind src) 0 Reg.fabCntMalformed
  { s with
    fab := { s.fab with badObar := (kind, src) :: s.fab.badObar }
    pln := { s.pln with
      ups := if kind = 5 then s.pln.ups.filter fun u => u.1 != src else s.pln.ups
      obar := if kind = 6 then none else s.pln.obar } }

/-- The message of a sender is complete or malformed: OBAR_UP joins the children's messages, OBAR_DOWN is the outcome
(R346, R347). -/
def obarAssemble (s : State) (kind src : Nat) : State :=
  let cells := obarCells s kind src
  let pays := cells.map fun x => (x.2.2.1, x.2.2.2.1)
  match payAt pays 0 with
  | none => s
  | some p =>
    match obarLen p with
    | none => obarBad s kind src
    | some n =>
      if cells.any fun x => decide (n ≤ x.2.2.1) then obarBad s kind src
      else if (List.range n).all fun o => (payAt pays o).isSome then
        if surplusEntry pays (payNat p 2 2) || missingEntry pays (payNat p 2 2) then obarBad s kind src
        else
          match obarOf pays with
          | none => s
          | some m =>
            let s := dropObar s kind src
            let at' := ((cells.map fun x => x.2.2.2.2).max?).getD s.mer
            if kind = 5 then { s with pln := { s.pln with ups := s.pln.ups ++ [(src, m, at')] } }
            else { s with pln := { s.pln with obar := some (m, at') } }
      else s

/-- Where a barrier unit waits no longer, a message whose first three cells are here without all of its loss entries carries fewer than NLOSS:
malformed (R347; DEDUCED, log 103). -/
def dropShort (s : State) (kind : Nat) : State :=
  ((s.fab.obarRx.filter (·.1 == kind)).map (·.2.1)).dedup.foldl (fun s src =>
    let pays := (obarCells s kind src).map fun x => (x.2.2.1, x.2.2.2.1)
    if [0, 1, 2].all fun o => (payAt pays o).isSome then obarBad s kind src else s) s

/-- Tree 0 of the active plan. -/
def tree0 (s : State) : Option Tree := planTree s 0

/-- A barrier of the plan takes OBAR cells: the start barrier, a step or a hold interval. -/
def obarOpen (s : State) : Bool := s.pln.starting || s.pln.hold.isSome || stepsRun s

/-- A cell of OBAR_UP comes in time: it reaches the barrier unit by this device's cut (R626). The start barrier waits without a cut. -/
def upInTime (s : State) : Bool :=
  !s.pln.cutDone && (if s.pln.starting then !isZenith s 0 || decide (s.mer + 24 + 4096 ≤ s.pln.startAt) else decide (s.mer + 24 ≤ cutAt s))

/-- The message that a sender has completed already. -/
def obarHas (s : State) (kind src : Nat) : Option ObarMsg :=
  if kind = 5 then (s.pln.ups.find? (·.1 == src)).map (·.2.1) else s.pln.obar.map (·.1)

/-- A cell of the outcome or start barrier, from a child or from above (R346, R347, R626): one more cell of loss entries than its message
has makes the message malformed. -/
def takeObar (s : State) (c : FabCell) : State :=
  let src := cellSrc c
  let kind := cellKind c
  let fromChild := (myChildren s 0).any fun k => k.node == src && k.level != 0
  let parent := (myNode s 0).map (·.2.parent)
  let ok := cellFlow c == 0xFFE && obarOpen s && !(s.fab.badObar.contains (kind, src)) &&
    (if kind = 5 then fromChild && upInTime s
     else !isZenith s 0 && (parent == some src || (tree0 s).map (·.zenith) == some src))
  if !ok then bump s 0 Reg.fabCntNomatch
  else
    if (obarHas s kind src).isSome then
      if 3 ≤ cellOfs c then obarBad s kind src else bump s 0 Reg.fabCntNomatch
    else
      obarAssemble { s with fab := { s.fab with obarRx := s.fab.obarRx ++ [(kind, src, cellOfs c, cellPayload c, s.mer)] } } kind src

/-! ## What a cell brings about as it reaches its consumer (01 R35) -/

/-- One of them. -/
def doDue (s : State) : Due → State
  | .void cause kind page sub node addr detail => faultVoid s cause kind page sub node addr detail
  | .txn src flow ofs check => txnForm s src flow ofs check
  | .down rid lag =>
    match (stepWork s).find? fun w => w.rid == rid with
    | some w =>
      match w.body with
      | .bar r => showSlowest s w r lag
      | _ => s
    | none => s

/-- Those whose tick has come. -/
def landDue (s : State) : State :=
  if s.eng.due.isEmpty then s
  else
    (s.eng.due.filter fun d => decide (d.1 ≤ s.mer)).foldl (fun s d => doDue s d.2)
      { s with eng := { s.eng with due := s.eng.due.filter fun d => !decide (d.1 ≤ s.mer) } }

/-! ## Delivery -/

/-- A delivered cell goes to its first consumer; a cell that no consumer takes is discarded and counted (R318, 06 R231), a member's that
missed its record's deadline as late (04 R157). -/
def consume (s : State) (c : FabCell) (tick port : Nat) : State :=
  match consumerOf s c with
  | .record w => takeRecord (if w.unit % 16 = 5 then s else cross s 4 (16 + recUnit s w / 16 % 16) c (s.mer + 24)) w c tick port
  | .home w h => takeHome s w h c tick port
  | .sink k => sinkWrite s k c tick
  | .obar => takeObar s c
  | .none =>
    if cellVc c = 0 ∧ lateMember s (cellSrc c) (cellFlow c) (cellKind c) = true then countLate s (cellSrc c)
    else
      let s := bump s 0 Reg.fabCntNomatch
      if cellVc c = 1 then bump s 0 Reg.txnCntStale else s

end Sys2Proof.Machine
end

