-- ==== Sys2Proof/WellFormed.lean ====
section
/-! DEFINITION. The operands that a command may carry: numbers that some grade of the T4896 gives a port, a lane, an
engine, a page or a session, and entry counts within the limits of the control channel. -/

namespace Sys2Proof

/-- A port code: RESOURCE bits [8:0], a port of the largest grade, whole or half a or half b (R57). -/
def wfPort (p : Nat) : Bool :=
  decide (p % 128 < 96) && (decide (p / 128 = 0) || decide (p / 128 = 2) || decide (p / 128 = 3))

/-- An engine: RESOURCE bits [11:0] (R57, R148). -/
def wfUnit (u : Nat) : Bool :=
  let kind := u % 16
  let die := u / 16 % 16
  let pos := u / 256
  (decide (kind = 1 ∨ kind = 2) && decide (die < 4) && decide (pos < 2)) ||
  (decide (kind = 3) && decide (die < 4) && decide (pos = 0)) ||
  (decide (kind = 4) && decide (die < 4) && decide (pos < 16)) ||
  (decide (kind = 5) && decide (die = 15) && decide (pos < 4))

/-- A lane die and a lane of it, spares 48 and 49 (R23). -/
def wfLane (die lane : Nat) : Bool := decide (die < 16) && decide (lane < 50)

/-- A register page number (R510). -/
def wfPage (page : Nat) : Bool := decide (page < 65536)

/-- A stack and a pseudo-channel (R4, R57). -/
def wfPc (stack pc : Nat) : Bool := decide (stack < 20) && decide (pc < 32)

/-- The identity of a flow (R302, R309). -/
def wfKey (k : FlowKey) : Bool :=
  decide (k.src < 65536) && decide (k.dst < 65536) && decide (k.vc < 4) && decide (k.flow < 4096)

/-- The well-formed commands. -/
def wellFormed : Instr → Bool
  | .engineRun u | .recordComplete u | .releaseTick u => wfUnit u
  | .stepInfoReceive p _ | .cellReceive p _ _ | .ackReceive p _ | .resendReqReceive p _ => wfPort p
  | .ackIdleTimeout k | .resendReqTimeout k => wfKey k
  | .ackWaitTimeout p k => wfPort p && wfKey k
  | .cellEgress r => decide (r / 268435456 = 1 ∨ r / 268435456 = 3 ∨ r / 268435456 = 4)
  | .markerFrameSend p | .timeCellSend p | .timeCellReceive p _ | .identSend p | .identReceive p _ _
  | .noIdentTimeout p | .mgmtRequestReceive p _ | .bringupStageComplete p | .bringupIdleEnd p | .prbsStart p
  | .cellServiceBegin p | .loopbackEnd p | .signalDetect p => wfPort p
  | .prbsEnd p _ _ e => wfPort p && decide (e.length ≤ 8)
  | .markerFrameReceive p l _ _ | .recoveryCheckStart p l | .loopbackStart p l | .bringupStageTimeout p l _ =>
    wfPort p && decide (l < 50)
  | .laneLos d l | .laneLol d l | .laneRelock d l | .laneRelockTimeout d l | .laneCode d l _ _
  | .spareSubstitution d l _ | .recoveryCheckEnd d l _ _ => wfLane d l
  | .laneTestWrite d _ => decide (d < 16)
  | .softRepairDone st sub => wfPc st (sub % 32)
  | .standbySelfCheck p _ | .selfTimedAckTimeout p | .fltAckWrite p _ | .cntFreezeWrite p _ | .blockReset p _
  | .blockIdle p _ _ | .blockResetRelease p _ => wfPage p
  | .vacateStart st pc | .segmentCopyDone st pc | .pinRepairDone st pc _ | .memPcLost st pc | .vacate st pc
  | .restore st pc => wfPc st pc
  | .thermalReading st _ => decide (st < 20)
  | .memSplitWrite u => decide (u < 256)
  | .start m c | .cancel m c | .moverTransferDone m c => decide (m < 4) && decide (c < 16)
  | .recover m => decide (m < 4)
  | .frameReceive p _ _ | .frameDequeue p | .hostLinkDown p | .hostLinkUp p => decide (p < 8)
  | .rdmaWritePacket d _ | .rdmaReadRequest d _ | .rdmaWriteAck d _ | .finish d _ | .reopen d _
  | .stagingDigestDone d | .dtlsClientHello d _ | .hostPolBurstWrite d _ | .qpValidWrite d _ _ => decide (d < 2)
  | .dtlsRecord ses _ _ | .dtlsIdleTimeout ses | .keyUpdate ses => decide (ses < 8)
  | .hello h | .nop h | .read h _ _ | .write h _ _ | .ledgerRead h _ _ | .certGet h _ | .attest h _ _ _
  | .image h _ _ _ _ => decide (h.session < 8)
  | .registerWrite p o _ _ => wfPage p && decide (o < 4096)
  | .select sl | .erase sl => decide (sl < 2)
  | .railInRegulation r | .railSequenceTimeout r | .pwrPhase r _ _ _ | .pwrRail r _ => decide (r < 16)
  | _ => true

end Sys2Proof
end

