-- ==== Sys2Proof/Machine/Engine.lean ====
section
/-! DEFINITION. A work record from its first RUN tick to its RELEASE tick, and the judgement of deadlines (01 R39 to R41, 02
R83, 04 R142 to R153, 05 R182, 06 R226, R627). -/

namespace Sys2Proof.Machine

/-- A unit can run: its logical position has an active physical unit, its Mover or home agent has not failed (17 R560, 06 R230),
and no block reset holds it (18 R582). -/
def unitRuns (s : State) (u : Nat) : Bool :=
  let die := u / 16 % 16
  if u % 16 = 3 then !(getF s 0 Reg.txnStatus_hfail).testBit die && !blockBusy s (pageOf 6 0) (die + 1)
  else if u % 16 = 4 then decide (getF s die Reg.movStatus_failed = 0) && !blockBusy s (pageOf 7 die) 0
  else
    match unitPage s u with
    | some p => !blockBusy s p 0
    | none => false

/-- Ticks since B. -/
def sinceBase (s : State) : Nat := s.mer - stepBase s

/-! ## ENGINE_RUN (R182) -/

/-- A reduction record's result in the holding stage. -/
def redFinish (s : State) (j : Job) (rid : Nat) (r : RedRec) : State :=
  let o := redResult s r rid
  let page := pageOfUnit s j.unit
  putJob s { j with
    doneAt := some s.mer, flags := o.flags, cells := o.cells, writes := o.writes, item := o.item
    counts := [(page * 4096 + 0x48, 1), (page * 4096 + 0x50, o.rounded)] }

/-- A barrier record's result in the holding stage. -/
def barFinish (s : State) (j : Job) (rid : Nat) (r : BarRec) : State :=
  let o := barResult s r rid
  let page := pageOfUnit s j.unit
  putJob s { j with
    doneAt := some s.mer, flags := o.flags, cells := o.cells, writes := o.writes, item := o.item, lag := o.lag
    counts := [(page * 4096 + 0x40, 1), (page * 4096 + 0x48, o.rounded), (page * 4096 + 0x50, if o.lag.missed then 1 else 0)] }

/-- The record starts on its unit. -/
def startRecord (s : State) (u : Nat) (w : WorkRec) : State :=
  match w.body with
  | .red r => if r.n = 0 then redFinish s (freshJob s u w.seq 0) w.rid r else putJob s (freshJob s u w.seq 0)
  | .bar _ => putJob s (freshJob s u w.seq 0)
  | .pool r => runPool s u w.seq w.rid r
  | .home h => runHome s u w h
  | .mov r => runMover s u w.seq r

/-- An engine is not idle: it runs one record at a time (R145, R182). A pool engine holds its record to the RELEASE tick and until its last
result is written; a record that was skipped before its first RUN tick does not hold it yet (R183). A Mover's channels are units of their
own. -/
def unitBusy (s : State) (u : Nat) : Bool :=
  s.eng.jobs.any fun j => j.unit == u && !j.busErr &&
    (if j.released then u % 16 == 2 && j.state == 5
     else j.doneAt.isNone || (u % 16 == 2 && !(j.skipped && (firstRun s u j.seq).any fun f => decide (sinceBase s < f))))

/-- The first RUN tick of a record on an idle unit; in any other tick nothing starts. -/
def engineRun (s : State) (u : Nat) : State :=
  if inStep s && unitRuns s u && !unitBusy s u then
    match unitRecord s u (fun q => firstRun s u q == some (sinceBase s)) with
    | some w => if (s.eng.job u w.seq).isSome then s else startRecord s u w
    | none => s
  else s

/-! ## RECORD_COMPLETE (R39) -/

/-- A Mover record has moved everything: the slots have carried its accesses, its cells have left, and its source has arrived (07 R244,
R245). -/
def moverReady (s : State) (j : Job) (rid : Nat) (r : MovRec) : Bool :=
  !j.busErr && (todoOf s j.unit j.seq).isEmpty && j.cells.isEmpty && (!r.fabricDst || decide (ceilDiv r.len 48 ≤ j.formed)) &&
    (!r.fabricSrc || hasAll s rid r.inSrc (ceilDiv r.len 48))

/-- The engine finishes a record and sets the completion flag. A pool engine works in the record's RUN ticks and finishes CONVERT (R182), a
home agent has read its snapshot (06 R226). -/
def finishRecord (s : State) (j : Job) (w : WorkRec) : State :=
  match w.body with
  | .red r => if inputsDone s w then redFinish s j w.rid r else s
  | .bar r => if inputsDone s w then barFinish s j w.rid r else s
  | .pool r => if runTick s j.unit j.seq && j.state == 3 then putJob s (poolConvert s j r) else s
  | .home _ => if (todoOf s j.unit j.seq).isEmpty then putJob s { j with doneAt := some s.mer } else s
  | .mov r => if moverReady s j w.rid r then endMover s j w.rid r else s

/-- The record in work on a unit completes; with none in work nothing changes. -/
def recordComplete (s : State) (u : Nat) : State :=
  match s.eng.jobs.find? fun j => j.unit == u && j.doneAt.isNone && !j.released && !j.busErr with
  | some j =>
    match recordOf s u j.seq with
    | some w => finishRecord s j w
    | none => s
  | none => s

/-! ## RELEASE_TICK (R83) -/

/-- The smallest slack since the last read; a late result has slack 0 (R83, R98). That a flag set in the RELEASE tick and a LATE message show
0, and that a flag which is not set at all at its RELEASE tick shows nothing, is the model's choice: R83 gives such a release no number of
ticks (DESIGN CHOICE, log 77). -/
def noteSlack (s : State) (u slack : Nat) : State :=
  let v := min slack 255
  if v < getF s 0 Reg.plnSlackMin_slack then setF (setF s 0 Reg.plnSlackMin_slack v) 0 Reg.plnSlackMin_unit u else s

/-- SLACK_MARGIN of the active plan (R48). -/
def slackMargin (s : State) : Nat :=
  match s.pln.active with
  | some p => p.slackMargin
  | none => 0

/-- The slack of a release or of a crossbar transfer against SLACK_MARGIN: below it the CORRECTED fault SLACK_LOW, in time all the same
(R41, R83, R84). -/
def judgeSlack (s : State) (page sub unit addr slack : Nat) : State :=
  let s := noteSlack s unit slack
  if slack < slackMargin s then bump (fault s 1 page sub 0xFFFF addr slack) 0 Reg.plnCntSlacklow else s

/-- Originate cells; a copy for this device's own consumers is delivered (R310, R325). -/
def sendCells (s : State) (cells : List TxCell) (readyAt : Nat) : State :=
  cells.foldl (fun s t =>
    let r := originate s t readyAt
    match r.2 with
    | some c => consume r.1 c s.mer 0
    | none => r.1) s

/-- Every home agent that the tables give the home record has released (R217, R223). -/
def homeReleased (s : State) (seq : Nat) : Bool :=
  (homeUnits s seq).all fun u => s.eng.jobs.any fun j => j.unit == u && j.seq == seq && j.released && !j.busErr

/-- The region of a record's result. -/
def resultRegion (w : WorkRec) : Nat :=
  match w.body with
  | .red r => r.region
  | .bar r => r.region
  | .pool r => r.destRegion
  | _ => 0xFFFFFFFF

/-- A result's region writes wait for the planned slots of their pseudo-channels from the next tick on (R138, R148, R182). -/
def releaseWrites (s : State) (j : Job) (w : WorkRec) : State :=
  addTodo s (j.writes.flatMap fun x => accWrite s (.record j.unit j.seq) (j.unit / 16 % 16) (resultRegion w) x.1 x.2 (s.mer + 1))

/-- A result leaves on time: cells from 20 ticks later on, region writes in their planned slots, the barrier's slot at the zenith, the
replies of a home once its last agent has released, from the coordinator on the CD (R83, R138, R148, R182, R188, R217). -/
def releaseJob (s : State) (j : Job) (w : WorkRec) : State :=
  let s := putJob s { j with released := true, state := 5, cells := [], writes := [] }
  match w.body with
  | .mov _ => s
  | .home h => if homeReleased s j.seq then sendCells s (homeReplies s h) (s.mer + 20) else s
  | .bar r =>
    let s := if isZenith s r.tree then showSlowest s w r j.lag else s
    sendCells (releaseWrites s j w) j.cells (s.mer + 20)
  | _ => sendCells (crossFrom (releaseWrites s j w) j.unit j.cells) j.cells (s.mer + 20)

/-- A late result: it never leaves, and the step ends VOID with cause LATE (R40). -/
def releaseLate (s : State) (u : Nat) (w : WorkRec) (j : Job) : State :=
  putJob (faultVoid s 1 2 (pageOfUnit s u) u 0xFFFF w.seq 0) { j with released := true, busErr := true, cells := [], writes := [] }

/-- The sequencer samples the completion flag at a record's RELEASE tick; in any other tick nothing is released. -/
def releaseTick (s : State) (u : Nat) : State :=
  if inStep s then
    match unitRecord s u (fun q => releaseAt s u q == some (sinceBase s)) with
    | none => s
    | some w =>
      let j := (s.eng.job u w.seq).getD (freshJob s u w.seq 0)
      if j.released then s
      else
        match j.doneAt with
        | some d =>
          if d < s.mer then
            releaseJob (judgeSlack s (pageOfUnit s u) u u w.seq (s.mer - d)) j w
          else releaseLate (noteSlack s u 0) u w j
        | none => releaseLate s u w j
  else s

/-! ## DEADLINE_JUDGEMENT (R627) -/

/-- The members of a record whose contributions are missing: cause DEADLINE, and the lag counters name them (R142, R151,
R158). A pool record without its list is skipped at once (05 R183). -/
def judgeRecord (s : State) (w : WorkRec) : State :=
  let gone := missingInputs s w
  let d := (deadlineOf s w).getD s.mer
  if gone.isEmpty then s
  else
    let s := report s 2
    let s := { s with eng := { s.eng with missed := s.eng.missed ++ gone.map fun n => (w.rid, n, d) } }
    match w.body with
    | .pool _ => if (s.eng.job (recUnit s w) w.seq).isSome then s else putJob s (skipJob s (recUnit s w) w.seq)
    | _ => s

/-- Every record whose deadline lay 24 ticks ago is judged. -/
def judgeDeadlines (s : State) : State :=
  if inStep s then
    (stepWork s).foldl (fun s w =>
      if judgeAt s w = some s.mer && !(s.eng.missed.any (·.1 == w.rid)) then judgeRecord s w else s) s
  else s

/-! ## The commands -/

/-- A unit that the hardware has (R57). -/
def unitExists (u : Nat) : Bool := wfUnit u

/-- The first RUN tick of a work record (R182). -/
def execEngineRun (u : Nat) (s : State) : Host.Outcome State Fault Refusal :=
  whenRuns s .core (if unitExists u then .next (engineRun s u) else .fault .absentUnit)

/-- An engine finishes a record (R39). -/
def execRecordComplete (u : Nat) (s : State) : Host.Outcome State Fault Refusal :=
  whenRuns s .core (if unitExists u then .next (recordComplete s u) else .fault .absentUnit)

/-- The RELEASE tick of a record (R83). -/
def execReleaseTick (u : Nat) (s : State) : Host.Outcome State Fault Refusal :=
  whenRuns s .core (if unitExists u then .next (releaseTick s u) else .fault .absentUnit)

/-- The judgement of the arrival deadlines (R627). -/
def execDeadlineJudgement (s : State) : Host.Outcome State Fault Refusal :=
  whenRuns s .core (.next (judgeDeadlines s))

end Sys2Proof.Machine
end

