-- ==== Sys2Proof/Machine/Line.lean ====
section
/-! DEFINITION. What stands on a fabric lane: the 8b/10b code, the frames in code groups, PRBS31 and the running disparity of each
transmitter (10 R360 to R370; 09 R305). The code-group tables are those of IEEE 802.3 Clause 36, which R360 names (PRESUMED, log 100). -/

namespace Sys2Proof.Machine

/-! ## The 8b/10b code (R360) -/

/-- The sub-block abcdei of D.x at negative disparity, a first. -/
def code6 : List (List Nat) :=
  [[1,0,0,1,1,1], [0,1,1,1,0,1], [1,0,1,1,0,1], [1,1,0,0,0,1], [1,1,0,1,0,1], [1,0,1,0,0,1], [0,1,1,0,0,1], [1,1,1,0,0,0]] ++
  [[1,1,1,0,0,1], [1,0,0,1,0,1], [0,1,0,1,0,1], [1,1,0,1,0,0], [0,0,1,1,0,1], [1,0,1,1,0,0], [0,1,1,1,0,0], [0,1,0,1,1,1]] ++
  [[0,1,1,0,1,1], [1,0,0,0,1,1], [0,1,0,0,1,1], [1,1,0,0,1,0], [0,0,1,0,1,1], [1,0,1,0,1,0], [0,1,1,0,1,0], [1,1,1,0,1,0]] ++
  [[1,1,0,0,1,1], [1,0,0,1,1,0], [0,1,0,1,1,0], [1,1,0,1,1,0], [0,0,1,1,1,0], [1,0,1,1,1,0], [0,1,1,1,1,0], [1,0,1,0,1,1]]

/-- The sub-block fghj of y at negative disparity; 7 is the primary form. -/
def code4 : List (List Nat) :=
  [[1,0,1,1], [1,0,0,1], [0,1,0,1], [1,1,0,0], [1,1,0,1], [1,0,1,0], [0,1,1,0], [1,1,1,0]]

/-- Ones less zeros. -/
def balance (l : List Nat) : Int := 2 * (l.sum : Int) - (l.length : Int)

/-- The complement. -/
def flipBits (l : List Nat) : List Nat := l.map (1 - ·)

/-- The disparity after a sub-block: it turns over unless the sub-block is balanced. -/
def nextDisp (rd : Bool) (l : List Nat) : Bool := if balance l = 0 then rd else !rd

/-- A code group: a data byte, or one of the K code groups that the T4896 sends (R361). -/
inductive CodeGroup where
  | data (b : Byte)
  | k285 | k281 | k283 | k277
  deriving DecidableEq, Repr

/-- The ten line bits of a K code group at negative disparity. -/
def kBits : CodeGroup → List Nat
  | .k285 => [0,0,1,1,1,1,1,0,1,0]
  | .k281 => [0,0,1,1,1,1,1,0,0,1]
  | .k283 => [0,0,1,1,1,1,0,0,1,1]
  | .k277 => [1,1,0,1,1,0,1,0,0,0]
  | .data _ => []

/-- The ten line bits of a data byte and the disparity after it. -/
def dataBits (rd : Bool) (b : Byte) : List Nat × Bool :=
  let x := b.toNat % 32
  let y := b.toNat / 32
  let six := code6.getD x []
  let six := if rd && (balance six != 0 || x == 7) then flipBits six else six
  let mid := nextDisp rd six
  let four := if y = 7 ∧ (if mid then [11, 13, 14] else [17, 18, 20]).contains x = true then [0,1,1,1] else code4.getD y []
  let four := if mid && (balance four != 0 || y == 3) then flipBits four else four
  (six ++ four, nextDisp mid four)

/-- Encode a code group at a running disparity (positive is true). -/
def encodeGroup (rd : Bool) (g : CodeGroup) : List Nat × Bool :=
  match g with
  | .data b => dataBits rd b
  | k =>
    let l := kBits k
    (if rd then flipBits l else l, nextDisp rd l)

/-- Encode code groups in order. -/
def encodeGroups : Bool → List CodeGroup → List Nat × Bool
  | rd, [] => ([], rd)
  | rd, g :: gs =>
    let a := encodeGroup rd g
    let b := encodeGroups a.2 gs
    (a.1 ++ b.1, b.2)

/-- Every code group that may stand on a lane. -/
def allGroups : List CodeGroup := [.k285, .k281, .k283, .k277] ++ (List.range 256).map fun n => .data (BitVec.ofNat 8 n)

/-- Ten line bits as a number, the first bit lowest. -/
def lineNum (l : List Nat) : Nat := l.foldr (fun b a => b + 2 * a) 0

/-- Decode ten line bits at a running disparity: none is an invalid group or one of the other disparity, and a foreign K code group. -/
def decodeGroup (rd : Bool) (bits : BitVec 10) : Option CodeGroup :=
  allGroups.find? fun g => lineNum (encodeGroup rd g).1 == bits.toNat

/-! ## Frames in code groups (R362 to R368) -/

/-- Code groups of a frame: 8 on a whole port, 16 on a half-port; training frames have 8 on both (R362, R368). -/
def frameLen (half : Bool) : FrameKind → Nat
  | .training => 8
  | .idle | .cell | .marker => if half then 16 else 8

/-- The last code group of a frame that is not a cell frame: K27.7 if a cell frame follows (R363). -/
def lastGroup (cellNext : Bool) : CodeGroup := if cellNext then .k277 else .k285

/-- An idle frame (R365). -/
def idleFrame (half cellNext : Bool) : List CodeGroup := List.replicate (frameLen half .idle - 1) .k285 ++ [lastGroup cellNext]

/-- A marker frame: a half-port's second tick follows the idle layout (R366). -/
def markerFrame (half : Bool) (ident : Byte) (index : BitVec 32) (cellNext : Bool) : List CodeGroup :=
  [.k281, .k283, .data ident] ++ (leBytes 4 index.toNat).map .data ++ List.replicate (if half then 8 else 0) .k285 ++ [lastGroup cellNext]

/-- A training frame (R368). -/
def trainingFrame (f : TrainFrame) (cellNext : Bool) : List CodeGroup :=
  [.k285, .data f.probe, .data f.ident, .data f.probe, .data f.stage, .data f.mask, .data f.flags, lastGroup cellNext]

/-- The bytes of a cell on a logical lane: byte i on lane i mod 8, on a half-port i mod 4 of the half (09 R305). -/
def cellFrame (half : Bool) (lane : Nat) (c : FabCell) : List CodeGroup :=
  let n := if half then 4 else 8
  (List.range (64 / n)).map fun i => .data (c.extractLsb' (8 * (n * i + lane % n)) 8)

/-- A K code group may stand at a place of a frame (R361 to R368). -/
def kAllowed (kind : FrameKind) (len index : Nat) (g : CodeGroup) : Bool :=
  let last := index + 1 == len
  match kind, g with
  | _, .data _ => true
  | .cell, _ => false
  | .idle, .k285 => true
  | .idle, .k277 => last
  | .marker, .k281 => index == 0
  | .marker, .k283 => index == 1
  | .marker, .k285 => last || (decide (len = 16) && decide (7 ≤ index))
  | .marker, .k277 => last
  | .training, .k285 => index == 0 || last
  | .training, .k277 => last
  | .idle, _ | .training, _ => false

/-- A data code group may stand at a place of a frame. -/
def dAllowed (kind : FrameKind) (len index : Nat) : Bool :=
  match kind with
  | .cell => true
  | .idle => false
  | .marker => decide (2 ≤ index) && decide (index < 7)
  | .training => decide (1 ≤ index) && decide (index + 1 < len)

/-- The receiver's running disparity after the sub-block of a code group from bit `lo` on: that of its bits where they are unbalanced or
one of the two forms that stand for a disparity, else the one before it. -/
def rxDisp (rd : Bool) (lo n form : Nat) (bits : BitVec 10) : Bool :=
  let l := (List.range n).map fun i => if bits.getLsbD (lo + i) then 1 else 0
  if balance l ≠ 0 then decide (0 < balance l)
  else if lineNum l = form then true
  else if lineNum (flipBits l) = form then false
  else rd

/-- The receiver's running disparity after a code group: sub-blocks 000111 and 0011 end positive, 111000 and 1100 negative. -/
def rxNext (rd : Bool) (bits : BitVec 10) : Bool := rxDisp (rxDisp rd 0 6 56 bits) 6 4 12 bits

/-- What a receiver counts of a code group at its running disparity, on a half-port or not: 0 nothing, 1 an invalid or misplaced one, 2
one of the wrong disparity (R360, R363). -/
def violation (half rd : Bool) (g : RxGroup) : Nat :=
  let len := frameLen half g.kind
  match decodeGroup rd g.bits with
  | some (.data _) => if dAllowed g.kind len g.index then 0 else 1
  | some k => if kAllowed g.kind len g.index k && !(g.lone && k == .k277) then 0 else 1
  | none => if (decodeGroup (!rd) g.bits).isSome then 2 else 1

/-- What a receiver counts of code groups in order, and its running disparity after them. -/
def violations (half : Bool) : Bool → List RxGroup → List Nat × Bool
  | rd, [] => ([], rd)
  | rd, g :: gs =>
    let r := violations half (rxNext rd g.bits) gs
    (violation half rd g :: r.1, r.2)

/-! ## PRBS31 (R370) -/

/-- One step of x^31 + x^28 + 1: the bit sent and the next register. -/
def prbsStep (w : BitVec 31) : Bool × BitVec 31 :=
  let b := w.getLsbD 30 ^^ w.getLsbD 27
  (b, (w <<< 1) ||| (if b then 1 else 0))

/-- The line bits of the sequence from a register. -/
def prbsBits : Nat → BitVec 31 → List Bool
  | 0, _ => []
  | n + 1, w => let r := prbsStep w
                r.1 :: prbsBits n r.2

/-- Errors of received bits against the sequence that their first 31 bits seed. -/
def prbsErrors (bits : List Bool) : Nat :=
  let seed : BitVec 31 := (bits.take 31).foldl (fun w b => (w <<< 1) ||| (if b then 1 else 0)) 0
  let rest := bits.drop 31
  ((rest.zip (prbsBits rest.length seed)).filter fun p => p.1 != p.2).length

/-! ## The running disparity of a transmitter (R360) -/

/-- The key of a lane of a die. -/
def laneKey (die lane : Nat) : Nat := die * 64 + lane

/-- The transmitter of a lane: one that left electrical idle in this tick starts at negative disparity. -/
def laneTx (s : State) (key : Nat) : LineTx := (kvGet s.lanes.tx key).getD ⟨false, s.mer, false⟩

/-- Set it. -/
def setTx (s : State) (key : Nat) (t : LineTx) : State := { s with lanes := { s.lanes with tx := kvPut s.lanes.tx key t } }

/-- The lane falls to electrical idle. -/
def idleTx (s : State) (key : Nat) : State := { s with lanes := { s.lanes with tx := kvDel s.lanes.tx key } }

/-- The disparity after the open code group, which is K27.7 if a cell frame follows (R363). -/
def closeTx (t : LineTx) (cellNext : Bool) : Bool := if t.owed then (encodeGroup t.rd (lastGroup cellNext)).2 else t.rd

/-- The disparity after n frames of one content: the change of one frame does not depend on the disparity before it. -/
def repeatRd (rd : Bool) (n : Nat) (frame : List CodeGroup) : Bool :=
  let one := (encodeGroups rd frame).2
  if one = rd ∨ n % 2 = 0 then rd else one

/-- Frames of one content, each some ticks long, fill the time to a tick; the last code group of the last one stays open. -/
def fillTx (t : LineTx) (frame : List CodeGroup) (ticks now : Nat) : LineTx :=
  let n := (now - t.upTo) / ticks
  if n = 0 then t
  else ⟨(encodeGroups (repeatRd (closeTx t false) (n - 1) frame) frame.dropLast).2, t.upTo + n * ticks, true⟩

/-- A cell frame follows. -/
def cellTx (t : LineTx) (frame : List CodeGroup) (ticks now : Nat) : LineTx := ⟨(encodeGroups (closeTx t true) frame).2, now + ticks, false⟩

/-- A frame that is not a cell frame follows. -/
def frameTx (t : LineTx) (frame : List CodeGroup) (ticks now : Nat) : LineTx :=
  ⟨(encodeGroups (closeTx t false) frame.dropLast).2, now + ticks, true⟩

/-- The disparity after PRBS31, which is no code: the spec states none, a free value. -/
def prbsTx (s : State) (key last : Nat) : State :=
  let b := drawBool s
  setTx b.2 key ⟨b.1, last, false⟩

end Sys2Proof.Machine
end

