-- ==== Sys2Proof/Machine/Lanes.lean ====
section
/-! DEFINITION. Fabric lanes: bring-up, losses in service, recovery checks, spare substitution, tests and markers (10 R366 to
R389). -/

namespace Sys2Proof.Machine

/-! ## Links and lanes -/

/-- Bring-up that has learned nothing. -/
def BringUp.fresh : BringUp := ⟨0, 0, false, none, none, none, none, none, none, 0⟩

/-- A link that nothing has happened on. -/
def Link.fresh (code : Nat) : Link :=
  ⟨code, 0, 0, 0, none, 0, false, false, none, none, 0, 0, [], none, false, none, none, [], [], false, [], [], .fresh, none, 0, 0⟩

/-- The link of a port code. -/
def linkOf (s : State) (code : Nat) : Link := (s.lanes.links.find? (·.code == code)).getD (.fresh code)

/-- Port codes of a port as it runs: whole, or its two halves. -/
def codesOf (split : Bool) (p : Nat) : List Nat := if split then [p + 256, p + 384] else [p]

/-- The port runs as two half-ports (R352). -/
def splitNow (s : State) (p : Nat) : Bool := getF s p Reg.fabPortStatus_split == 1

/-- STATE of FAB_PORT_STATUS: of a split port the lower of its halves' states. -/
def showState (s : State) (p : Nat) : State :=
  setF s p Reg.fabPortStatus_state (((codesOf (splitNow s p) p).map fun c => (linkOf s c).state).min?.getD 0)

/-- Set a link, links in rising code. -/
def setLink (s : State) (l : Link) : State :=
  let rest := s.lanes.links.filter (·.code != l.code)
  showState { s with lanes := { s.lanes with
    links := rest.filter (·.code < l.code) ++ [l] ++ rest.filter (l.code < ·.code) } } (portNo l.code)

/-- STATE of a port or half (R352): 0 DOWN, 1 TRAINING, 2 DISCOVERY, 3 QUARANTINED, 4 IN_SERVICE. -/
def portState (s : State) (code : Nat) : Nat := (linkOf s code).state

/-- The logical port that a physical port carries (11 R403). -/
def logicalPort (s : State) (code : Nat) : Nat := (kvGet s.lanes.remap code).getD code

/-- The physical port that carries a logical port. -/
def physicalPort (s : State) (code : Nat) : Nat :=
  match s.lanes.remap.find? fun x => x.2 == code with
  | some x => x.1
  | none => code

/-- The current step uses a port: a run that is not IDLE names its egress or ingress (R377). -/
def stepUses (s : State) (code : Nat) : Bool :=
  let busy := fun (r : Nat) => match curTable s r with
    | some t => t.runs.any (·.use != 0)
    | none => false
  busy (2 ^ 28 + logicalPort s code) || busy (2 * 2 ^ 28 + logicalPort s code)

/-- Logical lanes of a port code (R367). -/
def logicalLanes (code : Nat) : List Nat := if code / 128 = 2 then [0, 1, 2, 3] else if code / 128 = 3 then [4, 5, 6, 7] else List.range 8

/-- The port's lane order is reversed (R369 ORDER), as its first lane shows. -/
def reversed (s : State) (code : Nat) : Bool :=
  getFI s (8 * (portNo code % 6) + (if code / 128 = 3 then 4 else 0)) (portNo code / 6) 0 Reg.laneStat_reversed == 1

/-- The in-service lane of a logical lane before any substitution, in a lane order (R23, R369). -/
def homeIn (rev : Bool) (code l : Nat) : Nat :=
  8 * (portNo code % 6) + (if !rev then l else if isHalf code then 4 * (l / 4) + (3 - l % 4) else 7 - l)

/-- That lane in the order of the port. -/
def homeLane (s : State) (code l : Nat) : Nat := homeIn (reversed s code) code l

/-- A spare that carries a logical lane of a port: its number (R389). -/
def spareOf (s : State) (code l : Nat) : Option Nat :=
  let d := portNo code / 6
  let j := portNo code % 6
  if getF s d Reg.laneSpareMap_use0 = 1 ∧ getF s d Reg.laneSpareMap_port0 = j ∧ getF s d Reg.laneSpareMap_lane0 = l then some 0
  else if getF s d Reg.laneSpareMap_use1 = 1 ∧ getF s d Reg.laneSpareMap_port1 = j ∧ getF s d Reg.laneSpareMap_lane1 = l then some 1
  else none

/-- The physical lane that carries a logical lane in a lane order. -/
def physIn (s : State) (rev : Bool) (code l : Nat) : Nat :=
  match spareOf s code l with
  | some k => 48 + k
  | none => homeIn rev code l

/-- The physical lane whose receiver carries a logical lane. -/
def physLane (s : State) (code l : Nat) : Nat := physIn s (reversed s code) code l

/-- The physical lane whose transmitter sends a position: only the receiver reverses a lane order (R367, R369). -/
def txLane (s : State) (code l : Nat) : Nat := physIn s false code l

/-- The port code and logical lane that a physical lane carries; none for a free spare or a retired lane. -/
def carried (s : State) (die lane : Nat) : Option (Nat × Nat) :=
  let ports := (List.range 6).flatMap fun j => codesOf (splitNow s (6 * die + j)) (6 * die + j)
  (ports.flatMap fun c => (logicalLanes c).map fun l => (c, l)).find? fun x => physLane s x.1 x.2 == lane

/-- Set a field of a lane. -/
def setLane (s : State) (die lane : Nat) (f : Fld) (v : Nat) : State := setFI s lane die 0 f v

/-- STAGE of every lane of a port (R389). -/
def setStages (s : State) (code v : Nat) : State :=
  (logicalLanes code).foldl (fun s l => setLane s (portNo code / 6) (physLane s code l) Reg.laneStat_stage v) s

/-- A fault of a lane die's page. -/
def laneFault (s : State) (kind die sub detail : Nat) : State := fault s kind (pageOf 0xC die) sub 0xFFFF 0 detail

/-- LANE_LAST_FAIL (R373, R389). -/
def lastFail (s : State) (die lane reason : Nat) : State :=
  setF (setF (setF s die Reg.laneLastFail_lane lane) die Reg.laneLastFail_reason reason) die Reg.laneLastFail_valid 1

/-- A lifetime counter goes up (20 R616). -/
def bumpLife (s : State) (index n : Nat) : State := setFI s index 0 0 Reg.pwrLife_value (getFI s index 0 0 Reg.pwrLife_value + n)

/-! ## Frames on a link (R362 to R368) -/

/-- The keys of a port's lanes, by logical lane. -/
def portKeys (s : State) (code : Nat) : List Nat :=
  (logicalLanes code).map fun l => laneKey (portNo code / 6) (physLane s code l)

/-- The key of the transmitter that sends a position of a port. -/
def txKey (s : State) (code l : Nat) : Nat := laneKey (portNo code / 6) (txLane s code l)

/-- The port transmits frames: neither electrical idle nor a test (R373, R385). -/
def sendsFrames (l : Link) : Bool := l.stage != 14 && l.idleUntil.isNone

/-- The port is in bring-up: its lanes send training frames (R368). -/
def inBringUp (l : Link) : Bool := decide (l.state < 2) && decide (l.stage ≤ 8)

/-- The identity byte of a logical lane of a port (R367). -/
def identByte (code l : Nat) : Byte := BitVec.ofNat 8 (l + 8 * (portNo code % 6))

/-- The identity byte of a spare that carries no logical lane (R367). -/
def spareIdent (k : Nat) : Byte := BitVec.ofNat 8 (64 + k)

/-- The last stage that the receiver has completed (R368): PRBS counts as complete once its check has ended without an error. -/
def stageByte (l : Link) : Nat := if l.stage = 7 ∧ l.up.checked = true ∧ l.up.mask = 0 then 7 else l.stage - 1

/-- The training frame that a lane sends (R368). -/
def trainFrame (s : State) (code l : Nat) : TrainFrame :=
  let k := linkOf s code
  ⟨0xB5, identByte code l, BitVec.ofNat 8 (stageByte k), k.up.mask,
    BitVec.ofNat 8 ((if k.up.readyAt.isSome then 1 else 0) + (if splitNow s (portNo code) then 2 else 0))⟩

/-- What fills a logical lane's time between other frames: training frames of one tick, or idle frames (R365, R368). -/
def filler (s : State) (code l : Nat) : List CodeGroup × Nat :=
  if inBringUp (linkOf s code) then (trainingFrame (trainFrame s code l) false, 1)
  else (idleFrame (isHalf code) false, if isHalf code then 2 else 1)

/-- A lane's transmitter as it stands at this tick. -/
def txNow (s : State) (code l : Nat) : LineTx :=
  let f := filler s code l
  fillTx (laneTx s (txKey s code l)) f.1 f.2 s.mer

/-- Fillers so far are sent on every lane of a port: what it sends from this tick on may change. -/
def settleTx (s : State) (code : Nat) : State :=
  if sendsFrames (linkOf s code) then
    (logicalLanes code).foldl (fun s l => setTx s (txKey s code l) (txNow s code l)) s
  else s

/-- Every lane of a port falls to electrical idle. -/
def idlePort (s : State) (code : Nat) : State := ((logicalLanes code).map (txKey s code)).foldl idleTx s

/-- A cell's frame on every lane of a port; K27.7 ends the frame before it unless that was a cell frame (R305, R363). -/
def sendCell (s : State) (code : Nat) (c : FabCell) : State :=
  let half := isHalf code
  (logicalLanes code).foldl (fun s l =>
    setTx s (txKey s code l) (cellTx (txNow s code l) (cellFrame half l c) (if half then 2 else 1) s.mer)) s

/-- A marker frame on a logical lane (R366). -/
def sendMarker (index : BitVec 32) (code : Nat) (s : State) (l : Nat) : State :=
  let half := isHalf code
  let lane := txLane s code l
  let t := frameTx (txNow s code l) (markerFrame half (identByte code l) index false) (if half then 2 else 1) s.mer
  emit (setTx s (laneKey (portNo code / 6) lane) t) (.marker s.mer code lane (identByte code l) index)

/-- A marker frame on a spare that carries no logical lane (R366, R380). -/
def sendSpareMarker (index : BitVec 32) (die : Nat) (s : State) (k : Nat) : State :=
  let key := laneKey die (48 + k)
  let t := frameTx (fillTx (laneTx s key) (idleFrame false false) 1 s.mer) (markerFrame false (spareIdent k) index false) 1 s.mer
  emit (setTx s key t) (.marker s.mer (6 * die) (48 + k) (spareIdent k) index)

/-- The training frames of a bring-up from this tick on (R368). -/
def sendTraining (s : State) (code : Nat) : State :=
  if inBringUp (linkOf s code) && sendsFrames (linkOf s code) then
    (logicalLanes code).foldl (fun s l => emit s (.training s.mer code (txLane s code l) (trainFrame s code l))) s
  else s

/-- What the receivers of lanes learned is forgotten: frames are looked for afresh. -/
def forgetRx (s : State) (keys : List Nat) : State :=
  let n := s.lanes
  { s with lanes := { n with
    lastIndex := n.lastIndex.filter fun x => !keys.contains x.1
    rxIdent := n.rxIdent.filter fun x => !keys.contains x.1
    rxTrain := n.rxTrain.filter fun x => !keys.contains x.1
    rxAt := n.rxAt.filter fun x => !keys.contains x.1
    rxRd := n.rxRd.filter fun x => !keys.contains x.1 } }

/-- Skew of a lane from logical lane 0 of a port in 1/64 tick, as their last marker frames show (R369 DESKEW). -/
def skew64 (s : State) (code key : Nat) : Option Int :=
  match kvGet s.lanes.rxAt key, ((portKeys s code).head?).bind (kvGet s.lanes.rxAt) with
  | some a, some b => some (a - b)
  | _, _ => none

/-- A skew within the DESKEW limit of 1 tick. -/
def skewOk (s : State) (code key : Nat) : Bool :=
  match skew64 s code key with
  | some d => decide (d.natAbs ≤ 64)
  | none => false

/-- SKEW: code-group times of 1/8 tick, two's complement (R389). -/
def skewField (s : State) (code key : Nat) : Nat := ((((skew64 s code key).getD 0).fdiv 8).emod 256).toNat

/-! ## Service cells on a link (R378, 11 R396) -/

/-- STEP of IDENT, TIME and MGMT cells: e mod 256, or 0 while no plan is active (11 R396). -/
def linkStep (s : State) : Nat := if planRuns s then curExec s % 256 else 0

/-- SRC of a node without a node ID is 0xFFFE (R306, 11 R399). -/
def linkSrc (s : State) : Nat := if 0xF000 ≤ nodeId s then 0xFFFE else nodeId s

/-- A service cell to the neighbour. -/
def linkCell (s : State) (kind ofs : Nat) (p : Payload) : FabCell :=
  mkCell kind false 3 0xFFFE (linkSrc s) 0xFFD 0 (linkStep s) ofs p

/-- The payload of a lane request (R378). -/
def reqPayload (r : LaneReq) : Payload :=
  payOf (leBytes 1 r.opcode ++ leBytes 1 r.lane ++ leBytes 1 r.spare ++ [0] ++ leBytes 4 r.ticks ++ leBytes 8 r.start)

/-- This end sends a request: the first of four copies waits in the service queue (R378). -/
def sendReq (s : State) (r : LaneReq) : State :=
  let s := { s with lanes := { s.lanes with reqs := s.lanes.reqs ++ [{ r with own := true, copies := 3 }] } }
  pushSvc s (logicalPort s r.port) (linkCell s 0x14 0 (reqPayload r)) s.mer

/-- A copy of a request has left a port: the next follows at least 64 ticks later (R378). -/
def nextCopy (s : State) (code : Nat) (c : FabCell) : State :=
  match s.lanes.reqs.find? fun r =>
      r.own && logicalPort s r.port == code && decide (0 < r.copies) && cellKind c == 0x14 && reqPayload r == cellPayload c with
  | some r =>
    let rest := s.lanes.reqs.map fun q => if q = r then { r with copies := r.copies - 1 } else q
    pushSvc { s with lanes := { s.lanes with reqs := rest } } code (linkCell s 0x14 0 (reqPayload r)) (s.mer + 64)
  | none => s

/-- The next cells of a long message enter the service queue as it has room (11 R397). -/
def feedMsg : Nat → State → Nat → State
  | 0, s, _ => s
  | n + 1, s, code =>
    let l := linkOf s (physicalPort s code)
    match l.txMsg with
    | [] => s
    | c :: cs =>
      if (egressOf s code).svc.length < capOf code 64 then
        feedMsg n (pushSvc (setLink s { l with txMsg := cs }) code c s.mer) code
      else s

/-! ## Losing a port (R382) -/

/-- Requests, losses and fresh substitutions of a port are dropped. -/
def clearPortLanes (s : State) (code : Nat) : State :=
  let die := portNo code / 6
  let gone := (logicalLanes code).map (physLane s code)
  { s with lanes := { s.lanes with
    losses := s.lanes.losses.filter fun x => !(x.die == die && gone.contains x.lane)
    reqs := s.lanes.reqs.filter fun r => r.port != code
    taken := s.lanes.taken.filter fun r => r.port != code
    subs := s.lanes.subs.filter fun x => x.port != code } }

/-- NEIGHBOUR: the first node ID that an accepted IDENT of the port or of one of its halves shows, or 0xFFFF; a neighbour without a
governing plan shows none (R352; 11 R399). -/
def showNeighbour (s : State) (p : Nat) : State :=
  let ids := (codesOf (splitNow s p) p).filterMap fun c =>
    if 2 ≤ portState s c then (linkOf s c).ident.map (·.node) else none
  setF s p Reg.fabPortStatus_neighbour ((ids.find? (· != 0xFFFF)).getD 0xFFFF)

/-- The port leaves service: DOWN, its transmitters at electrical idle for 4096 ticks, and what discovery knew is gone. -/
def linkDown (s : State) (code : Nat) : State :=
  let l := linkOf s code
  let s := idlePort (clearPortLanes s code) code
  let s := setLink s { Link.fresh code with fails := l.fails, idleUntil := some (s.mer + 4096), since := s.mer, delay := l.delay }
  setStages (showNeighbour s (portNo code)) code 0

/-- A port is a lost port: its KIND 0x1 entry, and cause LINK where the step uses it (R76, R393). A port quarantined as EXTRA
never counts as lost (R402). -/
def losePort (s : State) (code : Nat) : State :=
  let s := if stepUses s code then report s 6 else s
  let extra := (linkOf s code).state == 3 && (linkOf s code).reason == 7
  if planRuns s && !extra then addLoss s ⟨nodeId s, 1, logicalPort s code⟩ else s

/-- A port is lost for want of a spare or by a failed substitution: reason 14 SPARE (R382). -/
def portLost (s : State) (code lane : Nat) : State :=
  let die := portNo code / 6
  let s := laneFault (lastFail s die lane 14) 0x24 die code 14
  linkDown (losePort s code) code

/-! ## Spares (R380, R381) -/

/-- Spare k of a die carries no logical lane and is not FAILED (R380, R389). -/
def spareIdle (s : State) (die k : Nat) : Bool :=
  if k = 0 then getF s die Reg.laneSpareMap_use0 == 0 && getF s die Reg.laneSpareMap_fail0 == 0
  else getF s die Reg.laneSpareMap_use1 == 0 && getF s die Reg.laneSpareMap_fail1 == 0

/-- LANE_SPARE_REACH for a port, bit k for spare k (R389). -/
def reachOf (s : State) (code : Nat) : Nat :=
  let die := portNo code / 6
  let bit := fun (f : Fld) => if (getF s die f).testBit (portNo code % 6) then 1 else 0
  bit Reg.laneSpareReach_reach0 + 2 * bit Reg.laneSpareReach_reach1

/-- A free spare that reaches a port, as the port's bring-up took LANE_SPARE_REACH (R380, R389). -/
def spareFree (s : State) (code k : Nat) : Bool := spareIdle s (portNo code / 6) k && (linkOf s code).up.reach.testBit k

/-- Spares of a die that this end's waiting SPARE requests already name. -/
def spareAsked (s : State) (die k : Nat) : Bool :=
  s.lanes.reqs.any fun r => r.own && r.opcode == 1 && portNo r.port / 6 == die && r.spare == k && decide (s.mer < r.start)

/-- The first multiple of 1024 at or after a tick. -/
def markerFrom (t : Nat) : Nat := (t + 1023) / 1024 * 1024

/-- The execution that follows one at its boundary, as this end foresees it: by ON_VOID where it is known to end VOID (R72, R78). -/
def foresee (p : Plan) (x : Nat × Nat × Nat) (voids : Bool) : Option (Nat × Nat × Nat) :=
  match p.steps[x.1]? with
  | some t => if voids then (afterVoid p t x.1 x.2.1 x.2.2).1 else nextInOrder p x.1 x.2.2
  | none => none

/-- The first boundary at or after a tick, executions foreseen one after another in the current band, those of a plan that is armed to
follow after the plan's own; after its end marker counts take their place. -/
def boundaryFrom : Nat → State → Plan → Option Plan → Option (Nat × Nat × Nat) → Nat → Nat → Nat
  | 0, _, _, _, _, _, atLeast => markerFrom atLeast
  | n + 1, s, p, after, next, e, atLeast =>
    if atLeast ≤ e then e
    else
      match next, after with
      | some x, _ =>
        match p.steps[x.1]? with
        | some t => boundaryFrom n s p after (foresee p x false) (e + t.len (stepBand s)) atLeast
        | none => markerFrom atLeast
      | none, some q => boundaryFrom n s q none (some (0, 0, 0)) e atLeast
      | none, none => markerFrom atLeast

/-- AT of a substitution: the first step boundary, or outside a plan the first multiple of 1024, at least 4096 ticks ahead
(R380). The current execution is foreseen to end VOID where its outcome is held VOID or this end has reported a cause (DEDUCED,
log 94). -/
def spareAt (s : State) : Nat :=
  match s.pln.active with
  | some p =>
    if stepsRun s then
      let voids := match s.pln.held with
        | some m => !m.ok
        | none => !s.pln.reports.isEmpty
      let e := match s.pln.hold with
        | some e => e
        | none => stepEnd s
      let next := if s.pln.hold.isSome then s.pln.holdNext
        else foresee p (getF s 0 Reg.plnStep_step, getF s 0 Reg.plnStep_attempt, s.pln.loops) voids
      boundaryFrom 8 s p (if s.pln.follow then s.pln.staged else none) next e (s.mer + 4096)
    else markerFrom (s.mer + 4096)
  | none => markerFrom (s.mer + 4096)

/-- A spare is marked FAILED (R380). -/
def failSpare (s : State) (die k : Nat) : State :=
  let s := setLane s die (48 + k) Reg.laneStat_stage 15
  if k = 0 then setF (setF s die Reg.laneSpareMap_use0 0) die Reg.laneSpareMap_fail0 1
  else setF (setF s die Reg.laneSpareMap_use1 0) die Reg.laneSpareMap_fail1 1

/-- A spare takes a logical lane, and the old physical lane is RETIRED until a reset, its transmitter at electrical idle (R380). -/
def mapSpare (s : State) (code l k : Nat) : State :=
  let die := portNo code / 6
  let j := portNo code % 6
  let old := physLane s code l
  let tx := txKey s code l
  let s := if 48 ≤ old then failSpare s die (old - 48) else s
  let s := setLane s die old Reg.laneStat_stage 13
  let s := if k = 0 then
      setF (setF (setF s die Reg.laneSpareMap_use0 1) die Reg.laneSpareMap_port0 j) die Reg.laneSpareMap_lane0 l
    else setF (setF (setF s die Reg.laneSpareMap_use1 1) die Reg.laneSpareMap_port1 j) die Reg.laneSpareMap_lane1 l
  let s := idleTx (setLane s die (48 + k) Reg.laneStat_logical l) tx
  bumpLife (bump s die Reg.laneCntSpare) 8 1

/-- A lane that carries a logical lane is to be replaced: a SPARE request for the first free spare that reaches the port, or the
port is lost (R380, R382). A recovery check of the lane is abandoned (R386). -/
def requestSpare (s : State) (code l : Nat) : State :=
  let die := portNo code / 6
  let s := { s with lanes := { s.lanes with reqs := s.lanes.reqs.filter fun r => !(r.own && r.port == code && r.lane == l) } }
  match [0, 1].find? fun k => spareFree s code k && !spareAsked s die k with
  | some k => sendReq (setLane s die (physLane s code l) Reg.laneStat_stage 12) ⟨code, true, 1, l, k, 0, spareAt s, 0⟩
  | none => portLost s code (physLane s code l)

/-- The pending SPARE request whose AT is now and whose logical lane a physical lane carries. -/
def dueSpare (s : State) (die lane : Nat) : Option LaneReq :=
  s.lanes.reqs.find? fun r =>
    r.opcode == 1 && r.start == s.mer && portNo r.port / 6 == die && physLane s r.port r.lane == lane

/-- Cells resume on a port once none of its lanes is lost (R377, R379). -/
def mayResume (s : State) (code : Nat) : Bool :=
  !(logicalLanes code).any fun l => s.lanes.losses.any fun x => x.die == portNo code / 6 && x.lane == physLane s code l

/-- The spare of a substitution: the one that this end named, or as the far end the free one whose received identity shows the
requester's number (R380). -/
def spareFor (s : State) (r : LaneReq) : Option Nat :=
  if r.own then (if spareIdle s (portNo r.port / 6) r.spare then some r.spare else none)
  else [0, 1].find? fun k => spareIdle s (portNo r.port / 6) k &&
    kvGet s.lanes.rxIdent (laneKey (portNo r.port / 6) (48 + k)) == some (spareIdent r.spare)

/-- At AT both ends move the logical lane to their spares, and the marker frames at AT and one interval later are to show it; a spare that
does not take the lane, or none at all, loses the port (R380 to R382). -/
def substitute (s : State) (die lane : Nat) (ok : Bool) : State :=
  match dueSpare s die lane with
  | none => s
  | some r =>
    let s := { s with lanes := { s.lanes with reqs := s.lanes.reqs.filter (· != r) } }
    match spareFor s r with
    | none => portLost s r.port lane
    | some k =>
      let old := if some r.lane = (logicalLanes r.port).head? then kvGet s.lanes.rxAt (laneKey die lane) else none
      let s := mapSpare s r.port r.lane k
      let s := noteRepair { s with
        lanes := { s.lanes with
          losses := s.lanes.losses.filter fun x => !(x.die == die && x.lane == lane)
          subs := s.lanes.subs ++ [⟨die, k, r.port, r.lane, s.mer, 0, old⟩] } }
      if ok then
        let s := setLane s die (48 + k) Reg.laneStat_stage 9
        let l := linkOf s r.port
        if mayResume s r.port then setLink s { l with dropping := false, resumeAt := none } else s
      else portLost s r.port (48 + k)

/-! ## Bring-up (R369 to R373) -/

/-- Timeout of a stage in ticks (R369); SIGNAL has none. -/
def stageTimeout : Nat → Option Nat
  | 2 => some 65536
  | 3 => some 16384
  | 4 => some 4096
  | 5 => some 4096
  | 6 => some 4096
  | 7 => some (16777216 + 8192)
  | 8 => some 8192
  | _ => none

/-- A port enters a bring-up stage: its training frames show it from then on, and ALIGN looks for frames afresh. -/
def enterStage (s : State) (code n : Nat) : State :=
  let s := settleTx s code
  let l := linkOf s code
  let s := if n = 3 then forgetRx s (portKeys s code) else s
  let s := setLink s { l with stage := n, since := s.mer, testEnd := none, up := { l.up with sub := 0, checked := false } }
  sendTraining (setStages s code n) code

/-- An attempt starts at SIGNAL, with LANE_SPARE_REACH as it stands (R373, R389). -/
def startAttempt (s : State) (code : Nat) : State :=
  let l := linkOf s code
  let s := setLink s { l with idleUntil := none, redo := false, up := { BringUp.fresh with reach := reachOf s code } }
  bump (enterStage s code 1) (portNo code / 6) Reg.laneCntTrain

/-- A stage fails or times out: the reason is recorded, the lanes stay at electrical idle, and the eighth failure raises
LANE_TRAIN and slows the attempts (R373). -/
def failAttempt (s : State) (code lane reason : Nat) : State :=
  let die := portNo code / 6
  let l := linkOf s code
  let n := l.fails + 1
  let s := idlePort (bump (lastFail s die lane reason) die Reg.laneCntTrainfail) code
  let s := setLink s { l with state := 0, stage := 0, since := s.mer, fails := n, redo := false, testEnd := none, idleUntil := some (if 8 ≤ n then s.mer + 2 ^ 28 else s.mer + 4096) }
  let s := setStages s code 0
  if n = 8 then laneFault s 0x23 die code reason else s

/-- The position and port index that each logical lane's marker frames carry are those of a lane order (R369 ORDER). -/
def orderIs (s : State) (rev : Bool) (code : Nat) : Bool :=
  let got := (logicalLanes code).map fun l => (kvGet s.lanes.rxIdent (laneKey (portNo code / 6) (physIn s rev code l))).map (·.toNat)
  match got.head? with
  | some (some b) => got == (logicalLanes code).map fun l => some (l + b / 8 % 8 * 8)
  | _ => false

/-- A lane's training frames read D21.5, or D10.2 where the lane is inverted (R369 POLARITY). -/
def probeOf (s : State) (key : Nat) : Option Bool :=
  match (kvGet s.lanes.rxTrain key).map (·.probe) with
  | some b => if b = 0xB5 then some false else if b = 0x4A then some true else none
  | none => none

/-- What a stage needs holds on every lane (R369). Signal, CDR lock and FREQ are the channel's: the command tells of them. -/
def stageHolds (s : State) (code stage : Nat) : Bool :=
  let keys := portKeys s code
  if stage = 1 then decide ((linkOf s code).since + 1024 ≤ s.mer)
  else if stage = 3 then keys.all fun q => (kvGet s.lanes.rxIdent q).isSome
  else if stage = 4 then keys.all fun q => (probeOf s q).isSome
  else if stage = 5 then orderIs s false code || orderIs s true code
  else if stage = 6 then keys.all (skewOk s code)
  else true

/-- What the registers show of a stage that completes; the frequency offset is the channel's, a free value within R359. -/
def measureStage (s : State) (code stage : Nat) : State :=
  let die := portNo code / 6
  if stage = 5 then
    let rev := !orderIs s false code
    let s := (logicalLanes code).foldl (fun s l =>
      setLane s die (homeIn false code l) Reg.laneStat_reversed (if rev then 1 else 0)) s
    (logicalLanes code).foldl (fun s l => setLane s die (physLane s code l) Reg.laneStat_logical l) s
  else
    (logicalLanes code).foldl (fun s l =>
      let lane := physLane s code l
      let key := laneKey die lane
      if stage = 2 then
        let f := drawNat s
        setLane (setLane f.2 die lane Reg.laneStat_freq ((f.1 % 21 + 246) % 256)) die lane Reg.laneStat_lol 0
      else if stage = 4 then setLane s die lane Reg.laneStat_inverted (if probeOf s key = some true then 1 else 0)
      else if stage = 6 then setLane s die lane Reg.laneStat_skew (skewField s code key)
      else if stage = 1 then setLane s die lane Reg.laneStat_los 0
      else s) s

/-- Spares for the lanes of a fail mask: each takes a free spare whose received markers show a spare lane; none where one finds
none (R371). -/
def spareMask : List Nat → State → Nat → State × Option Nat
  | [], s, _ => (s, none)
  | l :: ls, s, code =>
    match [0, 1].find? fun k => spareFree s code k &&
        ((kvGet s.lanes.rxIdent (laneKey (portNo code / 6) (48 + k))).map fun b => b.getLsbD 6) == some true with
    | some k => spareMask ls (mapSpare s code l k) code
    | none => (s, some (physLane s code l))

/-- Both fail masks are here: none set completes PRBS and sets READY; a first failure brings spares, and both ends return to DESKEW and
repeat the check; a second one fails the attempt (R371, R372). -/
def resolveMasks (s : State) (code : Nat) : State :=
  let l := linkOf s code
  match l.up.far with
  | none => s
  | some far =>
    if l.stage = 7 ∧ l.up.checked = true ∧ s.mer ≤ l.since + (16777216 + 8192) then
      match (logicalLanes code).filter fun i => (l.up.mask ||| far).getLsbD i with
      | [] => enterStage (setLink s { l with up := { l.up with readyAt := some s.mer } }) code 8
      | b :: bs =>
        if l.redo then failAttempt s code (physLane s code b) 7
        else
          match spareMask (b :: bs) s code with
          | (s, none) =>
            let l := linkOf s code
            enterStage (setLink s { l with redo := true, up := { l.up with far := none, first := l.up.far, sixLast := none, sixAt := none } }) code 6
          | (s, some lane) => failAttempt s code lane 7
    else s

/-- Stages 1 to 6 complete on every lane, SIGNAL after 1024 ticks, the others within their timeout; a lane order that ORDER does not allow
fails the attempt (R369). After PRBS31 the receiver runs ALIGN to DESKEW again and reports its fail mask (R370). -/
def stageComplete (s : State) (code : Nat) : State :=
  let l := linkOf s code
  let stage := if l.stage = 7 then l.up.sub else l.stage
  let inTime := l.stage = 1 || decide (s.mer ≤ l.since + (stageTimeout l.stage).getD 0)
  if l.state = 1 ∧ 1 ≤ stage ∧ stage ≤ 6 ∧ inTime = true then
    if stageHolds s code stage then
      let s := measureStage s code stage
      if l.stage ≠ 7 then enterStage s code (stage + 1)
      else if stage = 6 then
        let s := settleTx s code
        let l := linkOf s code
        resolveMasks (sendTraining (setLink s { l with up := { l.up with sub := 0, checked := true } }) code) code
      else setLink s { l with up := { l.up with sub := stage + 1 } }
    else if stage = 5 then failAttempt s code (physLane s code ((logicalLanes code).headD 0)) 5
    else s
  else s

/-- The lanes of a port code as a mask. -/
def laneMask (code : Nat) : BitVec 8 := if code / 128 = 2 then 0x0F else if code / 128 = 3 then 0xF0 else 0xFF

/-- The sender replaces every frame by PRBS31 for 2^24 ticks from the first of its own marker counts at least 2048 ticks after its
DESKEW and after the far end's second report of a stage of 6 or more (R370). -/
def prbsBegin (s : State) (code : Nat) : State :=
  let l := linkOf s code
  match l.up.sixAt with
  | some t =>
    if l.stage = 7 ∧ l.testEnd = none ∧ s.mer = markerFrom (max l.since t + 2048) then
      let s := settleTx s code
      let s := ((logicalLanes code).map (txKey s code)).foldl (fun s q => prbsTx s q (s.mer + 2 ^ 24)) s
      emit (setLink s { l with testEnd := some (s.mer + 2 ^ 24) }) (.prbs s.mer code (laneMask code) (2 ^ 24))
    else s
  | none => s

/-- The check of a logical lane of a port: its bit errors and the ticks that it covered. A lane whose checker detects no sequence is
never seeded and covers none (R370; DEDUCED, log 94). -/
def laneCheck (code : Nat) (detected : Byte) (errors : List Nat) (l : Nat) : Nat × Nat :=
  if detected.getLsbD l then (errors.getD (l - (logicalLanes code).headD 0) 0, 2 ^ 24 - 2048) else (0, 0)

/-- A check passes if it covered the sequence and shows no error (R370). -/
def checkPasses (c : Nat × Nat) : Bool := c.1 == 0 && c.2 != 0

/-- The fail mask of a check: the logical lanes that did not pass. -/
def failMask (code : Nat) (detected : Byte) (errors : List Nat) : BitVec 8 :=
  ((logicalLanes code).filter fun l => !checkPasses (laneCheck code detected errors l)).foldl (fun m l => m ||| BitVec.ofNat 8 (2 ^ l)) 0

/-- Line bits in a number of ticks in units of 2^16 (R389). -/
def checkedUnits (ticks : Nat) : Nat := 80 * ticks / 65536

/-- LANE_PRBS after a check (R389). -/
def showCheck (s : State) (die lane errors ticks : Nat) : State :=
  setLane (setLane s die lane Reg.lanePrbs_err (min errors 0xFFFFFFFF)) die lane Reg.lanePrbs_checked (min (checkedUnits ticks) 0xFFFFFFFF)

/-- The far end's sequence, which reached this end after DESKEW in tick `heard`, ends 2^24 ticks later: its check covered 2^24 - 2048
ticks on the lanes that detected it, and ALIGN to DESKEW follow again (R370). -/
def prbsFinish (s : State) (code heard : Nat) (detected : Byte) (errors : List Nat) : State :=
  let l := linkOf s code
  if l.stage = 7 ∧ l.testEnd.isSome = true ∧ l.up.sub = 0 ∧ l.up.checked = false ∧ l.since ≤ heard ∧ s.mer = heard + 2 ^ 24 ∧
      s.mer ≤ l.since + (16777216 + 8192) then
    let s := (logicalLanes code).foldl (fun s i =>
      let c := laneCheck code detected errors i
      showCheck s (portNo code / 6) (physLane s code i) c.1 c.2) s
    setLink (forgetRx s (portKeys s code)) { l with up := { l.up with mask := failMask code detected errors, sub := 3 } }
  else s

/-- The first marker count at which READY has been sent and was received in the preceding marker interval (R372). -/
def serviceAt (l : Link) : Option Nat :=
  match l.up.readyAt, l.up.readyRx with
  | some a, some b => some (1024 * (max (a / 1024) b + 1))
  | _, _ => none

/-- Cell service begins: DISCOVERY, with a new NONCE (R372, 11 R396, R397). -/
def beginService (s : State) (code : Nat) : State :=
  let l := linkOf s code
  if l.stage = 8 ∧ l.state = 1 ∧ serviceAt l = some s.mer ∧ s.mer ≤ l.since + 8192 then
    let n := drawBits (settleTx s code)
    let s := setLink n.2 { Link.fresh code with
      state := 2, stage := 9, since := s.mer, nonce := n.1.truncate 128, up := { BringUp.fresh with reach := l.up.reach }, delay := l.delay }
    setStages (setF (showNeighbour s (portNo code)) (portNo code) Reg.fabPortDisc_reason 0) code 9
  else s

/-- Signal detect on a DOWN port or half: TRAINING; the port takes SPLIT from LANE_CFG (R373, R374, R400). -/
def signalUp (s : State) (code : Nat) : State :=
  let p := portNo code
  let l := linkOf s code
  let ready : Bool := match l.idleUntil with
    | some t => decide (t ≤ s.mer)
    | none => true
  if l.state == 0 && ready && isHalf code == splitCfg s p && (codesOf (!splitCfg s p) p).all (fun c => (linkOf s c).state == 0) then
    let s := setF s p Reg.fabPortStatus_split (if splitCfg s p then 1 else 0)
    let s := if l.stage = 0 then startAttempt s code else s
    let l := linkOf s code
    (logicalLanes code).foldl (fun s i => setLane s (p / 6) (physLane s code i) Reg.laneStat_los 0)
      (setLink s { l with state := 1, since := s.mer })
  else s

/-- The electrical idle after a failed attempt ends (R373). -/
def idleEnd (s : State) (code : Nat) : State :=
  let l := linkOf s code
  match l.idleUntil with
  | some t => if l.stage = 0 ∧ t ≤ s.mer then startAttempt s code else s
  | none => s

/-! ## Lanes in service (R375 to R379) -/

/-- Every lane of a port is lost now: what was pending on it is dropped, and the port runs bring-up (R386). A lane that has relocked is not
lost, though its check is outstanding. -/
def allLost (s : State) (code : Nat) : Bool :=
  let die := portNo code / 6
  (logicalLanes code).all fun l => getFI s (physLane s code l) die 0 Reg.laneStat_lol == 1 &&
    s.lanes.losses.any fun x => x.die == die && x.lane == physLane s code l

/-- A lane took over less than 2048 ticks ago, or has not shown both of its marker frames (R381). -/
def freshSpare (s : State) (die lane : Nat) : Bool :=
  s.lanes.subs.any fun x => x.die == die && 48 + x.spare == lane && (decide (s.mer < x.start + 2048) || decide (x.seen < 2))

/-- A logical lane of a port in cell service loses signal or lock (R377); an idle spare is marked FAILED (R380), a port in bring-up
fails its attempt (R386), and a spare that has just taken a lane loses the port (R381). -/
def laneLost (s : State) (die lane : Nat) (los : Bool) : State :=
  let was := getFI s lane die 0 Reg.laneStat_lol == 1
  let s := setLane (if los then setLane s die lane Reg.laneStat_los 1 else s) die lane Reg.laneStat_lol 1
  match carried s die lane with
  | none => if 48 ≤ lane ∧ lane < 50 then failSpare s die (lane - 48) else s
  | some (code, l) =>
    let k := linkOf s code
    if k.state = 1 ∧ k.stage ≤ 8 then failAttempt s code lane (if los then 1 else 12)
    else if 2 ≤ k.state then
      if was && s.lanes.losses.any fun x => x.die == die && x.lane == lane then s
      else
        let s := bump s die (if los then Reg.laneCntLos else Reg.laneCntLol)
        let s := laneFault s (if los then 0x21 else 0x22) die lane 0
        let s := if stepUses s code then report s 6 else s
        let s := setLink s { k with dropping := true, resumeAt := none }
        let s := { s with lanes := { s.lanes with
          losses := (s.lanes.losses.filter fun x => !(x.die == die && x.lane == lane)) ++ [⟨die, lane, s.mer⟩]
          lastIndex := kvDel s.lanes.lastIndex (laneKey die lane)
          reqs := s.lanes.reqs.filter fun r => !(r.own && r.opcode == 2 && r.port == code && r.lane == l) } }
        let s := setLane s die lane Reg.laneStat_stage 10
        if freshSpare s die lane then portLost s code lane
        else if allLost s code then linkDown (losePort s code) code
        else s
    else s

/-- The lane regains signal and lock within 1024 ticks: it is realigned, and a recovery check is requested (R377, R379). -/
def relock (s : State) (die lane : Nat) : State :=
  match s.lanes.losses.find? fun x => x.die == die && x.lane == lane, carried s die lane with
  | some x, some (code, l) =>
    if s.mer ≤ x.since + 1024 ∧ !(s.lanes.reqs.any fun r => r.own && r.port == code && r.lane == l && decide (s.mer ≤ r.start + r.ticks)) then
      let s := setLane (setLane s die lane Reg.laneStat_los 0) die lane Reg.laneStat_lol 0
      let s := bump (setLane s die lane Reg.laneStat_stage 11) die Reg.laneCntRecover
      sendReq s ⟨code, true, 2, l, 0, 65536, (s.mer + 2048 + 1023) / 1024 * 1024, 0⟩
    else s
  | _, _ =>
    if 48 ≤ lane ∧ lane < 50 ∧ carried s die lane = none then
      setLane (setLane s die lane Reg.laneStat_los 0) die lane Reg.laneStat_lol 0
    else s

/-- A record that a lasting lane left in the log carries LASTING (17 R552, R557). -/
def markLasting (s : State) (kinds : List Nat) (page sub : Nat) : State :=
  match s.flt.log.reverse.find? fun r => kinds.contains r.msg.kind && r.msg.page == page && r.msg.sub == sub with
  | some r =>
    if r.lasting then s
    else
      bump { s with flt := { s.flt with log := s.flt.log.map fun q => if q.seq = r.seq then { q with lasting := true } else q } }
        0 Reg.fltCntLasting
  | none => s

/-- The lane did not recover within 1024 ticks: it is lasting, and a substitution is requested (R377, 17 R552). -/
def relockLate (s : State) (die lane : Nat) : State :=
  match s.lanes.losses.find? fun x => x.die == die && x.lane == lane, carried s die lane with
  | some x, some (code, l) =>
    if x.since + 1024 ≤ s.mer ∧ !(s.lanes.reqs.any fun r => r.own && r.port == code && r.lane == l) then
      requestSpare (markLasting s [0x21, 0x22] (pageOf 0xC die) lane) code l
    else s
  | _, _ => s

/-- The recovery check of a lane ends: without an error the lane returns and cells resume from the first boundary 4096 ticks later
on; with one it is replaced, and so is a lane whose checker detected no sequence (R379; the latter DEDUCED, log 94). -/
def recoveryEnd (s : State) (die lane errors : Nat) (detected : Bool) : State :=
  match carried s die lane with
  | none => s
  | some (code, l) =>
    match s.lanes.reqs.find? fun r => r.own && r.opcode == 2 && r.port == code && r.lane == l with
    | none => s
    | some r =>
      if s.mer = r.start + r.ticks then
        let c := if detected then (errors, r.ticks - 2048) else (0, 0)
        let s := forgetRx (showCheck s die lane c.1 c.2) [laneKey die lane]
        let s := { s with lanes := { s.lanes with reqs := s.lanes.reqs.filter (· != r) } }
        if detected && errors == 0 then
          let s := setLane s die lane Reg.laneStat_stage 9
          let s := { s with lanes := { s.lanes with losses := s.lanes.losses.filter fun x => !(x.die == die && x.lane == lane) } }
          let k := linkOf s code
          if mayResume s code then setLink s { k with resumeAt := some (s.mer + 4096) } else s
        else requestSpare (markLasting s [0x21, 0x22] (pageOf 0xC die) lane) code l
      else s

/-- Incoming cell frames of a port are dropped in this tick: after a loss, cells resume only at a step boundary, or while no plan
is active at a marker count (R377, R379). -/
def dropsCells (s : State) (code : Nat) : Bool :=
  let l := linkOf s code
  l.dropping &&
    (match l.resumeAt with
     | some t => planRuns s || decide (s.mer / 1024 * 1024 < t)
     | none => true)

/-- At a step boundary cells resume on every port whose check has passed (R377, R379). -/
def resumeLinks (s : State) : State :=
  { s with lanes := { s.lanes with links := s.lanes.links.map fun l =>
    match l.resumeAt with
    | some t => if t ≤ s.mer then { l with dropping := false, resumeAt := none } else l
    | none => l } }

/-- The far end checks a lane of a port in this tick: an egress cell is discarded (R379). -/
def txDiscards (s : State) (code : Nat) : Bool :=
  s.lanes.reqs.any fun r => !r.own && r.opcode == 2 && r.port == code && decide (r.start ≤ s.mer) && decide (s.mer < r.start + r.ticks)

/-- While no plan is active a port whose check has passed takes cells again from a marker count on; a plan that is armed later finds it so
(R377, R379). -/
def settleLinks (s : State) : State :=
  { s with lanes := { s.lanes with links := s.lanes.links.map fun l =>
    match l.resumeAt with
    | some t => if t ≤ s.mer / 1024 * 1024 then { l with dropping := false, resumeAt := none } else l
    | none => l } }

/-- A cell stands on the wire of a logical port, or is discarded while the far end checks a lane (R363, R379). -/
def wire (s : State) (code : Nat) (c : FabCell) : State :=
  let p := physicalPort s code
  if txDiscards s p then bump s (portNo p / 6) Reg.laneCntTxdiscard else emit (sendCell s p c) (.cell s.mer p c)

/-- Code violations of a lane in a marker interval, from the code groups that it received in it, one after another: LANE_CODEVIOL counts, and
LANE_CODE is raised once (R360, R376). The receiver keeps its running disparity, negative where it looks for frames afresh. -/
def laneCode (s : State) (die lane : Nat) (half : Bool) (groups : List RxGroup) : State :=
  let r := violations half ((kvGet s.lanes.rxRd (laneKey die lane)).getD false) groups
  let code := r.1.count 1
  let disp := r.1.count 2
  let s := { s with lanes := { s.lanes with rxRd := kvPut s.lanes.rxRd (laneKey die lane) r.2 } }
  let sat := fun (f : Fld) (n : Nat) (s : State) => setLane s die lane f (min (getFI s lane die 0 f + n) 0xFFFFFFFF)
  let s := sat Reg.laneCodeviol_disp disp (sat Reg.laneCodeviol_code code s)
  let key := die * 64 + lane
  let now := s.mer / 1024 + 1
  let served := match carried s die lane with
    | some (c, _) => decide (2 ≤ portState s c)
    | none => decide (48 ≤ lane)
  if served && decide (0 < code + disp) && kvGet s.lanes.codeAt key != some now then
    laneFault { s with lanes := { s.lanes with codeAt := kvPut s.lanes.codeAt key now } } 0x20 die lane (code + disp)
  else s

/-! ## Requests of the far end (R378, R385) -/

/-- A request as a payload carries it. -/
def reqOf (port : Nat) (p : Payload) : LaneReq :=
  ⟨port, false, payNat p 0 1, payNat p 1 1, payNat p 2 1, payNat p 4 4, payNat p 8 8, 0⟩

/-- A field of a request lies outside its range, or a reserved byte is not zero (R378). -/
def reqBad (port : Nat) (p : Payload) : Bool :=
  let r := reqOf port p
  let lane := (logicalLanes port).contains r.lane || (r.opcode == 3 && r.lane == 0xFF)
  let ticks := if r.opcode = 1 then r.ticks == 0 else r.ticks % 1024 == 0 && decide (1024 ≤ r.ticks) && decide (r.ticks ≤ 2 ^ 30)
  let spare := if r.opcode = 1 then decide (r.spare < 2) else r.spare == 0
  !(decide (1 ≤ r.opcode) && decide (r.opcode ≤ 3) && lane && ticks && spare && payNat p 3 1 == 0 && payNat p 16 32 == 0)

/-- A SPARE, PRBS or LOOP request arrives: a copy of an accepted one is ignored, a bad one is ignored and counted (R378, R385). A SPARE request
ends the recovery check of its lane, which the requester has abandoned (R386; DEDUCED, log 94). -/
def takeRequest (s : State) (port : Nat) (p : Payload) : State :=
  let r := reqOf port p
  if s.lanes.taken.contains r then s
  else
    let meets := fun (q : LaneReq) => q.lane == r.lane || q.lane == 0xFF || r.lane == 0xFF
    let given := fun (q : LaneReq) => !q.own && q.port == port && meets q && r.opcode == 1 && q.opcode == 2
    let pending := s.lanes.reqs.any fun q =>
      !q.own && q.port == port && meets q && !given q && decide (s.mer < q.start + q.ticks + 1)
    if r.start % 1024 ≠ 0 ∨ r.start < s.mer + 2048 ∨ reqBad port p = true ∨ pending ∨ (r.opcode = 3 ∧ planRuns s) then
      bump s (portNo port / 6) Reg.laneCntMgmtbad
    else
      { s with lanes := { s.lanes with
        reqs := (s.lanes.reqs.filter fun q => !given q) ++ [r], taken := s.lanes.taken ++ [r] } }

/-- The port leaves cell service for a test: TRAINING, and its lanes fall to electrical idle or carry the test's stream (R384, R385). -/
def enterTest (s : State) (code : Nat) (last : Option Nat) : State :=
  let s := setLink (idlePort s code) { Link.fresh code with state := 1, stage := 14, since := s.mer, testEnd := last }
  setStages (showNeighbour s (portNo code)) code 14

/-- What the checker of a lane found in a test: its errors, and the ticks that it checked. Through a loopback it hears the lane's own
generator, and nothing while that is off: inside the lane die by the near-end paths, of which the parallel one has no serial circuit that
could err, or by the neighbour from the request's AT to its end. Without a loopback it hears the far end. The errors of a serial path or a
channel are free values (R384, R385; DEDUCED, log 94). -/
def testResult (s : State) (code lane : Nat) : (Nat × Nat) × State :=
  let die := portNo code / 6
  let k := linkOf s code
  let loop := getFI s lane die 0 Reg.laneTest_loop
  let gen := getFI s lane die 0 Reg.laneTest_gen
  let start := ((s.lanes.reqs.find? fun r => r.own && r.port == code && r.opcode == 3).map (·.start)).getD k.since
  let last := min s.mer (k.testEnd.getD s.mer)
  if loop ≠ 0 ∧ gen = 0 then ((0, 0), s)
  else if loop = 2 then ((0, last - k.since), s)
  else
    let f := drawNat s
    ((f.1, last - (if loop = 3 then start else k.since)), f.2)

/-- The checkers of a test that ends: LANE_PRBS holds the errors and the bits checked (R385, R389). -/
def testChecked (s : State) (code : Nat) : State :=
  let die := portNo code / 6
  (logicalLanes code).foldl (fun s l =>
    let lane := physLane s code l
    if getFI s lane die 0 Reg.laneTest_chk = 1 then
      let r := testResult s code lane
      showCheck r.2 die lane r.1.1 r.1.2
    else s) s

/-- The test of a port ends: bring-up from SIGNAL, and its requests are over (R385). -/
def endTest (s : State) (code : Nat) : State :=
  let l := linkOf s code
  if l.stage = 14 then
    let s := testChecked s code
    let s := { s with lanes := { s.lanes with reqs := s.lanes.reqs.filter fun r => !(r.port == code && r.opcode == 3) } }
    startAttempt (setLink s { linkOf s code with state := 0 }) code
  else s

/-! ## The commands -/

/-- Run a port command on a port that the grade fits. -/
def onPort (s : State) (code : Nat) (t : State) : Host.Outcome State Fault Refusal :=
  if fitsPort s (portNo code) then whenRuns s .lanes (.next t) else .fault .absentUnit

/-- Run a lane command on a lane die that the grade fits. -/
def onDie (s : State) (die : Nat) (t : State) : Host.Outcome State Fault Refusal :=
  if fitsDie s die then whenRuns s .lanes (.next t) else .fault .absentUnit

/-- Loss of signal on a lane (R377). -/
def execLaneLos (die lane : Nat) (s : State) : Host.Outcome State Fault Refusal := onDie s die (laneLost s die lane true)

/-- Loss of lock on a lane (R377). -/
def execLaneLol (die lane : Nat) (s : State) : Host.Outcome State Fault Refusal := onDie s die (laneLost s die lane false)

/-- A lane recovers (R377). -/
def execLaneRelock (die lane : Nat) (s : State) : Host.Outcome State Fault Refusal := onDie s die (relock s die lane)

/-- A lane has not recovered (R377). -/
def execLaneRelockTimeout (die lane : Nat) (s : State) : Host.Outcome State Fault Refusal := onDie s die (relockLate s die lane)

/-- Code violations of a lane (R376). -/
def execLaneCode (die lane : Nat) (half : Bool) (groups : List RxGroup) (s : State) : Host.Outcome State Fault Refusal :=
  onDie s die (laneCode s die lane half groups)

/-- A lane request reaches a port (R378). -/
def execMgmtRequestReceive (port : Nat) (p : Payload) (s : State) : Host.Outcome State Fault Refusal :=
  onPort s port (if 2 ≤ portState s port then takeRequest s port p else s)

/-- AT of a spare substitution (R380). -/
def execSpareSubstitution (die lane : Nat) (ok : Bool) (s : State) : Host.Outcome State Fault Refusal :=
  onDie s die (substitute s die lane ok)

/-- AT of an accepted PRBS request: the far end of the requester sends PRBS31 on the lane (R379). -/
def execRecoveryCheckStart (port lane : Nat) (s : State) : Host.Outcome State Fault Refusal :=
  onPort s port
    (match s.lanes.reqs.find? fun r => !r.own && r.opcode == 2 && r.port == port && r.lane == lane && r.start == s.mer with
     | some r =>
       emit (prbsTx s (txKey s port lane) (s.mer + r.ticks)) (.prbs s.mer port (BitVec.ofNat 8 (2 ^ lane)) r.ticks)
     | none => s)

/-- The end of a recovery check (R379). -/
def execRecoveryCheckEnd (die lane errors : Nat) (detected : Bool) (s : State) : Host.Outcome State Fault Refusal :=
  onDie s die (recoveryEnd s die lane errors detected)

/-- A bring-up stage completes (R369). -/
def execBringupStageComplete (port : Nat) (s : State) : Host.Outcome State Fault Refusal := onPort s port (stageComplete s port)

/-- A bring-up stage fails or times out (R373). -/
def execBringupStageTimeout (port lane reason : Nat) (s : State) : Host.Outcome State Fault Refusal :=
  onPort s port
    (if (linkOf s port).state = 1 ∧ (linkOf s port).stage ≤ 8 ∧ 1 ≤ reason ∧ reason ≤ 14 then failAttempt s port lane reason else s)

/-- The electrical idle of a failed attempt ends (R373). -/
def execBringupIdleEnd (port : Nat) (s : State) : Host.Outcome State Fault Refusal := onPort s port (idleEnd s port)

/-- The PRBS sequence of a port begins (R370). -/
def execPrbsStart (port : Nat) (s : State) : Host.Outcome State Fault Refusal := onPort s port (prbsBegin s port)

/-- The PRBS sequence of a port has ended: the tick at which it reached the port, the logical lanes that detected it, and the errors of
each logical lane from the first on (R370, R371). -/
def execPrbsEnd (port heard : Nat) (detected : Byte) (errors : List Nat) (s : State) : Host.Outcome State Fault Refusal :=
  onPort s port (prbsFinish s port heard detected errors)

/-- Cell service begins (R372). -/
def execCellServiceBegin (port : Nat) (s : State) : Host.Outcome State Fault Refusal := onPort s port (beginService s port)

/-- Signal detect (R400). -/
def execSignalDetect (port : Nat) (s : State) : Host.Outcome State Fault Refusal := onPort s port (signalUp s port)

/-- AT of an accepted LOOP request: the port loops the named lanes (R385). -/
def execLoopbackStart (port lane : Nat) (s : State) : Host.Outcome State Fault Refusal :=
  onPort s port
    (match s.lanes.reqs.find? fun r => !r.own && r.opcode == 3 && r.port == port && r.lane == lane && r.start == s.mer with
     | some r =>
       emit (enterTest s port (some (s.mer + r.ticks)))
         (.loop s.mer port (if lane = 0xFF then laneMask port else BitVec.ofNat 8 (2 ^ lane)) r.ticks)
     | none => s)

/-- TICKS of a test elapse (R385). -/
def execLoopbackEnd (port : Nat) (s : State) : Host.Outcome State Fault Refusal :=
  onPort s port
    (match (linkOf s port).testEnd with
     | some t => if t ≤ s.mer then endTest s port else s
     | none => s)

/-- Lanes that a write of LANE_TEST names: the selected lane, or with ALL every lane of its port (R389). -/
def testLanes (s : State) (die lane : Nat) (all : Bool) : List Nat :=
  match carried s die lane with
  | some (code, _) => if all then (logicalLanes code).map (physLane s code) else [lane]
  | none => [lane]

/-- The generators of a test stand on the line, unless a near-end loopback holds it at electrical idle; the test's end ends them
(R384, R385). -/
def startGen (s : State) (code : Nat) (loop : Nat) (lanes : BitVec 8) (ticks : Nat) : State :=
  if loop = 0 ∨ loop = 3 then emit s (.prbs s.mer code lanes ticks) else s

/-- A write of LANE_TEST: refused while a plan runs; a test takes the port out of cell service, a far-end loopback sends a LOOP
request, and LOOP 0 without generator and checker ends the test (R385; DEDUCED, log 94). TICKS of the request are the model's free
value. -/
def laneTest (s : State) (die : Nat) (v : Word) : State :=
  if planRuns s then { s with cmdStatus := 6 }
  else
    let lane := getF s die Reg.laneSel_lane
    let set := fun (s : State) => (testLanes s die lane (v.getLsbD 4)).foldl (fun s l =>
      setFI (setFI (setFI (setFI s l die 0 Reg.laneTest_loop (bits v 0 2)) l die 0 Reg.laneTest_gen (bits v 2 1)) l die 0
        Reg.laneTest_chk (bits v 3 1)) l die 0 Reg.laneTest_all (bits v 4 1)) s
    let s := { s with cmdStatus := 0 }
    match carried s die lane with
    | none => set s
    | some (code, l) =>
      let mask := if v.getLsbD 4 then laneMask code else BitVec.ofNat 8 (2 ^ l)
      if bits v 0 4 = 0 then set (endTest s code)
      else
        let s := set (if (linkOf s code).stage = 14 then testChecked s code else s)
        let f := drawNat s
        let ticks := 1024 * (1 + f.1 % 2 ^ 20)
        let start := (s.mer + 2048 + 1023) / 1024 * 1024
        let s := enterTest f.2 code (if bits v 0 2 = 3 then some (start + ticks) else none)
        let s := if v.getLsbD 2 then startGen s code (bits v 0 2) mask (if bits v 0 2 = 3 then start + ticks - s.mer else 0) else s
        if bits v 0 2 = 3 then sendReq s ⟨code, true, 3, if v.getLsbD 4 then 0xFF else l, 0, ticks, start, 0⟩ else s

/-- A write of LANE_TEST (R385). -/
def execLaneTestWrite (die : Nat) (value : Word) (s : State) : Host.Outcome State Fault Refusal :=
  if fitsDie s die then whenServes s .lanes (.next (laneTest s die value)) else noPage s

/-- A lane on which the far end checks PRBS31 carries no frame of this end (R379). -/
def laneUnderCheck (s : State) (code l : Nat) : Bool :=
  s.lanes.reqs.any fun r => !r.own && r.opcode == 2 && r.port == code && r.lane == l && decide (r.start ≤ s.mer) && decide (s.mer < r.start + r.ticks)

/-- This end's own PRBS31 sequence stands on the lanes (R370). -/
def sendsPrbs (s : State) (code : Nat) : Bool :=
  let l := linkOf s code
  l.stage == 7 && (match l.testEnd with
    | some t => decide (s.mer < t)
    | none => false)

/-- Spare k of a die sends its own marker frames: it carries no logical lane and is not RETIRED; a FAILED one does (R366, R380). -/
def spareSends (s : State) (die k : Nat) : Bool :=
  getF s die (if k = 0 then Reg.laneSpareMap_use0 else Reg.laneSpareMap_use1) == 0 && getFI s (48 + k) die 0 Reg.laneStat_stage != 13

/-- A marker frame on every lane of the port, in bring-up as in service but for PRBS31 and tests, and with port 0 of a die on the
spares that carry no logical lane (R366, R367, R380); in bring-up training frames fill the interval (R368). -/
def markersSent (s : State) (code : Nat) : State :=
  let index := BitVec.ofNat 32 (s.mer / 1024)
  let spares := if portNo code % 6 = 0 ∧ code / 128 ≠ 3 then [0, 1].filter (spareSends s (portNo code / 6)) else []
  let s := if sendsFrames (linkOf s code) && !sendsPrbs s code then
      sendTraining (((logicalLanes code).filter fun l => !laneUnderCheck s code l).foldl (sendMarker index code) s) code
    else s
  spares.foldl (sendSpareMarker index (portNo code / 6)) s

/-- MARKER_FRAME_SEND: marker frames leave at a marker count (R366). -/
def execMarkerFrameSend (port : Nat) (s : State) : Host.Outcome State Fault Refusal :=
  onPort s port (if s.mer % 1024 = 0 then markersSent s port else s)

/-- A number of 1/64 ticks reduced modulo 2^42 ticks to the range -2^41 to 2^41 - 1 ticks (11 R411, R412). -/
def wrapTicks (a : Int) : Int :=
  let r := a.emod (2 ^ 48)
  if r < 2 ^ 47 then r else r - 2 ^ 48

/-- What a marker frame shows is kept: its index, its identity byte, when it came, and the training frames that went before. -/
def keepMarker (s : State) (key : Nat) (ident : Byte) (index : BitVec 32) (train : Option TrainFrame) (arrival64 : Nat) : State :=
  let n := s.lanes
  { s with lanes := { n with
    lastIndex := kvPut n.lastIndex key index.toNat
    rxIdent := kvPut n.rxIdent key ident
    rxAt := kvPut n.rxAt key (wrapTicks ((arrival64 : Int) - (index.toNat * 65536 : Nat)))
    rxTrain := match train with
      | some f => kvPut n.rxTrain key f
      | none => n.rxTrain } }

/-- Two successive marker frames whose indexes do not follow each other are a loss of lock (R366), on every lane whose frames are found. -/
def watchesIndex (s : State) (die lane : Nat) : Bool :=
  let stage := getFI s lane die 0 Reg.laneStat_stage
  (decide (48 ≤ lane) && carried s die lane == none) || (decide (4 ≤ stage) && decide (stage ≤ 12))

/-- A spare that took a lane lies within the DESKEW limit of logical lane 0: where logical lane 0 itself moved, of the place where it stood
(R381, R383). -/
def spareSkewOk (s : State) (x : Subst) : Bool :=
  let key := laneKey x.die (48 + x.spare)
  match x.old, kvGet s.lanes.rxAt key with
  | some b, some a => decide ((a - b).natAbs ≤ 64)
  | _, _ => skewOk s x.port key

/-- The marker frames at AT and one interval later on a spare that took a lane: each is to carry the lane's identity, its port index
being that of the port's other lanes, within the DESKEW limit (R381). -/
def spareShown (s : State) (x : Subst) (ident : Byte) : Bool :=
  let keys := (portKeys s x.port).filter (· != laneKey x.die (48 + x.spare))
  let index := ((keys.filterMap (kvGet s.lanes.rxIdent)).head?).getD ident
  ident.toNat == x.lane + index.toNat / 8 % 8 * 8 && spareSkewOk s x

/-- The substitution that a marker frame on a lane is to confirm. -/
def substOf (s : State) (die lane : Nat) (index : BitVec 32) : Option Subst :=
  s.lanes.subs.find? fun x => x.die == die && 48 + x.spare == lane &&
    (index.toNat == x.start / 1024 % 2 ^ 32 || index.toNat == (x.start / 1024 + 1) % 2 ^ 32)

/-- The substitution on a lane whose two marker frames have not both come by the time of a later one (R381). -/
def substMissed (s : State) (die lane : Nat) (index : BitVec 32) : Option Subst :=
  s.lanes.subs.find? fun x => x.die == die && 48 + x.spare == lane && decide (x.seen < 2) &&
    (let d := (index.toNat + 2 ^ 32 - x.start / 1024 % 2 ^ 32) % 2 ^ 32
     decide (2 ≤ d) && decide (d < 2 ^ 31))

/-- A marker frame has confirmed a substitution. -/
def noteShown (s : State) (x : Subst) : State :=
  { s with lanes := { s.lanes with subs := s.lanes.subs.map fun y => if y = x then { x with seen := x.seen + 1 } else y } }

/-- What the far end's training frames report (R368): a SPLIT other than this end's fails the attempt with reason SPLIT (R374); a stage of 6
or more in two successive marker intervals (R370); its fail mask, which counts as held once this end's own sequence has begun and the
frame shows a passed check or a mask that is not zero, in a repeat one other than that of the first check (R371; DEDUCED, log 94); and
READY (R372). Frames are read once ALIGN has found them; before POLARITY only those of a lane that is not inverted. -/
def takeTraining (s : State) (code lane : Nat) (f : TrainFrame) : State :=
  let l := linkOf s code
  let now := s.mer / 1024
  if l.state = 1 ∧ 3 ≤ l.stage ∧ l.stage ≤ 8 ∧ (5 ≤ l.stage ∨ f.probe = 0xB5) then
    if f.flags.getLsbD 1 != splitNow s (portNo code) then failAttempt s code lane 10
    else
      let u := l.up
      let six := decide (6 ≤ f.stage.toNat)
      let u := { u with
        sixAt := if u.sixAt.isNone && six && decide (0 < now) && u.sixLast == some (now - 1) then some s.mer else u.sixAt
        sixLast := if six then some now else none
        far := if l.stage = 7 ∧ l.testEnd.isSome = true ∧ (7 ≤ f.stage.toNat ∨ (f.mask ≠ 0 ∧ (l.redo = false ∨ u.first ≠ some f.mask)))
          then some f.mask else u.far
        readyRx := if f.flags.getLsbD 0 then (if u.readyRx.isSome then u.readyRx else some now) else none }
      resolveMasks (setLink s { l with up := u }) code
  else s

/-- A marker frame that is in sequence: an idle spare shows its skew (R380), a spare that took a lane is confirmed or loses the port (R381),
training frames are read (R368), and on logical lane 0 of a port in cell service the arrival value is measured (11 R411). -/
def readMarker (s : State) (port lane : Nat) (ident : Byte) (index : BitVec 32) (train : Option TrainFrame) (arrival64 : Nat) : State :=
  let die := portNo port / 6
  let l := linkOf s port
  if 48 ≤ lane ∧ carried s die lane = none then
    setLane (setLane (setLane s die lane Reg.laneStat_los 0) die lane Reg.laneStat_lol 0) die lane Reg.laneStat_skew
      (skewField s port (laneKey die lane))
  else
    let s := match substOf s die lane index with
      | some x => if spareShown s x ident then noteShown s x else portLost s x.port lane
      | none => s
    match train with
    | some f => takeTraining s port lane f
    | none =>
      if l.stage = 9 ∧ portState s port = l.state ∧ physLane s port ((logicalLanes port).headD 0) = lane then
        let a := wrapTicks ((arrival64 : Int) - (index.toNat * 1024 * 64 : Nat))
        let m := ((((arrival64 : Int) - a) / 64).toNat, a)
        setLink s { l with markers := l.markers ++ [m], heard := (m :: l.heard).take 64 }
      else s

/-- A marker frame on a physical lane: its index is checked against the one before it (R366, R375). -/
def takeMarker (s : State) (port lane : Nat) (ident : Byte) (index : BitVec 32) (train : Option TrainFrame) (arrival64 : Nat) : State :=
  let die := portNo port / 6
  let key := laneKey die lane
  let broken := match kvGet s.lanes.lastIndex key with
    | some i => (i + 1) % 2 ^ 32 != index.toNat
    | none => false
  let s := keepMarker s key ident index train arrival64
  match substMissed s die lane index with
  | some x => portLost s x.port lane
  | none =>
    if broken && watchesIndex s die lane then laneLost s die lane false
    else readMarker s port lane ident index train arrival64

/-- A marker frame arrives on a lane (R366 to R368; 11 R411). -/
def execMarkerFrameReceive (port lane : Nat) (marker : RxMarker) (arrival64 : Nat) (s : State) : Host.Outcome State Fault Refusal :=
  onPort s port (takeMarker s port lane marker.ident marker.index marker.train arrival64)

end Sys2Proof.Machine
end

