-- ==== Sys2Proof/Machine/Fabric.lean ====
section
/-! DEFINITION. The cells of a step on the wire: destination checks, the reorder window, acknowledgement, resend and egress (09
R313 to R345). -/

namespace Sys2Proof.Machine

/-! ## Checks at the destination (R303, R306, R329) -/

/-- The VC of a KIND (R303); none for an undefined KIND. -/
def kindVc (k : Nat) : Option Nat :=
  if 1 ≤ k ∧ k ≤ 6 then some 0 else if 8 ≤ k ∧ k ≤ 0xA then some 1 else if k = 0xC ∨ k = 0xD then some 2
  else if 0x10 ≤ k ∧ k ≤ 0x14 then some 3 else none

/-- An ACK or RESEND_REQ with a non-zero byte or bit where R342 and R343 require zero. -/
def svcPayloadBad (c : FabCell) : Bool :=
  let p := cellPayload c
  let from8 := if cellKind c = 0x10 then payNat p 8 40 else payNat p 16 32
  (cellKind c == 0x10 || cellKind c == 0x11) && (decide (payNat p 3 1 ≠ 0) || decide (2 ^ 20 ≤ payNat p 4 4) || decide (from8 ≠ 0))

/-- A malformed cell (R303, R306, R342, R343). -/
def malformed (c : FabCell) : Bool :=
  decide (kindVc (cellKind c) ≠ some (cellVc c)) ||
    (decide (0x10 ≤ cellKind c) && (cellResent c || decide (cellSeq c ≠ 0))) ||
    (decide (0xF000 ≤ cellSrc c) && !(cellKind c == 0x12 && cellSrc c == 0xFFFE)) ||
    svcPayloadBad c

/-- DST is malformed (R306, R312 rules 1 and 2). -/
def dstBad (c : FabCell) : Bool := decide (0xFF00 ≤ cellDst c) && !(cellDst c == 0xFFFE && cellVc c == 3)

/-- The checks of a destination in order, each with its count; true if the cell is kept (R329). STEP is not checked on IDENT,
TIME and MGMT cells (11 R396). -/
def destCheck (s : State) (c : FabCell) : State × Bool :=
  if !cellCrcOk c then (bump s 0 Reg.fabCntCrc, false)
  else if malformed c then (bump s 0 Reg.fabCntMalformed, false)
  else if decide (cellKind c < 0x12) && staleCell s c then (countStaleCell s c, false)
  else (s, true)

/-! ## Service cells that this device sends (R331, R333, R336, R342, R343) -/

/-- Retention, acknowledgement and resend apply: a step runs (R625). -/
def stepCells (s : State) : Bool := stepsRun s && s.pln.hold.isNone && !s.pln.starting

/-- A received flow is a group leg: each node that a group cell reaches is the destination of a leg, on the way up too (R337;
DEDUCED, log 12). -/
def groupLeg (r : RxFlow) : Bool := isGroupDst r.key.dst

/-- Where an ACK or RESEND_REQ for a received flow goes: to the flow's source, or on a group leg to the neighbour on the ingress
port (R337, R342). -/
def ackTarget (r : RxFlow) : Nat :=
  if groupLeg r then (if r.leg < 65536 then r.leg else 0xFFFF) else r.key.src

/-- The port that a service cell for a received flow leaves on. -/
def ackPort (s : State) (r : RxFlow) (c : FabCell) : Option Nat :=
  if groupLeg r then some (logicalPort s r.port)
  else (routeFor s (cellDst c) 3).bind fun t => routePort s t (cellFlow c) (cellSeq c)

/-- Bytes 0 to 7 of an ACK or RESEND_REQ payload: VC, DST and NEXT or FIRST. -/
def ackHead (r : RxFlow) (next : Nat) : List Byte := leBytes 1 r.key.vc ++ leBytes 2 r.key.dst ++ [0] ++ leBytes 4 (next % 2 ^ 20)

/-- A service cell about a received flow. -/
def svcCell (s : State) (kind : Nat) (r : RxFlow) (pay : List Byte) : FabCell :=
  mkCell kind false 3 (ackTarget r) (nodeId s) r.key.flow 0 (txStep s) 0 (payOf pay)

/-- Queue it on its port; without a route it is dropped and counted. -/
def queueSvc (s : State) (r : RxFlow) (c : FabCell) : State :=
  match ackPort s r c with
  | some p => pushSvc s p c s.mer
  | none => bump s 0 Reg.fabCntNoroute

/-- An ACK carrying NEXT (R331, R342). -/
def sendAck (s : State) (r : RxFlow) : State := queueSvc s r (svcCell s 0x10 r (ackHead r r.next))

/-- MASK of a RESEND_REQ: every SEQ above FIRST up to the highest held that the window does not hold (R333, R343). -/
def rreqMask (r : RxFlow) : Nat :=
  let held := r.window.map (·.seq)
  let top := held.max?.getD r.next
  ((List.range 64).filter fun j => decide (r.next + 1 + j ≤ top) && !held.contains (r.next + 1 + j)).foldl (fun m j => m + 2 ^ j) 0

/-- A RESEND_REQ for NEXT (R333, R354). -/
def sendRreq (s : State) (r : RxFlow) : State :=
  let c := svcCell s 0x11 r (ackHead r r.next ++ leBytes 8 (rreqMask r))
  let s := setReg s 0 0x0A00 0x108 (BitVec.ofNat 64
    (r.key.src % 65536 + r.key.flow % 4096 * 2 ^ 16 + r.key.vc % 4 * 2 ^ 28 + 2 ^ 30 + r.next % 2 ^ 20 * 2 ^ 32))
  let s := match ackPort s r c with
    | some p => bump s (portNo p) Reg.fabCntRreqTx
    | none => s
  queueSvc s r c

/-! ## The reorder window (R330) -/

/-- The leg that a port belongs to: the neighbour that it faces, or the port itself where none is known (R337, R338). -/
def legOf (s : State) (port : Nat) : Nat := ((linkOf s port).ident.map (·.node)).getD (65536 + port)

/-- A received flow, whose last cell came on a port. -/
def rxFlow (s : State) (k : FlowKey) (leg port : Nat) : RxFlow :=
  match s.fab.rx.find? fun r => r.key == k && r.leg == leg with
  | some r => { r with port := port }
  | none => ⟨k, leg, port, 0, [], 0, s.mer, none, none⟩

/-- Set a received flow. -/
def setRx (s : State) (r : RxFlow) : State :=
  { s with fab := { s.fab with rx := (s.fab.rx.filter fun q => !(q.key == r.key && q.leg == r.leg)) ++ [r] } }

/-- A member's cell of the step that this device only sends on counts for its arrival (04 R158). -/
def notePassing (s : State) (c : FabCell) (tick : Nat) : State :=
  if stepCells s && decide (cellVc c < 2) && !staleCell s c then noteArrival s (cellSrc c) tick else s

/-- A cell on its way to a local consumer holds its buffer until the consumer has it, 24 ticks after its K27.7 (14 R482; 01 R35; DEDUCED,
log 107). -/
def takeLocal (s : State) (c : FabCell) (tick port buf : Nat) : State :=
  let s := if s.mer < tick + 24 then { s with fab := { s.fab with home := s.fab.home ++ [(buf, tick + 24)] } } else s
  consume s c tick port

/-- The consumers have the cells whose way has ended (14 R483). -/
def landHome (s : State) : State :=
  if s.fab.home.all fun x => decide (s.mer < x.2) then s
  else poolNote (poolFreed s { s with fab := { s.fab with home := s.fab.home.filter fun x => decide (s.mer < x.2) } })

/-- What a destination does with a cell in order: a group leg copies it on and may offer it locally, every other cell goes to
its consumer (R325, R337). `ingress` is the ingress port of a group leg. -/
def deliverCell (s : State) (c : FabCell) (tick port buf : Nat) : State :=
  if isGroupDst (cellDst c) then
    match groupFor s (cellDst c - 0xF000) with
    | none => bump s 0 Reg.fabCntNoroute
    | some g =>
      let r := fanOut s g (facesUp s (logicalPort s port)) c (tick + 32) buf
      if r.2 then takeLocal r.1 c tick port buf else notePassing r.1 c tick
  else takeLocal s c tick port buf

/-- One cell of a flow in order: NEXT advances, the cell is delivered, and every sixteenth is acknowledged (R330, R331). -/
def deliverNext (s : State) (r : RxFlow) (c : FabCell) (tick port buf : Nat) : State × RxFlow :=
  let r := { r with next := r.next + 1, sinceAck := r.sinceAck + 1, above := r.above.filter fun x => decide (r.next + 1 < x.1) }
  let s := deliverCell s c tick port buf
  if r.sinceAck = 16 then (sendAck s r, { r with sinceAck := 0 }) else (s, r)

/-- Cells of the window that follow in order. -/
def drainWindow : Nat → State → RxFlow → Nat → State × RxFlow
  | 0, s, r, _ => (s, r)
  | n + 1, s, r, port =>
    match r.window.find? fun w => w.seq == r.next with
    | none => (s, r)
    | some w =>
      let d := deliverNext s { r with window := r.window.filter fun x => x.seq != w.seq } w.cell w.tick port w.buf
      drainWindow n d.1 d.2 port

/-- A cell of a flow that would reach its consumer, 24 ticks after its K27.7, at or after the boundary: it counts as queued, and the
flush discards it (R317; 01 R35; DEDUCED, log 38). -/
def flushedOnWay (s : State) (c : FabCell) : Bool :=
  cellKind c != 5 && cellKind c != 6 && stepCells s && !s.pln.idleExec && decide (stepEnd s ≤ s.mer + 24)

/-- A checked cell of a step at the destination of its flow (R330). A member's cell that comes after its deadline and so near the boundary that
the flush would meet it on its way is discarded as late (04 R157). -/
def reorder (s : State) (c : FabCell) (tick port buf : Nat) : State :=
  let group := isGroupDst (cellDst c)
  let r := rxFlow s (cellKey c) (if group then legOf s port else 0) (if group then port else 0)
  let q := cellSeq c
  if q < r.next ∨ r.window.any (·.seq == q) then bump s 0 Reg.fabCntDup
  else if r.next + 64 < q then
    bump (setRx s { r with above := some (max q ((r.above.map (·.1)).getD 0), (r.above.map (·.2)).getD tick) }) 0 Reg.fabCntWindow
  else if flushedOnWay s c && ((cellVc c == 0 && lateMember s (cellSrc c) (cellFlow c) (cellKind c)) ||
      (cellVc c == 1 && lateRequest s (cellSrc c) (cellFlow c))) then countLate s (cellSrc c)
  else
    let r := { r with lastNew := tick }
    if q = r.next && !flushedOnWay s c then
      let d := deliverNext s r c tick port buf
      let d := drainWindow 64 d.1 d.2 port
      poolNote (poolFreed s (setRx d.1 d.2))
    else poolNote (setRx s { r with window := r.window ++ [⟨q, c, tick, buf⟩] })

/-! ## Acknowledgement and resend requests -/

/-- 64 ticks without a new cell while delivered cells are not acknowledged (R331). -/
def ackIdle (s : State) (k : FlowKey) : State :=
  (s.fab.rx.filter (·.key == k)).foldl (fun s r =>
    if stepCells s && decide (0 < r.sinceAck) && decide (r.lastNew + 64 ≤ s.mer) then sendAck (setRx s { r with sinceAck := 0 }) r
    else s) s

/-- ACK_WAIT of the plan that runs (R625). -/
def ackWait (s : State) : Nat :=
  match s.pln.active with
  | some p => p.routes.ackWait
  | none => 0

/-- NEXT has been missing for 16 ticks since a higher SEQ arrived, and no request for it was sent within ACK_WAIT (R333). A cell that
the boundary's flush will discard on its way is not missing. -/
def rreqDue (s : State) (r : RxFlow) : Bool :=
  stepCells s && !(r.window.any (·.seq == r.next)) &&
    (match (r.window.map (·.tick) ++ (r.above.map (·.2)).toList).min? with
     | some t => decide (t + 16 ≤ s.mer)
     | none => false) &&
    (match r.lastReq with
     | some (n, t) => decide (n ≠ r.next) || decide (t + ackWait s ≤ s.mer)
     | none => true)

/-- The destination asks for the missing cells of a flow (R333). -/
def rreqTimeout (s : State) (k : FlowKey) : State :=
  (s.fab.rx.filter (·.key == k)).foldl (fun s r =>
    if rreqDue s r then sendRreq (setRx s { r with lastReq := some (r.next, s.mer) }) r else s) s

/-- The retained cells of a port that a service cell names: of this device's unicast flows those with its VC, DST and FLOW, and
of a group flow those on the leg that it came from (R337, R342). -/
def namedFlow (s : State) (port : Nat) (c : FabCell) (code : Nat) (k : FlowKey) : Bool :=
  k.vc == payNat (cellPayload c) 0 1 && k.dst == payNat (cellPayload c) 1 2 && k.flow == cellFlow c &&
    (if isGroupDst k.dst then legOf s (physicalPort s code) == legOf s port else k.src == nodeId s)

/-- An ACK frees every retained cell of the flow below NEXT (R332). -/
def ackTake (s : State) (port : Nat) (c : FabCell) : State :=
  let next := payNat (cellPayload c) 4 4
  let eg := s.fab.egress.map fun e =>
    { e with ret := e.ret.filter fun x => !(namedFlow s port c e.code x.key && decide (x.seq < next)) }
  let t := { s with fab := { s.fab with egress := eg } }
  poolNote (poolFreed s t)

/-- A copy of a cell already waits in a resend queue. -/
def copyWaits (e : Egress) (x : RetCell) : Bool :=
  e.resend.any fun q => cellKey q.cell == x.key && cellSeq q.cell == x.seq

/-- SEQs that a RESEND_REQ names (R343). -/
def rreqSeqs (c : FabCell) : List Nat :=
  let first := payNat (cellPayload c) 4 4
  let mask := payNat (cellPayload c) 8 8
  first :: ((List.range 64).filter fun j => mask.testBit j).map fun j => first + 1 + j

/-- Answer for one SEQ on one port: a copy of the retained cell unless one waits; a cell that was sent and not retained reports
cause RESEND (R334, R335). -/
def answerSeq (port : Nat) (c : FabCell) (code : Nat) (s : State) (q : Nat) : State :=
  let e := egressOf s code
  match e.ret.find? fun x => namedFlow s port c code x.key && x.seq == q with
  | some x => if copyWaits e x then s else pushResend s code (resentCopy x.cell) s.mer x.buf
  | none => if e.unret.any fun u => namedFlow s port c code u.1 && u.2 == q then report s 3 else s

/-- A RESEND_REQ: the outcome store answers for flow 0xFFF, the retention for every other (R334, R345). -/
def rreqTake (s : State) (port : Nat) (c : FabCell) : State :=
  let s := bump s (portNo port) Reg.fabCntRreqRx
  if cellFlow c = 0xFFF then
    match kvGet s.fab.outStore (cellSrc c) with
    | some o =>
      let r := poolTake s ownRequester
      routeUnicast r.1 none (cellSrc c) (resentCopy o) s.mer r.2
    | none => s
  else
    s.fab.egress.foldl (fun s e => (rreqSeqs c).foldl (answerSeq port c e.code) s) s

/-- Retained cells of a flow on the ports that carry it, each with its port, oldest SEQ first: a spread flow has several ports, and a
group flow those of one leg (R324, R337). -/
def retained (s : State) (code : Nat) (k : FlowKey) : List (Nat × RetCell) :=
  ((s.fab.egress.filter fun e =>
      !isGroupDst k.dst || legOf s (physicalPort s e.code) == legOf s (physicalPort s code)).flatMap fun e =>
    (e.ret.filter fun x => x.key == k).map fun x => (e.code, x)).mergeSort fun a b => decide (a.2.seq ≤ b.2.seq)

/-- The oldest retained cell of a flow was last sent ACK_WAIT ticks ago or before, and no copy of it waits: copies of up to 8 of the
oldest join the resend queues of their ports (R334; DEDUCED, log 56). -/
def ackWaitTimeout (s : State) (code : Nat) (k : FlowKey) : State :=
  let l := retained s code k
  match l with
  | [] => s
  | x :: _ =>
    if stepCells s && decide (x.2.sentAt + ackWait s ≤ s.mer) && !copyWaits (egressOf s x.1) x.2 then
      (l.take 8).foldl (fun s y => pushResend s y.1 (resentCopy y.2.cell) s.mer y.2.buf) s
    else s

/-! ## CELL_EGRESS (R313) -/

/-- A marker tick of a port: offset 0 of each 1024, and on a half-port the tick after it (02 R69 code MARKER). -/
def markerTick (s : State) (code : Nat) : Bool := s.mer % 1024 == 0 || (isHalf code && s.mer % 1024 == 1)

/-- This device is the source of the flow, or of a group leg that it feeds (R332, R337). -/
def sourceOf (s : State) (c : FabCell) : Bool := cellSrc c == nodeId s || isGroupDst (cellDst c)

/-- Keep a cell that left in the retention of its egress; a full retention keeps nothing (R332), nor
does the cell pool at level 2 or above (14 R486). -/
def retain (s : State) (code : Nat) (e : Egress) (q : QCell) : Egress :=
  if stepCells s && cellKind q.cell != 4 && sourceOf s q.cell &&
      !(e.ret.any fun x => x.key == cellKey q.cell && x.seq == cellSeq q.cell) then
    if e.ret.length < capOf code 2048 ∧ getF s 0 Reg.bufLevel_levelC < 2 then { e with ret := e.ret ++ [⟨cellKey q.cell, cellSeq q.cell, q.cell, s.mer, q.buf⟩] }
    else { e with unret := e.unret ++ [(cellKey q.cell, cellSeq q.cell)] }
  else e

/-- A first copy leaves: it stands on the wire and, at its source, in the retention of its egress (R332). -/
def leaveFirst (s : State) (code : Nat) (q : QCell) : State :=
  let b := leavingBuf s q
  let s := b.1
  let e := egressOf s code
  let f := retain s code e { q with buf := b.2 }
  let s := if decide (e.unret.length < f.unret.length) && decide (2 ≤ getF s 0 Reg.bufLevel_levelC) then
      bump s 0 Reg.cellBufCntNoretain
    else s
  setEgress (wire s code q.cell) f

/-- Take a cell out of one of the first-copy queues. -/
def takeFirst (e : Egress) (vc : Nat) (c : QCell) : Egress :=
  if vc = 0 then { e with plan := e.plan.erase c } else if vc = 1 then { e with req := e.req.erase c } else { e with rsp := e.rsp.erase c }

/-- The oldest queued first copy that a run matches (R313). -/
def matchFirst (s : State) (e : Egress) (r : Run) : Option QCell :=
  let l := if r.vc = 0 then e.plan else if r.vc = 1 then e.req else e.rsp
  l.find? fun q => cellFlow q.cell == r.flow && cellDst q.cell == r.peer && decide (q.readyAt ≤ s.mer) &&
    !crossing s (laneLink e.code) q.cell

/-- USE of the first copies of a virtual channel (R308). -/
def useOfVc (vc : Nat) : Nat := if vc = 0 then 1 else if vc = 1 then 3 else 4

/-- A Mover with a cell for a run whose queue holds none: the cell passes straight into the slot (07 R244). -/
def moverCell (s : State) (code : Nat) (r : Run) : Option (Job × TxCell × List TxCell) :=
  if r.use = 1 then
    s.eng.jobs.findSome? fun j =>
      match j.cells with
      | t :: ts =>
        if j.unit % 16 = 4 && !j.busErr && t.flow == r.flow && t.dst == r.peer &&
            ((routeFor s t.dst 0).bind fun x => routePort s x t.flow (nextSeq s ⟨nodeId s, t.dst, 0, t.flow⟩)) == some code &&
            !crossing s (laneLink code) (mkCell t.kind false 0 t.dst (nodeId s) t.flow 0 0 t.ofs t.payload)
        then some (j, t, ts) else none
      | [] => none
  else none

/-- The head of the resend queue leaves in a RESEND tick (R313, R334). -/
def leaveResend (s : State) (code : Nat) : State :=
  let e := egressOf s code
  match e.resend with
  | q :: qs =>
    if q.readyAt ≤ s.mer && !crossing s (laneLink code) q.cell then
      let ret := e.ret.map fun x => if x.key = cellKey q.cell ∧ x.seq = cellSeq q.cell then { x with sentAt := s.mer } else x
      let e := { e with resend := qs, ret := ret }
      bump (wire (setEgress s (if isGroupDst (cellDst q.cell) then retain s code e q else e)) code q.cell)
        (portNo (physicalPort s code)) Reg.fabCntResent
    else s
  | [] => s

/-- A STEP_INFO request, which takes only a tick that no run uses (11 R406). -/
def isInfo (c : FabCell) : Bool := cellKind c == 0x14 && payNat (cellPayload c) 0 1 == 0x10

/-- The head of the service queue, less the cells to skip, leaves (R313, R336); a port that is not IN_SERVICE sends only cells to its neighbour
(11 R401). -/
def leaveSvc (s : State) (code : Nat) (skip : FabCell → Bool) : State :=
  let e := egressOf s code
  let open4 := portState s (physicalPort s code) == 4
  match (e.svc.find? fun q => !skip q.cell && (open4 || cellDst q.cell == 0xFFFE)).filter fun q =>
      decide (q.readyAt ≤ s.mer) && !crossing s (laneLink code) q.cell with
  | some q => feedMsg 64 (nextCopy (wire (poolFreed s (setEgress s { e with svc := e.svc.erase q })) code q.cell) code q.cell) code
  | none => s

/-- After a RESEND tick that sent no copy: copies that outnumber the RESEND ticks left before D report cause RESEND (R335). -/
def resendShort (s : State) (code : Nat) : State :=
  if stepsRun s && decide (s.mer < stepD s) && decide (ticksLeft s code 2 (stepD s - stepBase s) < (egressOf s code).resend.length)
  then report s 3 else s

/-- A planned tick of a port (R313). -/
def leavePlanned (s : State) (code : Nat) (r : Run) : State :=
  let serves := portState s (physicalPort s code) == 4
  if r.use = 2 then
    let t := if serves then leaveResend s code else s
    if (egressOf t code).resend.length < (egressOf s code).resend.length then t else resendShort t code
  else if r.use = 5 then leaveSvc s code isInfo
  else if serves && r.use == useOfVc r.vc && (r.use == 1 || r.use == 3 || r.use == 4) then
    let e := egressOf s code
    match matchFirst s e r with
    | some q => leaveFirst (setEgress s (takeFirst e r.vc q)) code q
    | none =>
      match moverCell s code r with
      | some (j, t, ts) =>
        let k : FlowKey := ⟨nodeId s, t.dst, 0, t.flow⟩
        let c := mkCell t.kind false 0 t.dst (nodeId s) t.flow (nextSeq s k) (txStep s) t.ofs t.payload
        leaveFirst (putJob (countSeq s k) { j with cells := ts }) code ⟨c, s.mer, noBuf⟩
      | none => s
  else s

/-- A tick that no table rules: cells of the start barrier and of holds leave at or after their send time, then an answer of the outcome
store, else a service cell (R625, R626, 11 R396). -/
def leaveFree (s : State) (code : Nat) : State :=
  let e := egressOf s code
  let serves := portState s (physicalPort s code) == 4
  match (if serves then e.plan.find? fun q => decide (q.readyAt ≤ s.mer) && decide (4 ≤ cellKind q.cell) else none) with
  | some q => leaveFirst (setEgress s (takeFirst e 0 q)) code q
  | none =>
    if serves && (e.resend.head?.map fun q => cellKind q.cell) == some 4 then leaveResend s code else leaveSvc s code fun _ => false

/-- A tick that no run uses: a STEP_INFO request that waits leaves (11 R406). -/
def leaveInfo (s : State) (code : Nat) : State :=
  let e := egressOf s code
  match e.svc.find? fun q => isInfo q.cell with
  | some q => wire (setEgress s { e with svc := e.svc.erase q }) code q.cell
  | none => s

/-- A port under test sends its own LOOP request until the loop begins (10 R385). -/
def sendsLoopRequest (s : State) (code : Nat) : Bool :=
  (linkOf s code).stage == 14 && s.lanes.reqs.any fun r => r.own && r.opcode == 3 && r.port == code && decide (s.mer < r.start)

/-- A tick of an egress: at most one cell leaves (R313, R314). A half-port sends on even counts. -/
def portEgress (s : State) (code : Nat) : State :=
  let p := physicalPort s code
  if markerTick s code || (isHalf code && decide (s.mer % 2 = 1)) || (decide (portState s p < 2) && !sendsLoopRequest s p) then s
  else
    let t :=
      if stepCells s && !s.pln.idleExec then
        match runNow s (2 ^ 28 + code) with
        | some r => if r.use = 0 then leaveInfo s code else leavePlanned s code r
        | none => leaveInfo s code
      else leaveFree s code
    poolNote (poolFreed s t)

/-! ## The commands -/

/-- A flow whose delivered cells wait for an ACK (R331). -/
def execAckIdleTimeout (k : FlowKey) (s : State) : Host.Outcome State Fault Refusal :=
  whenRuns s .lanes (.next (ackIdle s k))

/-- A flow whose next cell is missing (R333). -/
def execResendReqTimeout (k : FlowKey) (s : State) : Host.Outcome State Fault Refusal :=
  whenRuns s .lanes (.next (rreqTimeout s k))

/-- A service cell of a KIND reaches its destination on an open port; a port in cell service that is not open discards and counts it (11
R401). -/
def svcTake (s : State) (port : Nat) (c : FabCell) (kind : Nat) (f : State → Nat → FabCell → State) : State :=
  if portState s port < 2 then s
  else if portState s port ≠ 4 then bump s 0 Reg.fabCntNomatch
  else
    let r := destCheck s c
    if r.2 && cellKind c == kind then f r.1 port c else r.1

/-- An ACK arrives (R332). -/
def execAckReceive (port : Nat) (c : FabCell) (s : State) : Host.Outcome State Fault Refusal :=
  whenRuns s .lanes (if fitsPort s (portNo port) then .next (svcTake s port c 0x10 ackTake) else .fault .absentUnit)

/-- A RESEND_REQ arrives (R334). -/
def execResendReqReceive (port : Nat) (c : FabCell) (s : State) : Host.Outcome State Fault Refusal :=
  whenRuns s .lanes (if fitsPort s (portNo port) then .next (svcTake s port c 0x11 rreqTake) else .fault .absentUnit)

/-- The oldest retained cell of a flow waits for its ACK (R334). -/
def execAckWaitTimeout (port : Nat) (k : FlowKey) (s : State) : Host.Outcome State Fault Refusal :=
  whenRuns s .lanes (if fitsPort s (portNo port) then .next (ackWaitTimeout s port k) else .fault .absentUnit)

/-- A run of a die link matches a cell in its unit position (R313). -/
def crossMatches (r : Run) (t : Transit) : Bool :=
  t.use == r.use && (r.use == 2 || r.use == 5 || (cellVc t.cell == r.vc && cellFlow t.cell == r.flow && cellDst t.cell == r.peer))

/-- The slack of a crossing, which the monitor measures for the unit position (R41, R84). The crossing ends within its fixed latency (01
R33), so that its slack is at least 1 and else a free value (log 77). ADDR of its SLACK_LOW, which the catalogue takes from a record,
shows B of the step: a unit position has no record (DESIGN CHOICE, log 77). -/
def judgeCrossing (s : State) (resource : Nat) : State :=
  let d := drawNat s
  judgeSlack d.2 0x0A00 (resource % 1024) (resource % 1024) (stepBase s) (1 + d.1 % 255)

/-- A tick of a unit position of a die link: the oldest cell that its run matches crosses. A sink's bytes have come to their memory die then
(R326). In a STAGE position of an HD link a piece of host staging crosses (01 R37). -/
def linkEgress (s : State) (resource : Nat) : State :=
  match runNow s resource with
  | none => s
  | some r =>
    if r.use = 9 then (if s.host.moves.any fun m => m.hd == s.mer && m.die == resource % 32 - 20 then judgeCrossing s resource else s)
    else
      match s.fab.transit.find? fun t => t.dir == resource / 2 ^ 28 && t.link == resource % 32 && crossMatches r t with
      | none => s
      | some t =>
        let s := judgeCrossing { s with fab := { s.fab with transit := s.fab.transit.erase t } } resource
        match t.sink with
        | some g => sinkBytes s g.1 (max t.reach s.mer) g.2 (payBytes (cellPayload t.cell))
        | none => s

/-- A late crossing: the cell never leaves the crossbar (01 R40; 02 R84). Which cell of the link it is the message does not say: the model
takes the oldest (DESIGN CHOICE, log 77). -/
def lateCrossing (s : State) (link : Nat) : State :=
  match s.fab.transit.find? fun t => t.link == link % 32 with
  | none => s
  | some t =>
    let keep := fun (l : List QCell) => l.filter fun q => !(t.dir == 4 && sameCell t.cell q.cell)
    { s with
      fab := { s.fab with
        transit := s.fab.transit.erase t
        egress := s.fab.egress.map fun e =>
          if laneLink e.code = t.link then { e with plan := keep e.plan, req := keep e.req, rsp := keep e.rsp } else e }
      eng := { s.eng with arrivals := s.eng.arrivals.filter fun a =>
        !(cellSrc t.cell == a.src && cellFlow t.cell == a.flow && cellKind t.cell == a.kind && cellOfs t.cell == a.ofs &&
          cellPayload t.cell == a.payload) } }

/-- One tick of an egress port, or of a unit position of a die link (R313). -/
def execCellEgress (resource : Nat) (s : State) : Host.Outcome State Fault Refusal :=
  whenRuns s .lanes (
    if resource / 2 ^ 28 = 1 then
      if fitsPort s (portNo (resource % 512)) then .next (portEgress s (resource % 512)) else .fault .absentUnit
    else .next (linkEgress s resource))

end Sys2Proof.Machine
end

