-- ==== Sys2Proof/Machine/PlanImage.lean ====
section
/-! DEFINITION. A plan image as bytes and the plan that it holds (02 R47 to R65, 03 R118, 04 R130 to R148, 05 R179, 06 R222, 07
R238, 09 R321 to R326). -/

namespace Sys2Proof.Machine

/-- A section of the directory (R50), with its index. -/
structure Sec where
  index : Nat
  type : Nat
  ver : Nat
  count : Nat
  ofs : Nat
  len : Nat
  deriving DecidableEq, Repr

/-- Bytes of an image. -/
def slice (img : List Byte) (ofs n : Nat) : List Byte := (img.drop ofs).take n

/-- The section directory. -/
def secDir (img : List Byte) : List Sec :=
  let dir := natAt img 0x14 4
  (List.range (natAt img 0x12 2)).map fun i =>
    let o := dir + 24 * i
    ⟨i, natAt img o 2, natAt img (o + 2) 2, natAt img (o + 4) 4, natAt img (o + 8) 8, natAt img (o + 16) 8⟩

/-- A section by its type. -/
def secOf (img : List Byte) (type : Nat) : Option Sec := (secDir img).find? (·.type == type)

/-- The bytes of a section; empty where it is absent. -/
def secBytes (img : List Byte) (type : Nat) : List Byte :=
  match secOf img type with
  | some x => slice img x.ofs x.len
  | none => []

/-- COUNT of a section. -/
def secCount (img : List Byte) (type : Nat) : Nat := ((secOf img type).map (·.count)).getD 0

/-- Index of a section in the directory, 0xFFFF where it is absent. -/
def secIndex (img : List Byte) (type : Nat) : Nat := ((secOf img type).map (·.index)).getD 0xFFFF

/-- Records of a fixed size. -/
def recsOf (size count : Nat) (l : List Byte) : List (List Byte) := (List.range count).map fun i => slice l (size * i) size

/-- A digest in a record. -/
def digestAt (l : List Byte) (ofs : Nat) : Digest := BitVec.ofNat 384 (natAt l ofs 48)

/-- A MANIFEST record (R52). -/
def manRec (l : List Byte) : ManRec := ⟨natAt l 0 2, natAt l 2 1, digestAt l 8⟩

/-- A STEPS record (R54). -/
def stepRec (l : List Byte) : StepRec :=
  let f := natAt l 4 4
  ⟨natAt l 0 4, f % 4, f / 4 % 16, f.testBit 6, f.testBit 7, natAt l 8 8, natAt l 0x10 8, natAt l 0x18 8, natAt l 0x20 4,
    natAt l 0x24 4, natAt l 0x28 4⟩

/-- A slot run (R58). -/
def runRec (l : List Byte) : Run :=
  let w := natAt l 4 4
  ⟨natAt l 0 4, w % 65536 + 1, w / 65536 % 16, w / 2 ^ 20 % 4, natAt l 8 2 % 4096, natAt l 10 2, natAt l 12 4⟩

/-- Slot tables one after another, each a header and its runs (R56). -/
def tableRecs : Nat → List Byte → List (SlotTable × List Byte)
  | 0, _ => []
  | n + 1, l =>
    let runs := natAt l 8 4
    let size := 32 + 16 * runs
    (⟨natAt l 0 4, natAt l 4 4, natAt l 12 1, natAt l 13 1, natAt l 16 4, (recsOf 16 runs (l.drop 32)).map runRec⟩, l.take size) ::
      tableRecs n (l.drop size)

/-- A route record (R322). -/
def routeRec (l : List Byte) : Route :=
  ⟨natAt l 0 2, natAt l 2 1, natAt l 3 1 == 1, natAt l 4 2, (natAt l 6 1).testBit 0, natAt l 7 1⟩

/-- A spread record (R324). -/
def spreadRec (l : List Byte) : Spread := ⟨natAt l 0 2, (List.range (min 8 (natAt l 2 1))).map fun k => natAt l (8 + 2 * k) 2⟩

/-- A group record (R325). -/
def groupRec (l : List Byte) : Group :=
  ⟨natAt l 0 2, natAt l 2 2, natAt l 4 1, (natAt l 5 1).testBit 0, BitVec.ofNat 192 (natAt l 16 24)⟩

/-- A sink record (R326). -/
def sinkRec (l : List Byte) : Sink := ⟨natAt l 0 2, natAt l 2 2, natAt l 4 4, natAt l 8 8, natAt l 16 4⟩

/-- Raw records of the ROUTES section: routes, spreads, groups, sinks (R321). -/
structure RouteRaw where
  routes : List (List Byte)
  spreads : List (List Byte)
  groups : List (List Byte)
  sinks : List (List Byte)
  deriving DecidableEq, Repr

/-- The records of the ROUTES section. -/
def routeRaw (l : List Byte) : RouteRaw :=
  let r := natAt l 0 4
  let p := natAt l 4 4
  let g := natAt l 8 4
  ⟨recsOf 16 r (l.drop 64), recsOf 24 p (l.drop (64 + 16 * r)), recsOf 40 g (l.drop (64 + 16 * r + 24 * p)),
    recsOf 32 (natAt l 12 4) (l.drop (64 + 16 * r + 24 * p + 40 * g))⟩

/-- The ROUTES section (R321). -/
def routesOf (l : List Byte) : Routes :=
  let w := routeRaw l
  ⟨natAt l 16 4, natAt l 20 1, BitVec.ofNat 192 (natAt l 32 24), w.routes.map routeRec, w.spreads.map spreadRec,
    w.groups.map groupRec, w.sinks.map sinkRec⟩

/-- A REGIONS record (R64). -/
def regionRec (l : List Byte) : Region := ⟨natAt l 0 4, natAt l 4 1, natAt l 5 1, natAt l 6 2, natAt l 8 8, natAt l 16 8⟩

/-- A tree descriptor with its node records (R131, R132). -/
def treeRec (sec : List Byte) (i : Nat) : Tree :=
  let n := natAt sec 0 2
  let d := sec.drop (32 + 16 * i)
  let nodes := (recsOf 8 (natAt d 10 4) (sec.drop (32 + 16 * n + 8 * natAt d 6 4))).map fun l =>
    (⟨natAt l 0 2, natAt l 2 2, natAt l 4 1⟩ : TreeNode)
  ⟨natAt d 0 2, natAt d 2 2, natAt d 4 1, nodes⟩

/-- An OCD (R118). -/
def ocdRec (l : List Byte) : Ocd :=
  ⟨natAt l 0 1, natAt l 1 1, natAt l 2 1, (natAt l 3 1).testBit 0, BitVec.ofNat 32 (natAt l 4 4), BitVec.ofNat 32 (natAt l 8 4),
    BitVec.ofNat 32 (natAt l 12 4), BitVec.ofNat 32 (natAt l 16 4)⟩

/-- Body of a reduction record (R137). -/
def redBody (l : List Byte) : RedRec :=
  ⟨natAt l 0x10 2, natAt l 0x12 1, natAt l 0x13 1, natAt l 0x14 4, natAt l 0x18 2, natAt l 0x1A 2, natAt l 0x1C 2,
    natAt l 0x20 4, natAt l 0x24 4, natAt l 0x28 8, ocdRec (l.drop 0x30)⟩

/-- Body of a barrier record (R148). -/
def barBody (l : List Byte) : BarRec :=
  ⟨natAt l 0x10 2, (List.range (min 8 (natAt l 0x12 1))).map fun j => natAt l (0x18 + j) 1, natAt l 0x14 2, natAt l 0x16 2,
    natAt l 0x20 4, natAt l 0x28 8⟩

/-- Body of a pool record (R179). -/
def poolBody (l : List Byte) : PoolRec where
  tableRegion := natAt l 0x10 4
  rowLen := natAt l 0x14 2
  elemFmt := natAt l 0x16 1
  weightMode := natAt l 0x17 1
  tableOfs := natAt l 0x18 8
  rowStride := natAt l 0x20 4
  rows := natAt l 0x24 4
  fabricIdx := natAt l 0x28 1 == 1
  skip := (natAt l 0x29 1).testBit 0
  emptyCfg := (natAt l 0x29 1).testBit 1
  partitioned := (natAt l 0x29 1).testBit 2
  inFlow := natAt l 0x2A 2
  inSrc := natAt l 0x2C 2
  maxBags := natAt l 0x2E 2
  maxIndices := natAt l 0x30 4
  idxRegion := natAt l 0x34 4
  idxOfs := natAt l 0x38 8
  fabricDest := natAt l 0x40 1 == 1
  outFlow := natAt l 0x42 2
  destNode := natAt l 0x44 2
  destRegion := natAt l 0x48 4
  outStride := natAt l 0x4C 4
  destOfs := natAt l 0x50 8
  ocd := ocdRec (l.drop 0x58)
  empty := BitVec.ofNat 32 (natAt l 0x70 4)

/-- A flow entry of a home record (R222). -/
def homeFlow (l : List Byte) : HomeFlow := ⟨natAt l 0 2, natAt l 2 2, natAt l 4 2, natAt l 6 2, natAt l 8 2, natAt l 10 2⟩

/-- Body of a home record (R222). -/
def homeBody (l : List Byte) : HomeRec :=
  ⟨natAt l 0x14 4, (List.range (min 16 (natAt l 0x12 1))).map fun k => natAt l (0x20 + 4 * k) 4,
    (recsOf 16 (natAt l 0x10 2) (l.drop 0x60)).map homeFlow⟩

/-- Body of a Mover record (R238). -/
def movBody (l : List Byte) : MovRec where
  fill := natAt l 0x10 1 == 2
  digest := (natAt l 0x11 1).testBit 0
  fabricSrc := natAt l 0x12 1 == 1
  fabricDst := natAt l 0x13 1 == 1
  srcRegion := natAt l 0x14 4
  srcOfs := natAt l 0x18 8
  dstRegion := natAt l 0x20 4
  inFlow := natAt l 0x24 2
  inSrc := natAt l 0x26 2
  dstOfs := natAt l 0x28 8
  len := natAt l 0x30 8
  outFlow := natAt l 0x38 2
  destNode := natAt l 0x3A 2

/-- Work records of a section as bytes, each by its LEN (R62). -/
def workRaw : Nat → List Byte → List (List Byte)
  | 0, _ => []
  | n + 1, l => l.take (natAt l 2 2) :: workRaw n (l.drop (natAt l 2 2))

/-- RESOURCE bits [11:0] of a work record's unit (R57, R62, R148, R222). -/
def workUnit (l : List Byte) : Nat :=
  let k := natAt l 0 1
  let u := natAt l 4 1
  if k = 3 then 0xF0
  else if k = 1 ∧ u / 16 = 15 then 5 + 16 * 15 + 256 * (u % 16)
  else k + 16 * (u / 16) + 256 * (u % 16)

/-- A work record. -/
def workRec (l : List Byte) : WorkRec :=
  let k := natAt l 0 1
  let body :=
    if k = 1 then (if natAt l 4 1 / 16 = 15 then Work.bar (barBody l) else .red (redBody l))
    else if k = 2 then .pool (poolBody l) else if k = 3 then .home (homeBody l) else .mov (movBody l)
  ⟨workUnit l, natAt l 8 4, natAt l 12 4, body⟩

/-- Raw work records of the four work sections, each with the type of its section and its index there. -/
def workSecs (img : List Byte) : List (Nat × Nat × List Byte) :=
  [7, 8, 9, 0xA].flatMap fun t => (workRaw (secCount img t) (secBytes img t)).zipIdx.map fun r => (t, r.2, r.1)

/-- A loss entry (R346). -/
def lossRec (l : List Byte) : Loss := ⟨natAt l 0 2, natAt l 2 1, natAt l 4 4⟩

/-- ALTERNATES records as bytes (R621). -/
def altRaw : Nat → List Byte → List (List Byte)
  | 0, _ => []
  | n + 1, l =>
    let size := 16 + 8 * natAt l 2 2 + 8 * natAt l 4 1
    l.take size :: altRaw n (l.drop size)

/-- An ALTERNATES record (R621). -/
def altRec (l : List Byte) : AltSet :=
  let n := natAt l 2 2
  ⟨natAt l 0 1, (recsOf 8 n (l.drop 16)).map lossRec,
    (recsOf 8 (natAt l 4 1) (l.drop (16 + 8 * n))).map fun m => ⟨natAt m 0 1, natAt m 1 1, natAt m 2 1⟩⟩

/-- SHA-384 over the header and every section but MANIFEST in directory order (R45). -/
def imageDigest (img : List Byte) : Digest :=
  sha384 (img.take 512 ++ ((secDir img).filter (·.type != 1)).flatMap fun x => slice img x.ofs x.len)

/-- The signature trailer (R53). -/
def trailer (img : List Byte) : List Byte := img.drop (img.length - 128)

/-- The plan of an image. -/
def planOf (img : List Byte) : Plan where
  planDigest := sha384 (secBytes img 1)
  imageDigest := imageDigest img
  treeDigest := digestAt img 0x90
  fwDigest := digestAt img 0x60
  planId := BitVec.ofNat 128 (natAt img 0x20 16)
  serial := natAt img 0x30 8
  node := natAt img 0x18 2
  devices := natAt img 0x1A 2
  endpoints := natAt img 0x1C 2
  slackMargin := natAt img 0x3C 1
  strict := (natAt img 0x3D 1).testBit 0
  loopFirst := natAt img 0x40 4
  loopLast := natAt img 0x44 4
  loopCount := natAt img 0x48 8
  numericMode := BitVec.ofNat 64 (natAt img 0x50 8)
  keyId := BitVec.ofNat 128 (natAt (trailer img) 0 16)
  manifest := (recsOf 64 (secCount img 1) (secBytes img 1)).map manRec
  steps := (recsOf 64 (secCount img 2) (secBytes img 2)).map stepRec
  tables := (tableRecs (secCount img 3) (secBytes img 3)).map (·.1)
  routes := routesOf (secBytes img 4)
  regions := (recsOf 32 (secCount img 5) (secBytes img 5)).map regionRec
  cableMax := natAt (secBytes img 6) 2 2
  trees := (List.range (natAt (secBytes img 6) 0 2)).map (treeRec (secBytes img 6))
  work := (workSecs img).map fun w => workRec w.2.2
  alts := (altRaw (secCount img 0xB) (secBytes img 0xB)).map altRec

end Sys2Proof.Machine
end

