-- ==== Sys2Proof/Machine/LoadForm.lean ====
section
/-! DEFINITION. The plan loader's first checks: length, signature, format and limits, identity (02 R66 to R69). -/

namespace Sys2Proof.Machine

/-- A refusal: code, section index and record index (R69, R94). -/
abbrev Refuse := Option (Nat × Nat × Nat)

/-- A refusal unless a condition holds. -/
def need (ok : Bool) (code sec record : Nat) : Refuse := if ok then none else some (code, sec, record)

/-- The first refusal of a list. -/
def firstOf (l : List Refuse) : Refuse := l.findSome? id

/-- The first refusal over the records of a section. -/
def eachRec {α : Type} (l : List α) (code sec : Nat) (ok : α → Bool) : Refuse :=
  firstOf (l.zipIdx.map fun x => need (ok x.1) code sec x.2)

/-- The first refusal over the records of a section, each checked with its index; `base` is the index of the first. -/
def eachIdx {α : Type} (l : List α) (code sec base : Nat) (ok : Nat → α → Bool) : Refuse :=
  firstOf (l.zipIdx.map fun x => need (ok x.2 x.1) code sec (base + x.2))

/-- The first record whose key does not rise above the one before it. -/
def risesFrom {α : Type} (l : List α) (code sec base : Nat) (key : α → Nat) : Refuse :=
  firstOf ((l.zip (l.drop 1)).zipIdx.map fun x => need (decide (key x.1.1 < key x.1.2)) code sec (base + x.2 + 1))

/-- Every byte of a range is zero. -/
def zeros (l : List Byte) (ofs n : Nat) : Bool := (slice l ofs n).all (· == 0)

/-- 2^24. -/
def limit24 : Nat := 16777216

/-! ## Length and signature (R68) -/

/-- The position of a refusal that no section causes: section 0xFFFF, record 0. The manual says so of the length check and of
UNREADABLE; of the signature, the header, the directory and the identity fields of the header it names no position (DESIGN CHOICE,
log 74). -/
def noSection : Nat := 0xFFFF

/-- OFFSET and LEN admit an image: the part of the length check that reads nothing (R68). -/
def lengthOk (s : State) (ofs len : Nat) : Bool :=
  ofs % 8 == 0 && decide (640 ≤ len) && decide (len ≤ 512 * 1048576) && decide (ofs + len ≤ capacity s)

/-- The length check: code FORMAT at section 0xFFFF, record 0. -/
def checkLength (s : State) (ofs len : Nat) (img : List Byte) : Refuse :=
  need (lengthOk s ofs len && natAt img 8 8 == len) 2 0xFFFF 0

/-- The KEY_ID of a public key (16 R525). -/
def keyIdOf (pub : List Byte) : BitVec 128 := (sha384 pub).truncate 128

/-- An enrolled key of a role with a KEY_ID (16 R530). -/
def enrolledKey (s : State) (role : Nat) (id : BitVec 128) : Option KeyEntry :=
  match s.owner with
  | some o => o.keys.find? fun k => k.role == role && keyIdOf k.pub == id
  | none => none

/-- A trailer in the form of R53 verifies over a digest with a public key. -/
def trailerOk (pub : List Byte) (digest : Digest) (t : List Byte) : Bool :=
  ecdsaVerify (beNat ((pub.drop 1).take 48)) (beNat (pub.drop 49)) (beNat (digestBytes digest)) (natAt t 16 48) (natAt t 64 48)

/-- The signature of an image: an UNOWNED device has no plan key and refuses every plan (16 R534, R540). The position is that of
`noSection` (DESIGN CHOICE, log 74). -/
def checkSignature (s : State) (img : List Byte) : Refuse :=
  let t := trailer img
  match enrolledKey s 2 (BitVec.ofNat 128 (natAt t 0 16)) with
  | some k => need (trailerOk k.pub (sha384 (img.take (img.length - 128))) t) 1 noSection 0
  | none => some (1, noSection, 0)

/-! ## Format and limits (R47 to R66) -/

/-- Two ranges do not meet. -/
def apart (a b : Nat × Nat) : Bool := decide (a.1 + a.2 ≤ b.1) || decide (b.1 + b.2 ≤ a.1) || a.2 == 0 || b.2 == 0

/-- Every two ranges of a list are apart. -/
def allApart : List (Nat × Nat) → Bool
  | [] => true
  | a :: l => l.all (apart a) && allApart l

/-- Header fields (R48, R49). -/
def headerOk (img : List Byte) : Bool :=
  natAt img 0 4 == 0x4C505455 && natAt img 4 2 == 1 && natAt img 6 2 == 0x200 &&
    decide (1 ≤ natAt img 0x12 2) && decide (natAt img 0x12 2 ≤ 64) &&
    decide (1 ≤ natAt img 0x1A 2) && decide (natAt img 0x1A 2 ≤ 256) && decide (natAt img 0x1C 2 ≤ 4096) && zeros img 0x1E 2 &&
    decide (1 ≤ natAt img 0x38 4) && decide (natAt img 0x38 4 ≤ limit24) &&
    decide (2 ≤ natAt img 0x3C 1) && decide (natAt img 0x3D 1 ≤ 1) && zeros img 0x3E 2 &&
    decide (natAt img 0x48 8 ≤ 2 ^ 63) && natAt img 0x50 1 / 4 == 0 && natAt img 0x51 1 == 1 && zeros img 0x52 6 &&
    zeros img 0x58 8 && zeros img 0xC0 320 && zeros (trailer img) 112 16

/-- The directory and the sections: the directory after the header, every section after the directory on an 8-byte bound and before
the trailer, apart from those before it, each known type at most once, the required ones present (R47, R50, R51). An entry that fails
names its section; a directory outside the image and an absent section name none (R94; DESIGN CHOICE, log 74). -/
def checkDir (img : List Byte) : Refuse :=
  let d := secDir img
  let dir := (natAt img 0x14 4, 24 * natAt img 0x12 2)
  firstOf [need (decide (512 ≤ dir.1) && decide (dir.1 + dir.2 + 128 ≤ img.length)) 2 noSection 0,
    firstOf (d.map fun x => need (x.ver == 1 && x.ofs % 8 == 0 && decide (dir.1 + dir.2 ≤ x.ofs) && decide (x.ofs + x.len + 128 ≤ img.length) &&
      decide (1 ≤ x.type) && decide (x.type ≤ 0xB) &&
      (d.take x.index).all fun y => apart (y.ofs, y.len) (x.ofs, x.len) && y.type != x.type) 2 x.index 0),
    need ([1, 2, 3, 4, 5, 6].all fun t => (secOf img t).isSome) 2 noSection 0]

/-- Lengths of the sections with their counts. SLOT_TABLES may have COUNT 0, and COUNT of ROUTES and TREE, whose records are of several
kinds, is not compared with them (DESIGN CHOICE, log 75). -/
def sectionsOk (img : List Byte) : Refuse :=
  let len (t : Nat) := (secBytes img t).length
  let tabs := tableRecs (secCount img 3) (secBytes img 3)
  let routes := secBytes img 4
  let tree := secBytes img 6
  firstOf [
    need (len 1 == 64 * secCount img 1 && decide (secCount img 1 ≤ 4352)) 2 (secIndex img 1) 0,
    need (len 2 == 64 * secCount img 2 && secCount img 2 == natAt img 0x38 4) 2 (secIndex img 2) 0,
    need (decide (secCount img 3 ≤ 65536) && decide ((tabs.map fun t => 32 + 16 * t.1.runs.length).sum = len 3) &&
      decide ((tabs.map (·.1.runs.length)).sum ≤ limit24)) 2 (secIndex img 3) 0,
    need (len 4 == 64 + 16 * natAt routes 0 4 + 24 * natAt routes 4 4 + 40 * natAt routes 8 4 + 32 * natAt routes 12 4)
      2 (secIndex img 4) 0,
    need (len 5 == 32 * secCount img 5 && decide (secCount img 5 ≤ 4096)) 2 (secIndex img 5) 0,
    need (len 6 == 32 + 16 * natAt tree 0 2 + 8 * natAt tree 4 4 && decide (1 ≤ natAt tree 0 2) && decide (natAt tree 0 2 ≤ 256) &&
      decide (1 ≤ natAt tree 2 2) && decide (natAt tree 2 2 ≤ 1023) && zeros tree 8 24) 2 (secIndex img 6) 0,
    firstOf ([7, 8, 9, 0xA].map fun t =>
      let recs := workRaw (secCount img t) (secBytes img t)
      firstOf [eachRec recs 2 (secIndex img t) fun r => decide (16 ≤ r.length) && r.length % 8 == 0 && r.length == natAt r 2 2,
        need (decide ((recs.map (·.length)).sum = len t)) 2 (secIndex img t) 0]),
    need (decide (((altRaw (secCount img 0xB) (secBytes img 0xB)).map (·.length)).sum = len 0xB)) 2 (secIndex img 0xB) 0]

/-- Resource codes and the uses that each admits (R57, R59). -/
def resourceOk (r : Nat) : Bool :=
  let k := r / 2 ^ 28
  let b := r % 2 ^ 28
  if k = 1 ∨ k = 2 then decide (b < 512) && decide (b % 128 < 96) && b / 128 != 1
  else if k = 3 ∨ k = 4 then decide (b < 1024) && decide (b % 32 < 24)
  else if k = 5 then decide (b < 1024) && decide (b / 32 < 20)
  else if k = 6 then decide (b < 4096) && wfUnit b
  else false

/-- A USE code is valid on a resource (R59). -/
def useOk (r use : Nat) : Bool :=
  let k := r / 2 ^ 28
  let link := r % 32
  match use with
  | 0 => true
  | 1 | 3 | 4 | 5 => decide (1 ≤ k) && decide (k ≤ 4)
  | 2 => k == 1 || k == 3 || k == 4
  | 6 | 7 | 8 | 10 => k == 5
  | 9 => k == 5 || ((k == 3 || k == 4) && (link == 20 || link == 21))
  | 11 | 12 => k == 6
  | _ => false

/-- A slot table's header, runs and reserved bits (R56 to R60). A table that breaks R60 draws FORMAT, for which R69 names no code
(DESIGN CHOICE, log 76). -/
def tableFormOk (t : SlotTable × List Byte) : Bool :=
  let half := decide (t.1.resource / 2 ^ 28 ≤ 2) && isHalf (t.1.resource % 512)
  let sd := (t.1.resource / 2 ^ 28 == 3 || t.1.resource / 2 ^ 28 == 4) && decide (22 ≤ t.1.resource % 32)
  resourceOk t.1.resource && decide (t.1.cycle ∈ [1024, 2048, 4096, 8192, 16384, 32768, 65536, 131072, 262144, 524288, 1048576]) &&
    decide (t.1.runs.length ≤ 1048576) && decide (t.1.bands < 8) && zeros t.2 14 2 && zeros t.2 20 12 &&
    (t.1.runs.all fun r => useOk t.1.resource r.use &&
      (!half || (r.start % 2 == 0 && r.len % 2 == 0)) &&
      (!sd || (t.1.resource % 1024 / 32 == 0 && r.start % 4 == 0 && r.len == 1))) &&
    ((recsOf 16 t.1.runs.length (t.2.drop 32)).all fun l => natAt l 4 4 / 2 ^ 22 == 0 && natAt l 8 2 / 4096 == 0)

/-- Reserved bytes of a tree descriptor and of its node records (R47, R131, R132). -/
def treeFormOk (sec : List Byte) (i : Nat) : Bool :=
  let d := sec.drop (32 + 16 * i)
  zeros d 5 1 && zeros d 14 2 &&
    (recsOf 8 (natAt d 10 4) (sec.drop (32 + 16 * natAt sec 0 2 + 8 * natAt d 6 4))).all fun l => zeros l 5 3

/-- Reserved bytes of a work record whose own chapter names no code for them: the common header, and the body of a reduction or
barrier record (R47, R62, R137, R148). The chapters of the other kinds draw RECORD for theirs. -/
def workFormOk (sec : Nat) (l : List Byte) : Bool :=
  zeros l 5 3 &&
    (sec != 7 || (if natAt l 4 1 / 16 = 15 then zeros l 0x13 1 && zeros l 0x24 4 else zeros l 0x1E 2 && zeros l 0x48 8))

/-- Work records of a unit and a step. -/
def workOn (work : List (Nat × Nat × List Byte)) (l : List Byte) : Nat :=
  (work.filter fun v => workUnit v.2.2 == workUnit l && natAt v.2.2 8 4 == natAt l 8 4).length

/-- Reserved bytes and limits of the records of fixed form. -/
def recordsFormOk (img : List Byte) : Refuse :=
  let work := workSecs img
  firstOf [
    eachRec (recsOf 64 (secCount img 1) (secBytes img 1)) 2 (secIndex img 1) fun l => zeros l 3 5 && zeros l 56 8,
    eachRec (recsOf 64 (secCount img 2) (secBytes img 2)) 2 (secIndex img 2) fun l => zeros l 5 3 && zeros l 0x2C 20,
    eachRec (tableRecs (secCount img 3) (secBytes img 3)) 2 (secIndex img 3) tableFormOk,
    eachRec (recsOf 32 (secCount img 5) (secBytes img 5)) 2 (secIndex img 5) fun l => zeros l 24 8,
    firstOf ((List.range (natAt (secBytes img 6) 0 2)).map fun i => need (treeFormOk (secBytes img 6) i) 2 (secIndex img 6) i),
    firstOf (work.zipIdx.map fun w =>
      need (workFormOk w.1.1 w.1.2.2 && decide (w.2 < limit24) && decide (workOn work w.1.2.2 ≤ 4096)) 2 (secIndex img w.1.1) w.1.2.1),
    need (decide (secCount img 0xB ≤ 255)) 2 (secIndex img 0xB) 255]

/-- The format, the limits and TREE_DIGEST (R46, R69 code FORMAT). -/
def checkFormat (img : List Byte) : Refuse :=
  firstOf [need (headerOk img) 2 noSection 0, checkDir img, sectionsOk img, recordsFormOk img,
    need (digestAt img 0x90 == sha384 (secBytes img 6)) 2 (secIndex img 6) 0]

/-! ## Identity (R69 codes GRADE to SERIAL) -/

/-- A node ID of a T4896 or an endpoint (06 R202). -/
def nodeOk (n : Nat) : Bool := decide (1 ≤ n) && decide (n ≤ 0xEFFF)

/-- The manifest meets R52, assigns node IDs of R202 only and names this device with this image; `sec` is its section index. A node ID of
the header that is not this device's names no section; a record that is missing and counts that differ are of the section as a whole,
record 0. -/
def checkManifest (s : State) (sec : Nat) (p : Plan) : Refuse :=
  firstOf [need (p.node == nodeId s) 6 noSection 0,
    eachRec p.manifest 6 sec fun m => nodeOk m.node && (m.kind == 1 || m.kind == 2),
    risesFrom p.manifest 6 sec 0 (·.node),
    need ((p.manifest.filter (·.kind == 1)).length == p.devices && (p.manifest.filter (·.kind == 2)).length == p.endpoints) 6 sec 0,
    need (p.manifest.any fun m => m.node == p.node && m.kind == 1) 6 sec 0,
    eachRec p.manifest 6 sec fun m => m.node != p.node || m.digest == p.imageDigest]

/-- A firmware slot. -/
def fwSlot (s : State) (slot : Nat) : Option FwSlot := if slot = 0 then s.fw.slotA else s.fw.slotB

/-- The slot that does not run (20 R612). -/
def otherSlot (s : State) : Nat := 1 - getF s 0 Reg.secState_bootSlot

/-- The firmware digest that a plan must name: the running build's, or in a load begun under PENDING that of the pending slot
(20 R613). -/
def planFw (s : State) (pending : Bool) : Digest :=
  if pending then ((fwSlot s (otherSlot s)).map (·.digest)).getD 0 else getDigest s 0 Reg.secFwdig_digest

/-- The identity checks in ascending code order. Those of the header stand at `noSection` (DESIGN CHOICE, log 74). -/
def checkIdentity (s : State) (sec : Nat) (p : Plan) (grade stepping : Nat) (pending : Bool) : Refuse :=
  firstOf [need (grade == s.mfg.grade) 3 noSection 0, need (stepping == s.mfg.stepping) 4 noSection 0,
    need (p.fwDigest == planFw s pending) 5 noSection 0, checkManifest s sec p,
    need (decide (((s.owner.map (·.minSerial)).getD 0) ≤ p.serial)) 7 noSection 0]

end Sys2Proof.Machine
end

