-- ==== Sys2Proof/Machine/Identity.lean ====
section
/-! DEFINITION. The device's keys: HKDF-SHA-384 from the identity seed, the identity and attestation keys, signatures, and the
manufacturing record in its bytes (16 R522 to R527). HMAC, HKDF and ECDSA are those of the public standards; the manual states neither
a salt nor the byte order of v (PRESUMED, log 92: no salt, v most significant byte first). -/

namespace Sys2Proof.Machine

/-- HMAC-SHA-384: blocks of 128 bytes. -/
def hmac384 (key msg : List Byte) : List Byte :=
  let k := if 128 < key.length then digestBytes (sha384 key) else key
  let k := k ++ List.replicate (128 - k.length) 0
  digestBytes (sha384 (k.map (· ^^^ 0x5C) ++ digestBytes (sha384 (k.map (· ^^^ 0x36) ++ msg))))

/-- HKDF-SHA-384 with 48 bytes of output: extract without a salt, and one block of expand. -/
def hkdf384 (ikm info : List Byte) : List Byte := hmac384 (hmac384 (List.replicate 48 0) ikm) (info ++ [1])

/-- A private scalar: (v mod (n - 1)) + 1 (R523). -/
def keyScalar (seed : BitVec 384) (info : List Byte) : Nat := beNat (hkdf384 (digestBytes seed) info) % (n384 - 1) + 1

/-- The affine coordinates of k times the base point. -/
def basePointTimes (k : Nat) : Nat × Nat :=
  let q := jacMul 384 k ⟨gx384, gy384, 1⟩
  let zi := invMod p384 q.z
  (q.x * (zi * zi % p384) % p384, q.y * (zi * zi % p384 * zi % p384) % p384)

/-- The public key of a scalar in SEC1 uncompressed form (R525). -/
def publicKey (k : Nat) : List Byte :=
  let p := basePointTimes k
  4 :: (beBytes 48 p.1 ++ beBytes 48 p.2)

/-- An ECDSA signature (r, s) over a digest with a scalar and a nonce. -/
def ecdsaSign (key digest nonce : Nat) : Nat × Nat :=
  let k := nonce % (n384 - 1) + 1
  let r := (basePointTimes k).1 % n384
  (r, invMod n384 k * (digest + r * key) % n384)

/-! ## IK and AK -/

/-- The identity key's scalar: info "UTIK", the same for the whole life of the device (R523). -/
def ikScalar (m : Mfg) : Nat := keyScalar m.seed [0x55, 0x54, 0x49, 0x4B]

/-- The public key that the seed gives is IK_PUB of the record (R522). -/
def seedMatches (m : Mfg) : Bool := publicKey (ikScalar m) == m.ikPub

/-- FW_DIGEST of the running firmware: zero in Dusk, where none runs (18 R580). -/
def runningFw (s : State) : Digest := if s.pwr.phase == .dusk then 0 else getDigest s 0 Reg.secFwdig_digest

/-- The attestation key's scalar: info "UTAK" and the running FW_DIGEST (R523). -/
def akScalar (s : State) : Nat := keyScalar s.mfg.seed ([0x55, 0x54, 0x41, 0x4B] ++ digestBytes (runningFw s))

/-- AK signs bytes: SIG_R and SIG_S over their SHA-384, as R53 lays them out. The nonce of the signature is a free value (log 11). -/
def akSign (s : State) (msg : List Byte) : List Byte × State :=
  let d := drawBits s
  let sig := ecdsaSign (akScalar s) (beNat (digestBytes (sha384 msg))) d.1.toNat
  (leBytes 48 sig.1 ++ leBytes 48 sig.2, d.2)

/-! ## Certificate chains (R524, R545; 11 R398)

X.509 in DER and the fields read here are those of the public standards (PRESUMED, log 109). -/

/-- The length of a DER element and the bytes after it, in its shortest form and below 2^16. -/
def derLen : List Byte → Option (Nat × List Byte)
  | [] => none
  | b :: l =>
    let n := beNat (l.take (b.toNat - 128))
    if b.toNat < 128 then some (b.toNat, l)
    else if b.toNat = 129 ∧ 128 ≤ n then some (n, l.drop 1)
    else if b.toNat = 130 ∧ 256 ≤ n then some (n, l.drop 2)
    else none

/-- A DER element: its tag, its contents, and the whole of it. -/
structure Der where
  tag : Nat
  body : List Byte
  whole : List Byte
  deriving DecidableEq, Repr

/-- The first element of some bytes, and the bytes after it. -/
def derItem : List Byte → Option (Der × List Byte)
  | [] => none
  | t :: l =>
    (derLen l).bind fun x =>
      if x.1 ≤ x.2.length then
        let n := 1 + (l.length - x.2.length) + x.1
        some (⟨t.toNat, x.2.take x.1, (t :: l).take n⟩, x.2.drop x.1)
      else none

/-- The elements that some bytes are, at most `n` of them. -/
def derItems : Nat → List Byte → Option (List Der)
  | _, [] => some []
  | 0, _ :: _ => none
  | n + 1, b :: l => (derItem (b :: l)).bind fun x => (derItems n x.2).map fun r => x.1 :: r

/-- What the device reads of a certificate: the bytes that its issuer signs, its public key in SEC1 form, notAfter, and the signature. -/
structure Cert where
  signed : List Byte
  key : List Byte
  notAfter : List Byte
  r : Nat
  s : Nat
  deriving DecidableEq, Repr

/-- notAfter and the public key of a TBSCertificate: its version, serial number, algorithm, issuer, validity, subject and key stand first. -/
def tbsFields (l : List Byte) : Option (List Byte × List Byte) :=
  (derItems 16 l).bind fun items =>
    match items.dropWhile fun d => d.tag == 0xA0 with
    | serial :: alg :: issuer :: validity :: subject :: key :: _ =>
      if serial.tag = 2 ∧ [alg, issuer, validity, subject, key].all (·.tag == 0x30) = true then
        match derItems 2 validity.body, derItems 2 key.body with
        | some [_, until'], some [_, point] =>
          if point.tag = 3 ∧ point.body.length = 98 ∧ point.body.take 2 = [0, 4] then some (until'.body, point.body.drop 1) else none
        | _, _ => none
      else none
    | _ => none

/-- A certificate. -/
def certOf (d : Der) : Option Cert :=
  match (if d.tag = 0x30 then derItems 3 d.body else none) with
  | some [tbs, alg, sig] =>
    match tbsFields tbs.body, derItem (sig.body.drop 1) with
    | some f, some (rs, []) =>
      match derItems 2 rs.body with
      | some [r, s] =>
        if tbs.tag = 0x30 ∧ alg.tag = 0x30 ∧ sig.tag = 3 ∧ sig.body.take 1 = [0] ∧ rs.tag = 0x30 ∧ r.tag = 2 ∧ s.tag = 2 then
          some ⟨tbs.whole, f.2, f.1, beNat r.body, beNat s.body⟩
        else none
      | _ => none
    | _, _ => none
  | _ => none

/-- The certificates of a CHAIN, the one that the anchor signed first and the leaf last. -/
def chainCerts (l : List Byte) : Option (List Cert) := (derItems 64 l).bind fun items => items.mapM certOf

/-- A public key in SEC1 form verifies a signature over the SHA-384 of some bytes (R525). -/
def keyVerifies (key msg : List Byte) (r s : Nat) : Bool :=
  key.length == 97 && key.head? == some 4 &&
    ecdsaVerify (beNat (slice key 1 48)) (beNat (key.drop 49)) (beNat (digestBytes (sha384 msg))) r s

/-- The leaf's public key where an anchor signed the first certificate and every later one verifies with the key before it. -/
def leafFrom : List Byte → List Cert → Option (List Byte)
  | key, [] => some key
  | key, c :: l => if keyVerifies key c.signed c.r c.s then leafFrom c.key l else none

/-- notAfter of every certificate of a T4896's chain, 99991231235959Z (R524). -/
def farDate : List Byte := [0x39, 0x39, 0x39, 0x39, 0x31, 0x32, 0x33, 0x31, 0x32, 0x33, 0x35, 0x39, 0x35, 0x39, 0x5A]

/-- The leaf's public key of a neighbour's CHAIN that verifies up to the anchor of its KIND: the Utenal root with the three certificates of
R524, or an ENDPOINT key of the owner record (R524, R545). -/
def chainLeaf (s : State) (kind : Nat) (chain : List Byte) : Option (List Byte) :=
  match chainCerts chain with
  | none => none
  | some [] => none
  | some (c :: l) =>
    if kind = 1 then
      if l.length = 2 ∧ (c :: l).all (·.notAfter == farDate) = true then leafFrom Config.utenalRoot (c :: l) else none
    else if kind = 2 then
      (((s.owner.map (·.keys)).getD []).filter (·.role == 5)).findSome? fun k => leafFrom k.pub (c :: l)
    else none

/-! ## The device's own chain (R524) -/

/-- A DER element below 2^16 bytes in its shortest form. -/
def derWrap (tag : Byte) (body : List Byte) : List Byte :=
  let n := body.length
  tag :: ((if n < 128 then [BitVec.ofNat 8 n] else if n < 256 then [0x81, BitVec.ofNat 8 n] else 0x82 :: beBytes 2 n) ++ body)

/-- A positive INTEGER in DER. -/
def derNumber (n : Nat) : List Byte :=
  let l := (beBytes 48 n).dropWhile (· == 0)
  derWrap 2 (match l with
    | [] => [0]
    | b :: _ => if b.toNat < 128 then l else 0 :: l)

/-- The algorithm ecdsa-with-SHA384. -/
def sigAlgorithm : List Byte := derWrap 0x30 (derWrap 6 [0x2A, 0x86, 0x48, 0xCE, 0x3D, 4, 3, 3])

/-- A P-384 public key as a certificate holds it. -/
def keyInfo (key : List Byte) : List Byte :=
  derWrap 0x30 (derWrap 0x30 (derWrap 6 [0x2A, 0x86, 0x48, 0xCE, 0x3D, 2, 1] ++ derWrap 6 [0x2B, 0x81, 4, 0, 0x22]) ++ derWrap 3 (0 :: key))

/-- What IK signs of the AK certificate: AK's public key, notAfter 99991231235959Z, and FW_DIGEST as an OCTET STRING in an extension (R524). -/
def akSigned (s : State) : List Byte :=
  let free := fun (k n : Nat) => (List.range n).map fun i => Config.certByte (k + i)
  let validity := derWrap 0x30 (derWrap 0x18 (free 0 15) ++ derWrap 0x18 farDate)
  let digest := derWrap 4 (derWrap 4 (digestBytes (runningFw s)))
  derWrap 0x30 (derWrap 0xA0 [2, 1, 2] ++ derWrap 2 (1 :: free 16 8) ++ sigAlgorithm ++ derWrap 0x30 (free 32 32) ++ validity ++
    derWrap 0x30 (free 64 32) ++ keyInfo (publicKey (akScalar s)) ++ derWrap 0xA3 (derWrap 0x30 (derWrap 0x30 (derWrap 6 (free 96 8) ++ digest))))

/-- The AK certificate, which IK issues at every start. -/
def akCert (s : State) : List Byte :=
  let tbs := akSigned s
  let sig := ecdsaSign (ikScalar s.mfg) (beNat (digestBytes (sha384 tbs))) (Config.certNonce s.pwr.began)
  derWrap 0x30 (tbs ++ sigAlgorithm ++ derWrap 3 (0 :: derWrap 0x30 (derNumber sig.1 ++ derNumber sig.2)))

/-- The attestation chain that the device presents: the device CA certificate, the IK certificate and the AK certificate, at most 3072 bytes.
What the manual leaves open of them is free (R524; log 109). -/
def chainBytes (s : State) : List Byte := Config.caCert.take 1024 ++ (Config.ikCert s.mfg.ikPub).take 1024 ++ akCert s

/-! ## The manufacturing record (R527) -/

/-- The 384 bytes of a record by its fields. -/
def mfgLayout (m : Mfg) : List Byte :=
  leBytes 4 0x52445455 ++ leBytes 2 1 ++ leBytes 1 m.grade ++ leBytes 1 m.stepping ++ leBytes 16 m.serial.toNat ++
    leBytes 8 m.dumap.toNat ++ m.ikPub ++ leBytes 15 0 ++ digestBytes m.helperDigest ++ digestBytes m.transferDigest ++ leBytes 16 0 ++
    m.trailer

/-- A record is what R525 and R527 say: the stored bytes are its fields', the identity is the digest of IK_PUB, and IK_PUB comes from the
seed. -/
def mfgSound (m : Mfg) : Bool :=
  m.recordBytes == mfgLayout m && m.recordBytes.length == 384 && decide (m.identity = sha384 m.ikPub) && seedMatches m

end Sys2Proof.Machine
end

