-- ==== Sys2Proof/Machine/LoadSlots.lean ====
section
/-! DEFINITION. The plan loader's structural checks of slot tables, engines and steps: codes ABSENT to BAND (02 R69; 01 R30,
R42; 04 R144, R153, R155, R626; 06 R223, R224; 07 R246, R247; 11 R408; 14 R487). -/

namespace Sys2Proof.Machine

/-- Every step, band and alternate set of a plan. -/
def planCtxs (p : Plan) : List (StepRec × Nat × Nat) :=
  p.steps.flatMap fun t => [0, 1, 2].flatMap fun b => (0 :: p.alts.map (·.set)).map fun a => (t, b, a)

/-- Runs of a table over a step of a length: absolute start and length, cut at the step's end. -/
def expandRuns (t : SlotTable) (len : Nat) (pick : Run → Bool) : List (Nat × Nat) :=
  let one := (t.runs.filter pick).map fun r => (r.start, r.len)
  (List.range (ceilDiv len (max t.cycle 1))).flatMap fun k =>
    (one.map fun r => (r.1 + k * t.cycle, min r.2 (len - (r.1 + k * t.cycle)))).filter fun r => decide (r.1 < len)

/-- Ticks of runs. -/
def tickSum (l : List (Nat × Nat)) : Nat := (l.map (·.2)).sum

/-- Runs of a resource in a context. -/
def ctxRuns (p : Plan) (c : StepRec × Nat × Nat) (resource : Nat) (pick : Run → Bool) : List (Nat × Nat) :=
  match p.table resource c.1.tableSet c.2.1 c.2.2 with
  | some t => expandRuns t (c.1.len c.2.1) pick
  | none => []

/-- W of a context as an offset. -/
def ctxW (c : StepRec × Nat × Nat) : Nat := c.1.len c.2.1 - c.1.outwin

/-- The unit of a record under an alternate set's map (R65). -/
def unitUnder (p : Plan) (alt u : Nat) : Nat :=
  let kind := u % 16
  if kind = 3 ∨ kind = 4 then
    let die := u / 16 % 16
    let target := ((p.alts.find? (·.set == alt)).bind fun a => a.maps.find? fun m => m.kind == kind && m.src == die).map (·.dst)
    kind + 16 * (target.getD die) + 256 * (u / 256)
  else u

/-- Units that run a record in a context. -/
def ctxUnits (p : Plan) (alt : Nat) (w : WorkRec) : List Nat :=
  match w.body with
  | .home h => (homeNeeds p h).map (unitUnder p alt)
  | _ => [unitUnder p alt w.unit]

/-! ## ABSENT (R6, R27, R28) -/

/-- A port code exists on the grade, as the whole or the half that SPLIT in LANE_CFG makes of the port (10 R374). -/
def portFits (s : State) (code : Nat) : Bool := fitsPort s (portNo code) && isHalf code == splitCfg s (portNo code)

/-- A resource exists on the grade. -/
def resourceFits (s : State) (r : Nat) : Bool :=
  let k := r / 2 ^ 28
  if k = 1 ∨ k = 2 then portFits s (r % 512)
  else if k = 3 ∨ k = 4 then decide (16 ≤ r % 32) || fitsDie s (r % 32)
  else if k = 5 then fitsStack s (r % 1024 / 32)
  else true

/-- A unit can serve work: its logical position has an active unit, its Mover or home agent has not failed (06 R230; 17 R560). A block reset
passes and refuses no plan. -/
def unitServes (s : State) (u : Nat) : Bool := unitRuns { s with pwr := { s.pwr with blocks := [] } } u

/-- UNIT names a place of its kind. Where it does not, the record is refused with code RECORD and no engine is judged for it
(04 R137, R148, 05 R179; DEDUCED, log 13). -/
def unitLegal (u : Nat) : Bool :=
  let kind := u % 16
  let die := u / 16 % 16
  if kind = 1 ∨ kind = 2 then decide (die < 4) && decide (u / 256 < 2) else if kind = 4 then decide (die < 4)
  else if kind = 5 then decide (u / 256 < 4) else true

/-- Bits of a map of ports (R321) that name ports of the grade only; the second bit of a port names its second half, which a port with
SPLIT 0 lacks (10 R374). -/
def mapFits (s : State) (m : BitVec 192) : Bool :=
  (List.range 192).all fun b => !m.getLsbD b || (fitsPort s (b / 2) && (b % 2 == 0 || splitCfg s (b / 2)))

/-- Record indexes within the ROUTES section run on from one kind to the next (R94, R321). -/
def spreadBase (p : Plan) : Nat := p.routes.routes.length
def groupBase (p : Plan) : Nat := spreadBase p + p.routes.spreads.length
def sinkBase (p : Plan) : Nat := groupBase p + p.routes.groups.length

/-- Index of the slot table that a resource uses in a context; 0 where it has none. -/
def ctxTable (p : Plan) (c : StepRec × Nat × Nat) (resource : Nat) : Nat :=
  match p.table resource c.1.tableSet c.2.1 c.2.2 with
  | some t => p.tables.idxOf t
  | none => 0

/-- The code ABSENT. -/
def checkAbsent (s : State) (img : List Byte) (p : Plan) : Refuse :=
  let work := workSecs img
  firstOf [
    eachRec p.tables 8 (secIndex img 3) fun t => resourceFits s t.resource,
    need (mapFits s p.routes.portUp) 8 (secIndex img 4) 0,
    eachRec p.routes.routes 8 (secIndex img 4) fun r => r.spread || portFits s r.target,
    eachIdx p.routes.spreads 8 (secIndex img 4) (spreadBase p) fun _ r => r.ports.all (portFits s),
    eachIdx p.routes.groups 8 (secIndex img 4) (groupBase p) fun _ g => mapFits s g.map,
    eachRec p.alts 8 (secIndex img 0xB) fun a =>
      a.losses.all fun l => l.node != p.node || (l.kind != 1 || portFits s l.unit) && (l.kind != 2 || fitsDie s l.unit),
    firstOf (work.map fun w =>
      let r := workRec w.2.2
      need (!unitLegal r.unit || (ctxUnits p 0 r).all fun u => unitServes s u ||
        (p.alts.any fun a => unitUnder p a.set u != u && unitServes s (unitUnder p a.set u))) 8 (secIndex img w.1) w.2.1)]

/-! ## SLOT_DUP, MARKER and RESEND -/

/-- Runs do not overlap and lie inside the cycle; a die link's position lies within its capacity (R30, R36). -/
def tableApart (t : SlotTable) : Bool :=
  let k := t.resource / 2 ^ 28
  (t.runs.all fun r => decide (r.start + r.len ≤ t.cycle)) && allApart (t.runs.map fun r => (r.start, r.len)) &&
    ((k != 3 && k != 4) || (t.runs.all (·.use == 0)) || decide (t.resource % 1024 / 32 < linkCap (t.resource % 32)))

/-- Two tables break R61. -/
def sameTable (a b : SlotTable) : Bool :=
  a.resource == b.resource && a.tableSet == b.tableSet && a.alt == b.alt && decide (a.bands &&& b.bands ≠ 0)

/-- The code SLOT_DUP. -/
def checkSlots (img : List Byte) (p : Plan) : Refuse :=
  firstOf [eachRec p.tables 9 (secIndex img 3) tableApart,
    eachRec p.tables.zipIdx 9 (secIndex img 3) fun t => (p.tables.take t.2).all fun b => !sameTable t.1 b]

/-- A run covers a marker tick of a port (R69 code MARKER). -/
def hitsMarker (half : Bool) (r : Run) : Bool :=
  r.use != 0 && (decide ((1024 - r.start % 1024) % 1024 < r.len) ||
    (half && decide ((1025 - r.start % 1024) % 1024 < r.len)))

/-- The code MARKER. -/
def checkMarkers (img : List Byte) (p : Plan) : Refuse :=
  eachRec p.tables 10 (secIndex img 3) fun t =>
    !(t.resource / 2 ^ 28 == 1 || t.resource / 2 ^ 28 == 2) || t.runs.all fun r => !hitsMarker (isHalf (t.resource % 512)) r

/-- The code RESEND. -/
def checkResend (img : List Byte) (p : Plan) : Refuse :=
  eachRec p.tables 11 (secIndex img 3) fun t =>
    t.resource / 2 ^ 28 != 1 ||
      decide (ceilDiv ((t.runs.filter (·.use == 1)).map (·.len)).sum 16 ≤ ((t.runs.filter (·.use == 2)).map (·.len)).sum)

/-! ## OCCUPANCY (09 R310, R315; 06 R224; 14 R487) -/

/-- Egress resources that some table names. -/
def egressRes (p : Plan) : List Nat := ((p.tables.map (·.resource)).filter fun r => r / 2 ^ 28 == 1).dedup

/-- Ingress resources that some table names. -/
def ingressRes (p : Plan) : List Nat := ((p.tables.map (·.resource)).filter fun r => r / 2 ^ 28 == 2).dedup

/-- Ticks that a cell takes on a port (R61). -/
def cellTicks (res : Nat) : Nat := if isHalf (res % 512) then 2 else 1

/-- Runs of a port as runs of cells: start, ticks, ticks for a cell. -/
abbrev CellRuns := List (Nat × Nat × Nat)

/-- The cells of a port's runs. -/
def asCells (res : Nat) (l : List (Nat × Nat)) : CellRuns := l.map fun r => (r.1, r.2, cellTicks res)

/-- Cells that have begun before an offset. -/
def cellsBefore (l : CellRuns) (x : Nat) : Nat := (l.map fun r => ceilDiv (min r.2.1 (x - r.1)) r.2.2).sum

/-- All the cells of runs. -/
def cellSum (l : CellRuns) : Nat := (l.map fun r => ceilDiv r.2.1 r.2.2).sum

/-- Starts and ends of runs. -/
def edges (l : CellRuns) : List Nat := l.flatMap fun r => [r.1, r.1 + r.2.1]

/-- Offsets at which the lesser of two amounts changes from one to the other, between neighbours of a list on which both are linear: there
it can be largest. -/
def kinks (f g : Nat → Nat) (xs : List Nat) : List Nat :=
  (xs.zip (xs.drop 1)).flatMap fun ab =>
    let u := (f ab.1 - g ab.1) + (g ab.1 - f ab.1)
    let v := (f ab.2 - g ab.2) + (g ab.2 - f ab.2)
    if (f ab.1 < g ab.1 && g ab.2 < f ab.2) || (g ab.1 < f ab.1 && f ab.2 < g ab.2) then [ab.1 + u * (ab.2 - ab.1) / (u + v)] else []

/-- Offsets in rising order, each with the tick after it. -/
def sampleTicks (l : List Nat) : List Nat := ((l ++ l.map (· + 1)).mergeSort fun a b => decide (a ≤ b)).dedup

/-- The flows (VC, FLOW, PEER) of an egress in a context. -/
def egressFlows (p : Plan) (c : StepRec × Nat × Nat) (res : Nat) : List (Nat × Nat × Nat) :=
  match p.table res c.1.tableSet c.2.1 c.2.2 with
  | some t => ((t.runs.filter fun r => r.use == 1 || r.use == 3 || r.use == 4).map fun r => (r.vc, r.flow, r.peer)).dedup
  | none => []

/-- Departures of a flow on an egress. -/
def departures (p : Plan) (c : StepRec × Nat × Nat) (res : Nat) (f : Nat × Nat × Nat) : CellRuns :=
  asCells res (ctxRuns p c res fun r => (r.use == 1 || r.use == 3 || r.use == 4) && r.vc == f.1 && r.flow == f.2.1 && r.peer == f.2.2)

/-- Planned runs of a flow number on a virtual channel at one ingress; of VC_SVC every SVC run, whose VC and FLOW do not matter
(R313). -/
def ingressRuns (p : Plan) (c : StepRec × Nat × Nat) (res vc flow : Nat) : CellRuns :=
  asCells res (ctxRuns p c res fun r =>
    if vc = 3 then r.use == 5 else (r.use == 1 || r.use == 3 || r.use == 4) && r.vc == vc && r.flow == flow)

/-- Planned arrivals of a flow number on a virtual channel, 32 ticks after their ingress (R34). -/
def arrivals (p : Plan) (c : StepRec × Nat × Nat) (f : Nat × Nat × Nat) : CellRuns :=
  (ingressRes p).flatMap fun res => (ingressRuns p c res f.1 f.2.1).map fun r => (r.1 + 32, r.2)

/-- Cells of a queue at an offset: the most by which the arrivals since any earlier offset outnumber the departures since then. -/
def queued (a d : CellRuns) (x : Nat) : Nat :=
  (((x :: edges a ++ edges d).filter fun y => decide (y ≤ x)).map fun y =>
    (cellsBefore a x - cellsBefore a y) - (cellsBefore d x - cellsBefore d y)).max?.getD 0

/-- Cells of a flow still to leave an egress from an offset on. -/
def toLeave (p : Plan) (c : StepRec × Nat × Nat) (res : Nat) (f : Nat × Nat × Nat) (x : Nat) : Nat :=
  let d := departures p c res f
  cellSum d - cellsBefore d x

/-- Cells of a flow that wait in an egress queue at an offset, at most as many as are still to leave there (DEDUCED, log 13). -/
def waiting (p : Plan) (c : StepRec × Nat × Nat) (res : Nat) (f : Nat × Nat × Nat) (x : Nat) : Nat :=
  min (queued (arrivals p c f) (departures p c res f) x) (toLeave p c res f x)

/-- The RELEASE offset of a record in a context. -/
def releaseIn (p : Plan) (c : StepRec × Nat × Nat) (w : WorkRec) : Option Nat :=
  ((ctxUnits p c.2.2 w).flatMap fun u => (ctxRuns p c (engineRes u) fun r => r.use == 0xC && r.arg == w.seq).map (·.1)).min?

/-- Replies that an egress will carry, with the offset from which they wait: 3 × FLOW_GROUPS cells of each reply flow, spread evenly
over the egress ports that its runs name, all at once 20 ticks after RELEASE (06 R224; 01 R35). -/
def replies (p : Plan) (c : StepRec × Nat × Nat) (res : Nat) : List (Nat × Nat × (Nat × Nat × Nat)) :=
  (p.work.filter (·.step == c.1.no)).flatMap fun w =>
    match w.body, releaseIn p c w with
    | .home h, some rel => h.flows.filterMap fun f =>
        let key := (2, f.rspFlow, f.submitter)
        let n := ((egressRes p).filter fun q => (egressFlows p c q).contains key).length
        if (egressFlows p c res).contains key then some (rel + 20, ceilDiv (3 * f.groups) n, key) else none
    | _, _ => []

/-- Reply cells that wait on an egress at an offset. -/
def replyWaits (p : Plan) (c : StepRec × Nat × Nat) (res x : Nat) : Nat :=
  ((replies p c res).map fun y =>
    if y.1 < x then y.2.1 - (let d := departures p c res y.2.2; cellsBefore d x - cellsBefore d y.1) else 0).sum

/-- Retained cells of a flow on an egress at an offset: each cell of a flow that starts here, or of a leg of a group, from its egress
tick until ACK_WAIT later (R332, R337, R487). A flow that some ingress run carries is forwarded, and starts elsewhere (DEDUCED,
log 13). -/
def retainedFlow (p : Plan) (c : StepRec × Nat × Nat) (res : Nat) (f : Nat × Nat × Nat) (x : Nat) : Nat :=
  let d := departures p c res f
  if isGroupDst f.2.2 || (arrivals p c f).isEmpty then cellsBefore d x - cellsBefore d (x - p.routes.ackWait) else 0

/-- Offsets at which the use of a port's queues and retention can be largest: between two of them every amount of which the use is a sum is
linear, or bends upward. -/
def peaks (p : Plan) (c : StepRec × Nat × Nat) (res : Nat) : List Nat :=
  let fs := egressFlows p c res
  let flat := fs.flatMap fun f => edges (arrivals p c f) ++ edges (departures p c res f)
  let late := fs.flatMap fun f => (edges (departures p c res f)).map (· + p.routes.ackWait)
  let xs := sampleTicks (flat ++ late ++ (replies p c res).map (·.1))
  sampleTicks (xs ++ fs.flatMap fun f => kinks (queued (arrivals p c f) (departures p c res f)) (toLeave p c res f) xs)

/-- The port faces up in a plan. -/
def planUp (p : Plan) (code : Nat) : Bool := p.routes.portUp.getLsbD (portBit code)

/-- A group cell goes up as one cell, spread over the ports toward UPSTREAM, and comes down as the same cell on every port (R325). -/
def groupUp (p : Plan) (res : Nat) (f : Nat × Nat × Nat) : Bool := isGroupDst f.2.2 && planUp p (res % 512)

/-- Cells of a flow in an egress queue or its retention at an offset. -/
def flowUse (p : Plan) (c : StepRec × Nat × Nat) (res : Nat) (f : Nat × Nat × Nat) (x : Nat) : Nat :=
  waiting p c res f x + retainedFlow p c res f x

/-- Cells of the cell pool that the egress queues and retentions of the device hold at an offset (R487). The copies of a group cell that go
down share one buffer, which the last port to release holds longest (14 R482). No retention counts beyond its capacity: `egressFits`
has refused a plan with one that does. -/
def poolPlanned (p : Plan) (c : StepRec × Nat × Nat) (x : Nat) : Nat :=
  let ports := egressRes p
  let shared := fun (res : Nat) (f : Nat × Nat × Nat) => isGroupDst f.2.2 && !groupUp p res f
  let own := (ports.map fun res =>
    (((egressFlows p c res).filter fun f => !shared res f).map fun f => flowUse p c res f x).sum + replyWaits p c res x).sum
  let groups := (ports.flatMap fun res => (egressFlows p c res).filter (shared res)).dedup
  own + (groups.map fun f => ((ports.filter fun res => !groupUp p res f).map fun res => flowUse p c res f x).max?.getD 0).sum

/-- Egress ticks of a flow in one execution: a unicast flow, and a group flow on its way up, may spread over several ports, while a
group's copies on each port down are the same cells (R310, R324, R325). -/
def flowTicks (p : Plan) (c : StepRec × Nat × Nat) (res : Nat) (f : Nat × Nat × Nat) : Nat :=
  let ticks := fun (q : Nat) => ((departures p c q f).map (·.2.1)).sum
  if isGroupDst f.2.2 && !groupUp p res f then ticks res
  else (((egressRes p).filter fun q => groupUp p q f == groupUp p res f).map ticks).sum

/-- An egress keeps within its flows, queues and retention. -/
def egressFits (p : Plan) (c : StepRec × Nat × Nat) (res : Nat) : Bool :=
  let fs := egressFlows p c res
  let cap := capOf (res % 512) 512
  (fs.all fun f => decide (flowTicks p c res f ≤ 1048576)) &&
    (peaks p c res).all fun x =>
      ([0, 1, 2].all fun vc =>
        decide (((fs.filter (·.1 == vc)).map fun f => waiting p c res f x).sum + (if vc = 2 then replyWaits p c res x else 0) ≤ cap)) &&
      decide ((fs.map fun f => retainedFlow p c res f x).sum ≤ capOf (res % 512) 2048)

/-- Capacity of an ingress buffer by its virtual channel (R315). -/
def ingressCap (code vc : Nat) : Nat := capOf code (if vc = 0 then 32 else if vc = 3 then 8 else 16)

/-- The flows (VC, FLOW) of an ingress in a context; VC_SVC counts as one. -/
def ingressFlows (p : Plan) (c : StepRec × Nat × Nat) (res : Nat) : List (Nat × Nat) :=
  match p.table res c.1.tableSet c.2.1 c.2.2 with
  | some t => ((t.runs.filter fun r => r.use == 1 || r.use == 3 || r.use == 4 || r.use == 5).map fun r =>
      if r.use = 5 then (3, 0) else (r.vc, r.flow)).dedup
  | none => []

/-- Ticks that a cell of a flow may stay in its ingress buffer: 32 where it is forwarded, 24 where an engine takes it (01 R34, R35;
DEDUCED, log 77). -/
def ingressStay (p : Plan) (c : StepRec × Nat × Nat) (f : Nat × Nat) : Nat :=
  if (egressRes p).any fun q => (egressFlows p c q).any fun g => g.1 == f.1 && g.2.1 == f.2 then 32 else 24

/-- Runs of a flow in the unit positions of a die link toward the CD. -/
def crossings (p : Plan) (c : StepRec × Nat × Nat) (link : Nat) (f : Nat × Nat) : CellRuns :=
  (List.range 32).flatMap fun pos => (ctxRuns p c (3 * 2 ^ 28 + link + 32 * pos) fun r =>
    if f.1 = 3 then r.use == 5 else (r.use == 1 || r.use == 3 || r.use == 4) && r.vc == f.1 && r.flow == f.2).map fun r => (r.1, r.2, 1)

/-- Runs of a flow on every ingress of a lane die. -/
def dieRuns (p : Plan) (c : StepRec × Nat × Nat) (link : Nat) (f : Nat × Nat) : CellRuns :=
  ((ingressRes p).filter fun q => portNo (q % 512) / 6 == link).flatMap fun q => ingressRuns p c q f.1 f.2

/-- Cells of a flow that came to an ingress in the ticks that a cell stays. -/
def staying (p : Plan) (c : StepRec × Nat × Nat) (res : Nat) (f : Nat × Nat) (x : Nat) : Nat :=
  let a := ingressRuns p c res f.1 f.2
  cellsBefore a x - cellsBefore a (x - ingressStay p c f)

/-- Cells of a flow in the buffer of an ingress at an offset: those of the last 24 or 32 ticks, less those that a unit position has
taken on (R315; DEDUCED, log 77). -/
def ingressUse (p : Plan) (c : StepRec × Nat × Nat) (res : Nat) (f : Nat × Nat) (x : Nat) : Nat :=
  let link := portNo (res % 512) / 6
  match crossings p c link f with
  | [] => staying p c res f x
  | d => min (staying p c res f x) (queued (dieRuns p c link f) d x)

/-- Offsets at which the use of an ingress can be largest. -/
def ingressPeaks (p : Plan) (c : StepRec × Nat × Nat) (res : Nat) : List Nat :=
  let fs := ingressFlows p c res
  let link := portNo (res % 512) / 6
  let xs := sampleTicks (fs.flatMap fun f =>
    let a := edges (ingressRuns p c res f.1 f.2)
    a ++ a.map (· + ingressStay p c f) ++ edges (dieRuns p c link f) ++ edges (crossings p c link f))
  sampleTicks (xs ++ fs.flatMap fun f => kinks (staying p c res f) (queued (dieRuns p c link f) (crossings p c link f)) xs)

/-- An ingress keeps within its buffers. -/
def ingressFits (p : Plan) (c : StepRec × Nat × Nat) (res : Nat) : Bool :=
  let fs := ingressFlows p c res
  (ingressPeaks p c res).all fun x => [0, 1, 2, 3].all fun vc =>
    decide (((fs.filter (·.1 == vc)).map fun f => ingressUse p c res f x).sum ≤ ingressCap (res % 512) vc)

/-- The code OCCUPANCY, at the table of the port that overflows; the pool at record 0. -/
def checkOccupancy (img : List Byte) (p : Plan) : Refuse :=
  firstOf ((planCtxs p).map fun c => firstOf [
    firstOf ((egressRes p).map fun res => need (egressFits p c res) 12 (secIndex img 3) (ctxTable p c res)),
    firstOf ((ingressRes p).map fun res => need (ingressFits p c res) 12 (secIndex img 3) (ctxTable p c res)),
    need ((((egressRes p).flatMap (peaks p c)).dedup).all fun x => decide (poolPlanned p c x < 98304)) 12 (secIndex img 3) 0])

/-! ## UPDOWN (09 R327) -/

/-- The code UPDOWN. -/
def checkUpdown (img : List Byte) (p : Plan) : Refuse :=
  firstOf [
    eachRec p.routes.routes 13 (secIndex img 4) fun r => (routePorts p r).all fun q => planUp p q == r.up,
    eachIdx p.routes.groups 13 (secIndex img 4) (groupBase p) fun _ g => decide (g.map &&& p.routes.portUp = 0),
    eachRec p.tables 13 (secIndex img 3) fun t =>
      t.resource / 2 ^ 28 != 1 || t.runs.all fun r =>
        !(r.use == 1 || r.use == 3 || r.use == 4) || isGroupDst r.peer ||
          (match planRoute p r.peer r.vc t.alt with
           | some x => x.up == planUp p (t.resource % 512)
           | none => true)]

/-! ## ENGINE -/

/-- RUN and RELEASE runs of a record on a unit in a context, over the whole step. -/
def recRuns (p : Plan) (c : StepRec × Nat × Nat) (u use seq : Nat) : List (Nat × Nat) :=
  ctxRuns p c (engineRes u) fun r => r.use == use && r.arg == seq

/-- RUN or RELEASE runs of a record in one cycle of a unit's table. -/
def cycleRuns (p : Plan) (c : StepRec × Nat × Nat) (u use seq : Nat) : List (Nat × Nat) :=
  match p.table (engineRes u) c.1.tableSet c.2.1 c.2.2 with
  | some t => (t.runs.filter fun r => r.use == use && r.arg == seq).map fun r => (r.start, r.len)
  | none => []

/-- Egress ports toward the endpoint members of a tree. -/
def memberPorts (p : Plan) (c : StepRec × Nat × Nat) (tree : Nat) : List Nat :=
  let kids := ((p.trees.find? (·.id == tree)).map fun t => (t.children p.node).filter (·.level == 0)).getD []
  kids.flatMap fun k => portsFacing p c.2.2 k.node

/-- Flow numbers on which the zenith of a tree reaches this device, by the ingress runs that name it as their source. -/
def flowsFrom (p : Plan) (c : StepRec × Nat × Nat) (node : Nat) : List Nat :=
  ((ingressRes p).flatMap fun res =>
    match p.table res c.1.tableSet c.2.1 c.2.2 with
    | some t => (t.runs.filter fun r => r.use == 1 && r.vc == 0 && r.peer == node && decide (r.flow < 0xFF0)).map (·.flow)
    | none => []).dedup

/-- The zenith of a tree. -/
def zenithOf (p : Plan) (tree : Nat) : Nat := ((p.trees.find? (·.id == tree)).map (·.zenith)).getD 0xFFFF

/-- Runs of a flow of the zenith on the ports of a record's members, from W on. -/
def lateResults (p : Plan) (c : StepRec × Nat × Nat) (tree flow : Nat) : List (Nat × Nat) :=
  (memberPorts p c tree).flatMap fun q => ((ctxRuns p c (2 ^ 28 + q) fun r => r.use == 1 && r.vc == 0 && r.flow == flow).filter fun r =>
    decide (ctxW c < r.1 + r.2))

/-- Cells of a flow from the zenith that come to the device in the step. -/
def resultCells (p : Plan) (c : StepRec × Nat × Nat) (flow : Nat) : Nat :=
  ((ingressRes p).map fun q => cellSum (ingressRuns p c q 0 flow)).max?.getD 0

/-- Below the zenith a record's image does not carry the zenith's OUT_FLOW, so that its result cells are those that come in from the
zenith. Barrier releases come from there too: of the flows of at most 2 cells as many as the step has barrier records under the same
zenith may be releases, which no rule binds to W (04 R144, R150; DEDUCED, log 13). -/
def noLateResult (p : Plan) (c : StepRec × Nat × Nat) (zen tree : Nat) : Bool :=
  let late := (flowsFrom p c zen).filter fun f => !(lateResults p c tree f).isEmpty
  let bars := (p.work.filter fun w => w.step == c.1.no && (match w.body with
    | .bar r => zenithOf p r.tree == zen
    | _ => false)).length
  (late.all fun f => decide (resultCells p c f ≤ 2)) && decide (late.length ≤ bars)

/-- A kind of cells that leave here: virtual channel, flow, whether a DST is meant, and the egress ports on which they are judged; none for
every port. -/
structure CellKind where
  vc : Nat
  flow : Nat
  dst : Nat → Bool
  ports : Option (List Nat)

/-- Cells that a record sends and that must leave before W: the results of the zenith's record on its members' ports, those of a pool
and a Mover record, and the replies of a home record, on every port (04 R144, 05 R190, 06 R224, 07 R246). -/
def lateFlows (p : Plan) (c : StepRec × Nat × Nat) (w : WorkRec) : List CellKind :=
  match w.body with
  | .red r =>
    let ports := some (memberPorts p c r.tree)
    let mem := ((p.trees.find? (·.id == r.tree)).map fun t => t.members.map (·.node)).getD []
    if r.op = 2 || zenithOf p r.tree != p.node then []
    else if r.op = 1 then [⟨0, r.outFlow, fun d => isGroupDst d || mem.contains d, ports⟩]
    else ((List.range r.shares).zip mem).map fun j => ⟨0, r.outFlow + j.1, (· == j.2), ports⟩
  | .pool r => if r.fabricDest then [⟨0, r.outFlow, (· == r.destNode), none⟩] else []
  | .mov r => if r.fabricDst then [⟨0, r.outFlow, (· == r.destNode), none⟩] else []
  | .home h => h.flows.map fun f => ⟨2, f.rspFlow, (· == f.submitter), none⟩
  | .bar _ => []

/-- Another record of the step shares a unit under the map with RUN runs that meet (R65, R69). -/
def runsClash (p : Plan) (c : StepRec × Nat × Nat) (w : WorkRec) (i : Nat) : Bool :=
  p.work.zipIdx.any fun v => v.2 != i && v.1.step == w.step &&
    (ctxUnits p c.2.2 w).any fun u => (ctxUnits p c.2.2 v.1).contains u &&
      (cycleRuns p c u 0xB w.seq).any fun a => (cycleRuns p c u 0xB v.1.seq).any fun b => !apart a b

/-- Runs of a record meet R69, R153, R155 and R247 in a context: within a cycle of the unit's table RUN runs and exactly one RELEASE
tick after them, and over the step no RELEASE in the outcome window. -/
def recordRunsOk (p : Plan) (c : StepRec × Nat × Nat) (w : WorkRec) : Bool :=
  let W := ctxW c
  ((ctxUnits p c.2.2 w).all fun u =>
    let run := cycleRuns p c u 0xB w.seq
    let rel := cycleRuns p c u 0xC w.seq
    let at' := (rel.map (·.1)).headD 0
    let zen := (p.trees.find? fun t => match w.body with
      | .bar r => t.id == r.tree
      | _ => false).map (·.zenith)
    !run.isEmpty && tickSum rel == 1 && (run.all fun r => decide (r.1 + r.2 ≤ at')) && decide (at' < W) &&
      ((recRuns p c u 0xC w.seq).all fun r => decide (r.1 + r.2 ≤ W)) &&
      (match w.body with
       | .bar _ =>
         let first := ((run.map (·.1)).min?).getD 0
         decide ((if zen = some p.node then 71 else 57) + first ≤ at') && (w.unit / 256 != 0 || (recRuns p c u 0xB w.seq).all fun r => decide (r.1 + r.2 ≤ W))
       | .mov r => !r.digest || decide (ceilDiv r.len 32 + 256 ≤ tickSum run)
       | _ => true))

/-- Cells of a record's results leave before W (R144, R190, R224, R246). -/
def resultsBeforeW (p : Plan) (c : StepRec × Nat × Nat) (w : WorkRec) : Bool :=
  ((lateFlows p c w).all fun f => (egressRes p).all fun res =>
    (match f.ports with
     | some ports => !ports.contains (res % 512)
     | none => false) ||
      (ctxRuns p c res fun r => (r.use == 1 || r.use == 4) && r.vc == f.vc && r.flow == f.flow && f.dst r.peer).all fun r =>
        decide (r.1 + r.2 ≤ ctxW c)) &&
    (match w.body with
     | .red r => r.op == 2 || zenithOf p r.tree == p.node || noLateResult p c (zenithOf p r.tree) r.tree
     | _ => true)

/-- No reply, of whatever home, leaves at or after W on a port that faces its submitter (R224). -/
def repliesBeforeW (p : Plan) (c : StepRec × Nat × Nat) (res : Nat) : Bool :=
  (((egressFlows p c res).filter (·.1 == 2)).map (·.2.2)).dedup.all fun d =>
    manKind p d != 2 || !(portsFacing p c.2.2 d).contains (res % 512) ||
      (ctxRuns p c res fun r => r.use == 4 && r.vc == 2 && r.peer == d).all fun r => decide (r.1 + r.2 ≤ ctxW c)

/-- At most four DIGEST records of one Mover run at once (07 R247). -/
def digestsOk (p : Plan) (c : StepRec × Nat × Nat) : Bool :=
  let recs := p.work.filter fun w => w.step == c.1.no && (match w.body with
    | .mov r => r.digest
    | _ => false)
  [0, 1, 2, 3].all fun die =>
    let runs := recs.flatMap fun w =>
      let u := unitUnder p c.2.2 w.unit
      if u / 16 % 16 = die then recRuns p c u 0xB w.seq else []
    runs.all fun r => decide ((runs.filter fun q => decide (q.1 ≤ r.1) && decide (r.1 < q.1 + q.2)).length ≤ 4)

/-- For the barrier cells that come in on a port over the longest cable, some unit position of its link toward the CD carries each of them
in the tick in which it comes or in the 24 ticks after it. The manual gives no tick for the die link (R626; 01 R35; DEDUCED, log 77). -/
def coversIn (p : Plan) (c : StepRec × Nat × Nat) (code before n : Nat) : Bool :=
  let from' := c.1.len c.2.1 - before
  let link := portNo code / 6
  let hops := (List.range (linkCap link)).flatMap fun pos => ctxRuns p c (3 * 2 ^ 28 + link + 32 * pos) fun r =>
    r.use == 1 && r.vc == 0 && r.flow == 0xFFE && r.peer == p.node
  (List.range n).all fun k => hops.any fun r => decide (r.1 ≤ from' + k + 24) && decide (from' + k < r.1 + r.2)

/-- Runs for the barrier cells of a flow toward a node cover the ticks of a port from an offset before E, and for each of those ticks some
unit position of the port's die link carries them in it or in the 20 ticks before it. The manual gives no tick for the die link
(R626; 01 R35; DEDUCED, log 77). -/
def covers (p : Plan) (c : StepRec × Nat × Nat) (code dst flow before n : Nat) : Bool :=
  let from' := c.1.len c.2.1 - before
  let link := portNo code / 6
  let mine := fun (r : Run) => r.use == 1 && r.vc == 0 && r.flow == flow && r.peer == dst
  let runs := ctxRuns p c (2 ^ 28 + code) mine
  let hops := (List.range (linkCap link)).flatMap fun pos => ctxRuns p c (4 * 2 ^ 28 + link + 32 * pos) mine
  (List.range n).all fun k =>
    (runs.any fun r => decide (r.1 ≤ from' + k) && decide (from' + k < r.1 + r.2)) &&
      hops.any fun r => decide (r.1 ≤ from' + k) && decide (from' + k < r.1 + r.2 + 20)

/-- Ports of a tree-0 link: those that face the neighbour, or, where the routes leave none, those whose egress runs name it. -/
def linkPorts (p : Plan) (c : StepRec × Nat × Nat) (d : Nat) : List Nat :=
  match portsFacing p c.2.2 d with
  | [] => ((egressRes p).filter fun res => !(ctxRuns p c res fun r => r.use == 1 && r.peer == d).isEmpty).map (· % 512)
  | l => l

/-- The link toward a parent or a child has a port, and every port of it passes. -/
def everyPort (l : List Nat) (ok : Nat → Bool) : Bool := !l.isEmpty && l.all ok

/-- A tree meets R131 to R133 beside its reserved bytes. -/
def treeOk (p : Plan) (sec : List Byte) (i : Nat) : Bool :=
  let d := sec.drop (32 + 16 * i)
  let t := treeRec sec i
  t.id == i && decide (1 ≤ t.depth) && decide (t.depth ≤ 4) &&
    decide (natAt d 6 4 + natAt d 10 4 ≤ natAt sec 4 4) && risesStrictly (t.nodes.map (·.node)) &&
    ((t.nodes.filter (·.parent == 0xFFFF)).length == 1) &&
    (t.nodes.all fun n =>
      (if n.parent = 0xFFFF then n.node == t.zenith && n.level == t.depth
       else t.nodes.any fun q => q.node == n.parent && q.level == n.level + 1) &&
      manKind p n.node == (if n.level = 0 then 2 else 1) &&
      (i == 0 || n.level == 0 || !(t.children n.node).isEmpty)) &&
    (i != 0 || (t.nodes.all (·.level != 0) && p.manifest.all fun m => m.kind != 1 || t.nodes.any (·.node == m.node)))

/-- The outcome-barrier runs of a context: on every port that faces the parent, a child or an endpoint member (R626). Of a tree 0 that
is itself refused (R133, code RECORD) nothing is asked here. -/
def obarRunsOk (p : Plan) (sec : List Byte) (c : StepRec × Nat × Nat) : Bool :=
  match p.trees.find? (·.id == 0) with
  | none => true
  | some t =>
    match t.node p.node with
    | none => true
    | some n =>
      let width (code k : Nat) := if isHalf code then 2 * k else k
      let up := n.parent == 0xFFFF ||
        everyPort (linkPorts p c n.parent) fun q =>
          covers p c q n.parent 0xFFE (cutBefore t.depth p.cableMax n.level - 77) (width q 8) &&
            coversIn p c q (downBefore t.depth p.cableMax (n.level + 1) - p.cableMax) (width q 8)
      let down := (t.children p.node).all fun k =>
        everyPort (linkPorts p c k.node) fun q =>
          covers p c q k.node 0xFFE (downBefore t.depth p.cableMax n.level) (width q 8) &&
            coversIn p c q (cutBefore t.depth p.cableMax k.level - 77 - p.cableMax) (width q 8)
      let ends := (planMembers p).all fun m =>
        (portsFacing p c.2.2 m).all fun q => covers p c q m 0xFFF 32 (width q 1)
      !treeOk p sec 0 || (up && down && ends)

/-- Index of a slot table of a table set, 0 where it holds none: where the runs that a set lacks would stand (R94). -/
def setTable (p : Plan) (tset : Nat) : Nat :=
  let i := p.tables.findIdx (·.tableSet == tset)
  if i < p.tables.length then i else 0

/-- Index in its section of the first DIGEST record of a step. -/
def digestIndex (p : Plan) (img : List Byte) (step : Nat) : Nat :=
  (((workSecs img).find? fun w => w.1 == 0xA && natAt w.2.2 8 4 == step && (natAt w.2.2 0x11 1).testBit 0).map (·.2.1)).getD p.work.length

/-- The code ENGINE. Any RUN or RELEASE on logical barrier unit 0 that falls inside the outcome window counts, whether or not a
barrier record has its SEQ (R155; DEDUCED, log 13). -/
def checkEngines (img : List Byte) (p : Plan) : Refuse :=
  let work := workSecs img
  firstOf [
    firstOf (work.zipIdx.map fun w =>
      let r := workRec w.1.2.2
      need (!unitLegal r.unit || ((planCtxs p).filter fun c => c.1.no == r.step).all fun c =>
        recordRunsOk p c r && !runsClash p c r w.2 && resultsBeforeW p c r) 14 (secIndex img w.1.1) w.1.2.1),
    firstOf ((planCtxs p).flatMap fun c => (egressRes p).map fun res => need (repliesBeforeW p c res) 14 (secIndex img 3) (ctxTable p c res)),
    firstOf ((planCtxs p).map fun c => need (digestsOk p c) 14 (secIndex img 0xA) (digestIndex p img c.1.no)),
    firstOf ((planCtxs p).map fun c => need ((ctxRuns p c (engineRes 0xF5) fun r => r.use == 0xB || r.use == 0xC).all fun r =>
      decide (r.1 + r.2 ≤ ctxW c)) 14 (secIndex img 3) (ctxTable p c (engineRes 0xF5))),
    firstOf ((planCtxs p).map fun c => need (obarRunsOk p (secBytes img 6) c) 14 (secIndex img 3) (setTable p c.1.tableSet))]

/-! ## POOL_RATE, STEP and BAND -/

/-- The code POOL_RATE: on a grade whose near rate two engines exceed, their RUN ticks on one die do not meet (01 R42; DEDUCED,
log 13). -/
def checkPoolRate (s : State) (img : List Byte) (p : Plan) : Refuse :=
  if 7500 ≤ 1840 * Config.stacksPerDie s.mfg.grade then none
  else firstOf ((planCtxs p).flatMap fun c => [0, 1, 2, 3].map fun d =>
    let a := ctxRuns p c (engineRes (2 + 16 * d)) (·.use == 0xB)
    let b := ctxRuns p c (engineRes (2 + 16 * d + 256)) (·.use == 0xB)
    need (a.all fun x => b.all (apart x)) 15 (secIndex img 3) (ctxTable p c (engineRes (2 + 16 * d + 256))))

/-- The outcome-barrier bound of tree 0 (04 R155). -/
def outcomeBound (p : Plan) : Nat :=
  192 + ((((p.trees.find? (·.id == 0)).map (·.depth)).getD 1) - 1) * (133 + 2 * p.cableMax)

/-- A STEPS record meets R54, R55 and R408. -/
def stepOk (p : Plan) (raw : List Byte) (i : Nat) : Bool :=
  let t := stepRec raw
  let lens := [t.lenNom, t.lenWarm, t.lenHot]
  t.no == i && natAt raw 4 4 / 256 == 0 && t.onVoid != 3 &&
    (lens.all fun n => decide (1024 ≤ n) && decide (n ≤ 2 ^ 40) && n % 1024 == 0) &&
    decide (t.lenNom ≤ t.lenWarm) && decide (t.lenWarm ≤ t.lenHot) && decide (outcomeBound p ≤ t.outwin) &&
    decide (t.outwin + t.drain < t.lenNom) &&
    (!t.rejoin || lens.all fun n => decide (p.cableMax + 2048 ≤ n - t.outwin))

/-- The code STEP, with the rules of an image loaded under PENDING (20 R613). -/
def checkSteps (img : List Byte) (p : Plan) (pending : Bool) : Refuse :=
  let raw := recsOf 64 (secCount img 2) (secBytes img 2)
  firstOf [need (decide (p.loopFirst ≤ p.loopLast) && decide (p.loopLast < p.steps.length)) 16 noSection 0,
    firstOf (raw.zipIdx.map fun x => need (stepOk p x.1 x.2) 16 (secIndex img 2) x.2),
    need (!pending || (p.work.all (·.step != 0) && decide (2 ^ 22 ≤ ((p.steps.headD (stepRec [])).lenNom)))) 16 (secIndex img 2) 0]

/-- Non-IDLE ticks of a pseudo-channel table in each 1024. -/
def busyOk (t : SlotTable) (cap : Nat) : Bool :=
  (List.range (t.cycle / 1024)).all fun k =>
    let used := (t.runs.filter (·.use != 0)).map fun r =>
      min (r.start + r.len) (1024 * (k + 1)) - max r.start (1024 * k)
    decide (used.sum ≤ cap)

/-- The code BAND. -/
def checkBands (img : List Byte) (p : Plan) : Refuse :=
  let used := p.steps.map (·.tableSet)
  firstOf [
    eachRec p.tables 17 (secIndex img 3) fun t =>
      !used.contains t.tableSet ||
        [0, 1, 2].all fun b => p.tables.any fun u =>
          u.resource == t.resource && u.tableSet == t.tableSet && u.alt == t.alt && u.bands.testBit b,
    eachRec p.tables 17 (secIndex img 3) fun t =>
      t.resource / 2 ^ 28 != 5 || ((!t.bands.testBit 1 || busyOk t 896) && (!t.bands.testBit 2 || busyOk t 512))]

end Sys2Proof.Machine
end

