-- ==== Sys2Proof/Machine/LoadRecs.lean ====
section
/-! DEFINITION. The plan loader's checks of regions and records, codes REGION and RECORD, and the whole check (02 R64, R69, R621;
03 R119; 04 R133 to R148; 05 R180, R181; 06 R224, R225; 07 R241, R242; 09 R307, R327; 11 R394). -/

namespace Sys2Proof.Machine

/-! ## REGION -/

/-- A REGIONS record meets R64 and R264. DIE is given for near placement only, and FLAGS[15:4] have no meaning: a global region with a
DIE other than 0, and FLAGS of 16 or more, are refused (DESIGN CHOICE, log 78). -/
def regionOk (s : State) (p : Plan) (r : Region) : Bool :=
  let wn := getF s 0 Reg.memSplit_nearUnits * nearUnit
  r.base % 1048576 == 0 && r.size % 1048576 == 0 && r.size != 0 && r.id != 0xFFFFFFFF && decide (r.placement ≤ 1) &&
    decide (r.flags < 16) && decide (r.base + r.size ≤ capacity s) &&
    ((p.regions.filter (·.id == r.id)).length == 1) &&
    ((p.regions.filter fun q => !(apart (q.base, q.size) (r.base, r.size))).length == 1) &&
    (if r.placement = 0 then decide (r.die ≤ 3) && decide (r.die * wn ≤ r.base) && decide (r.base + r.size ≤ (r.die + 1) * wn)
     else r.die == 0 && decide (4 * wn ≤ r.base))

/-- A byte range of a region: region, offset, length. -/
abbrev Extent := Nat × Nat × Nat

/-- Two extents meet. -/
def meet (a b : Extent) : Bool := a.1 == b.1 && !apart a.2 b.2

/-- What a record writes (R137, R148, R180, R241). -/
def recWrites (w : WorkRec) : List Extent :=
  match w.body with
  | .red r => if r.region = 0xFFFFFFFF then [] else [(r.region, r.ofs, r.n * elemSize r.ocd.fmt)]
  | .bar r => if r.region = 0xFFFFFFFF then [] else [(r.region, r.ofs, 8 * r.ops.length)]
  | .pool r => if r.fabricDest then []
      else [(r.destRegion, r.destOfs, (r.maxBags - 1) * r.outStride + r.rowLen * elemSize r.ocd.fmt)]
  | .mov r => if r.fabricDst then [] else [(r.dstRegion, r.dstOfs, r.len)]
  | .home _ => []

/-- What a record reads; a pool record reads its whole regions (R181). -/
def recReads (w : WorkRec) : List Extent :=
  match w.body with
  | .pool r => (r.tableRegion, 0, 2 ^ 40) :: (if r.fabricIdx then [] else [(r.idxRegion, 0, 2 ^ 40)])
  | .mov r => if r.fill || r.fabricSrc then [] else [(r.srcRegion, r.srcOfs, r.len)]
  | _ => []

/-- What the sinks write (R326). -/
def sinkWrites (p : Plan) : List Extent := p.routes.sinks.map fun k => (k.region, k.ofs, 48 * k.maxCells)

/-- Regions that home records guard in a step: those of the step and of the step before it in order (06 R225). -/
def guarded (p : Plan) (step : Nat) : List Nat :=
  p.work.flatMap fun w =>
    match w.body with
    | .home h =>
      if w.step = step ∨ w.step + 1 = step ∨ (w.step = p.loopLast ∧ step = p.loopFirst ∧ 1 < p.loopCount) then h.regions else []
    | _ => []

/-- A region is flagged STAGING. -/
def isStaging (p : Plan) (id : Nat) : Bool := p.regions.any fun r => r.id == id && r.flags.testBit 0

/-- The records of a step keep R69 (in place under RETRY), R181, R225 and R242. -/
def stepRegionsOk (p : Plan) (step : StepRec) (i : Nat) : Bool :=
  let recs := p.work.zipIdx.filter fun w => w.1.step == step.no
  let me := (p.work.getD i ⟨0, 0, 0, .home ⟨0, [], []⟩⟩)
  let others := (recs.filter fun w => w.2 != i).map (·.1)
  let mine := recWrites me
  let myReads := recReads me
  let isMov := match me.body with
    | .mov _ => true
    | _ => false
  let isPool := match me.body with
    | .pool _ => true
    | _ => false
  let otherWrites := others.flatMap recWrites
  (mine.all fun x => otherWrites.all fun y => !meet x y) &&
    (!isMov || (mine.all fun x => ((others.flatMap recReads) ++ sinkWrites p).all fun y => !meet x y) &&
      (myReads.all fun x => (otherWrites ++ sinkWrites p).all fun y => !meet x y)) &&
    (!isPool || ((myReads.all fun x => (mine ++ otherWrites).all fun y => x.1 != y.1) && myReads.all fun x => !isStaging p x.1)) &&
    ((mine ++ myReads).all fun x => !(guarded p step.no).contains x.1) &&
    (step.onVoid != 0 || mine.all fun x => (recs.flatMap fun w => recReads w.1).all fun y => x.1 != y.1)

/-- The code REGION. -/
def checkRegions (s : State) (img : List Byte) (p : Plan) : Refuse :=
  let work := workSecs img
  firstOf [eachRec p.regions 18 (secIndex img 5) (regionOk s p),
    firstOf (work.zipIdx.map fun w =>
      match p.steps.find? fun t => t.no == natAt w.1.2.2 8 4 with
      | some t => need (stepRegionsOk p t w.2) 18 (secIndex img w.1.1) w.1.2.1
      | none => none)]

/-! ## RECORD: routes -/

/-- A port code (R57). -/
def codeOk (c : Nat) : Bool := decide (c < 512) && c / 128 != 1 && decide (c % 128 < 96)

/-- A flow that a record may name (R307). -/
def flowOk (f : Nat) : Bool := decide (f < 0xFF0)

/-- Level of this plan's device in tree 0. -/
def homeLevel (p : Plan) : Option Nat := (p.trees.find? (·.id == 0)).bind fun t => (t.node p.node).map (·.level)

/-- The ROUTES section's own records (R321 to R327). A route, a group and a sink name nodes of the MANIFEST (04 R164). Spread and sink
records carry no ALT: each first field stands once (R327; DEDUCED, log 13). -/
def checkRoutes (img : List Byte) (p : Plan) : Refuse :=
  let l := secBytes img 4
  let w := routeRaw l
  let sec := secIndex img 4
  firstOf [
    need (decide (natAt l 8 4 ≤ 3840) && decide (natAt l 12 4 ≤ 4096) && decide (256 ≤ natAt l 16 4) && decide (natAt l 16 4 ≤ 65535) &&
      zeros l 21 11 && zeros l 56 8 && homeLevel p == some (natAt l 20 1)) 19 sec 0,
    eachRec w.routes 19 sec fun r => manKind p (natAt r 0 2) != 0 && decide (natAt r 2 1 < 16) && decide (natAt r 3 1 ≤ 1) &&
      decide (natAt r 6 1 ≤ 1) && zeros r 8 8 &&
      (if natAt r 6 1 = 1 then w.spreads.any (fun x => natAt x 0 2 == natAt r 4 2) else codeOk (natAt r 4 2)),
    eachIdx w.spreads 19 sec (spreadBase p) fun _ r => decide (2 ≤ natAt r 2 1) && decide (natAt r 2 1 ≤ 8) && zeros r 3 5 &&
      ((List.range 8).all fun k => if k < natAt r 2 1 then codeOk (natAt r (8 + 2 * k) 2) else natAt r (8 + 2 * k) 2 == 0),
    eachIdx w.groups 19 sec (groupBase p) fun _ r => decide (natAt r 0 2 < 3840) && decide (natAt r 5 1 ≤ 1) && zeros r 6 10 &&
      (manKind p (natAt r 2 2) != 0 || natAt r 2 2 == 0xFFFF),
    eachIdx w.sinks 19 sec (sinkBase p) fun _ r => zeros r 20 12 && decide (1 ≤ natAt r 16 4) && decide (natAt r 16 4 ≤ 65536) && flowOk (natAt r 2 2) &&
      manKind p (natAt r 0 2) != 0 &&
      p.regions.any fun q => q.id == natAt r 4 4 && decide (natAt r 8 8 + 48 * natAt r 16 4 ≤ q.size),
    risesFrom w.routes 19 sec 0 fun r => natAt r 0 2 * 256 + natAt r 7 1,
    risesFrom w.spreads 19 sec (spreadBase p) fun r => natAt r 0 2,
    risesFrom w.groups 19 sec (groupBase p) fun r => natAt r 0 2 * 256 + natAt r 4 1,
    risesFrom w.sinks 19 sec (sinkBase p) fun r => natAt r 0 2]

/-- A run of a port or a die link, other than RESEND and SVC, names no reserved flow but those of the outcome barrier, and an egress or
die-link run a peer with a route or a group (R307, R327). -/
def runNamesRoute (p : Plan) (t : SlotTable) (r : Run) : Bool :=
  r.use == 0 || r.use == 2 || r.use == 5 ||
    ((decide (r.flow < 0xFF0) || (r.use == 1 && (r.flow == 0xFFE || r.flow == 0xFFF))) &&
      (t.resource / 2 ^ 28 == 2 || if isGroupDst r.peer then p.routes.groups.any fun g => g.group == r.peer - 0xF000
       else (planRoute p r.peer r.vc t.alt).isSome))

/-- The foreseen neighbour of every port that a table uses is one node of the MANIFEST (R394). -/
def checkForeseen (img : List Byte) (p : Plan) : Refuse :=
  eachRec p.tables 19 (secIndex img 3) fun t =>
    t.resource / 2 ^ 28 != 1 && t.resource / 2 ^ 28 != 2 || (t.runs.all (·.use == 0)) ||
      (match foreseenList p t.alt (t.resource % 512) with
       | [] => true
       | [d] => manKind p d != 0
       | _ => false)

/-! ## RECORD: work records -/

/-- The common header (R62): KIND of its section, VER, unit and step. VER is 1 (DEDUCED from R50, log 13). -/
def headOk (p : Plan) (sec : Nat) (l : List Byte) : Bool :=
  natAt l 0 1 == sec - 6 && natAt l 1 1 == 1 && decide (natAt l 8 4 < p.steps.length) &&
    decide (natAt l 4 1 / 16 < 4 ∨ natAt l 4 1 / 16 = 15)

/-- An FP32 code is a NaN or an infinity. -/
def notFinite (v : Nat) : Bool := decide (0x7F800000 ≤ v % 2 ^ 31)

/-- LO is greater than HI, compared as numbers. -/
def clipCrossed (fmt lo hi : Nat) : Bool :=
  match readOperand false fmt lo, readOperand false fmt hi with
  | .fin n m, .fin k q => decide ((if k then -(q : Int) else q) < (if n then -(m : Int) else m))
  | .inf n, .inf k => !n && k
  | .inf n, .fin _ _ => !n
  | .fin _ _, .inf k => k
  | _, _ => false

/-- An OCD meets R119. -/
def ocdOk (l : List Byte) : Bool :=
  let o := ocdRec l
  let fp16 := o.fmt == 1
  decide (1 ≤ o.fmt) && decide (o.fmt ≤ 3) && decide (o.rnd ≤ 3) && decide (o.ovf ≤ 2) && decide (natAt l 3 1 ≤ 1) && zeros l 0x14 4 &&
    !notFinite o.scale.toNat && !notFinite o.bias.toNat &&
    (!o.clip || (!(codeIsNan o.fmt o.lo.toNat) && !(codeIsNan o.fmt o.hi.toNat) && !clipCrossed o.fmt o.lo.toNat o.hi.toNat)) &&
    (!(o.clip && fp16) || (decide (o.lo.toNat < 65536) && decide (o.hi.toNat < 65536))) &&
    (o.fmt != 3 || (o.rnd == 0 && o.ovf == 0 && !o.clip && o.scale == 0x3F800000 && o.bias == 0))

/-- A range lies wholly inside a region of this device. -/
def inside (p : Plan) (region ofs len : Nat) : Bool := p.regions.any fun r => r.id == region && decide (ofs + len ≤ r.size)

/-- The level of this plan's device in a tree; its zenith. -/
def treeAt (p : Plan) (id : Nat) : Option (Tree × TreeNode) :=
  (p.trees.find? (·.id == id)).bind fun t => (t.node p.node).map fun n => (t, n)

/-- A reduction record meets R137, R139 and R307. -/
def redOk (p : Plan) (l : List Byte) : Bool :=
  let r := redBody l
  l.length == 80 && decide (natAt l 4 1 % 16 ≤ 1) && decide (natAt l 4 1 / 16 < 4) && r.tree != 0 && decide (1 ≤ r.op) && decide (r.op ≤ 3) &&
    (r.inFmt == 1 || r.inFmt == 2) && decide (r.n ≤ 65536) && flowOk r.inFlow && flowOk r.outFlow &&
    ocdOk (l.drop 0x30) && r.ofs % elemSize r.ocd.fmt == 0 &&
    (if r.op = 3 then decide (1 ≤ r.shares) && decide (r.shares ≤ 4095) else r.shares == 0 && r.shareLen == 0) &&
    (match treeAt p r.tree with
     | some (t, n) =>
       decide (1 ≤ n.level) &&
         (r.op != 3 || (decide (r.n ≤ r.shares * r.shareLen) && decide (r.shares ≤ t.members.length) &&
           decide (r.outFlow + r.shares - 1 ≤ 4095))) &&
         (if n.node = t.zenith then
            r.ocd.fmt != 3 && (r.op != 2 || r.region != 0xFFFFFFFF) && (r.op != 3 || flowOk (r.outFlow + r.shares - 1)) &&
              (r.region == 0xFFFFFFFF || inside p r.region r.ofs (r.n * elemSize r.ocd.fmt))
          else r.ocd.fmt == 3 && r.region == 0xFFFFFFFF)
     | none => false)

/-- A barrier record meets R148. -/
def barOk (p : Plan) (l : List Byte) : Bool :=
  let r := barBody l
  l.length == 48 && decide (natAt l 4 1 % 16 < 4) && r.tree != 0 && decide (natAt l 0x12 1 ≤ 8) &&
    flowOk r.inFlow && flowOk r.outFlow && (r.ops.all fun o => decide (1 ≤ o) && decide (o ≤ 8)) &&
    zeros l (0x18 + r.ops.length) (8 - r.ops.length) && r.ofs % 8 == 0 &&
    (match treeAt p r.tree with
     | some (t, n) => decide (1 ≤ n.level) &&
         (r.region == 0xFFFFFFFF || (n.node == t.zenith && inside p r.region r.ofs (8 * r.ops.length)))
     | none => false)

/-- A node that a record names stands in the MANIFEST, or is a group that the plan defines (04 R164; 09 R306; DEDUCED, log 13). -/
def nodeNamed (p : Plan) (n : Nat) : Bool :=
  manKind p n != 0 || (isGroupDst n && p.routes.groups.any fun g => g.group == n - 0xF000)

/-- A pool record meets R179, R180, R164 and R307. IDX_REGION or DEST_REGION beside FABRIC is 0xFFFFFFFF (R179); that another value there is
refused R180 does not list (DESIGN CHOICE, log 104). -/
def poolOk (p : Plan) (l : List Byte) : Bool :=
  let r := poolBody l
  let die := natAt l 4 1 / 16
  let ixl := ixlLen r.weightMode r.maxBags r.maxIndices
  let osz := elemSize r.ocd.fmt
  let out := r.rowLen * osz
  l.length == 0x78 && decide (natAt l 4 1 % 16 ≤ 1) && decide (die < 4) &&
    decide (1 ≤ r.rowLen) && decide (r.rowLen ≤ 4096) && (r.elemFmt == 1 || r.elemFmt == 2) && decide (r.weightMode ≤ 2) &&
    decide (natAt l 0x28 1 ≤ 1) && decide (natAt l 0x29 1 < 8) && decide (natAt l 0x40 1 ≤ 1) && zeros l 0x41 1 && zeros l 0x46 2 && zeros l 0x74 4 &&
    decide (1 ≤ r.rows) && decide (1 ≤ r.maxBags) && decide (r.maxBags ≤ 8192) && decide (r.maxIndices ≤ 1044480) &&
    r.tableOfs % 32 == 0 && r.rowStride % 32 == 0 && decide (r.rowLen * elemSize r.elemFmt ≤ r.rowStride) &&
    inside p r.tableRegion (r.tableOfs + (r.rows - 1) * r.rowStride) (r.rowLen * elemSize r.elemFmt) &&
    (!r.partitioned || p.regions.any fun q => q.id == r.tableRegion && q.placement == 0 && q.die == die) &&
    (if r.fabricIdx then flowOk r.inFlow && manKind p r.inSrc != 0 && r.idxRegion == 0xFFFFFFFF && decide (ixl ≤ 3145728)
     else r.idxOfs % 8 == 0 && inside p r.idxRegion r.idxOfs ixl && decide (r.inFlow < 4096)) &&
    decide (ixl ≤ 8388608) &&
    (if r.fabricDest then flowOk r.outFlow && nodeNamed p r.destNode && r.destRegion == 0xFFFFFFFF && decide (r.maxBags * ceilDiv r.rowLen (perCell r.ocd.fmt) ≤ 65536)
     else r.destOfs % osz == 0 && r.outStride % osz == 0 && decide (out ≤ r.outStride) && decide (r.outFlow < 4096) &&
       inside p r.destRegion r.destOfs ((r.maxBags - 1) * r.outStride + out)) &&
    decide (r.maxBags * out ≤ 4194304) && ocdOk (l.drop 0x58) && r.ocd.fmt != 3 &&
    (r.ocd.fmt != 1 || decide (r.empty.toNat < 65536)) &&
    (!r.emptyCfg || !(codeIsNan r.ocd.fmt r.empty.toNat) || r.empty.toNat == canonicalNan r.ocd.fmt)

/-- FIRM ticks of a pseudo-channel in a context. -/
def firmTicks (p : Plan) (c : StepRec × Nat × Nat) (stack pc : Nat) : Nat :=
  tickSum (ctxRuns p c (5 * 2 ^ 28 + stack * 32 + pc) (·.use == 8))

/-- A home record meets R222, R224 and R307; `most` is the largest MAX_ACTIONS of the plan. -/
def homeOk (s : State) (p : Plan) (most : Nat) (l : List Byte) : Bool :=
  let h := homeBody l
  let n := natAt l 0x10 2
  let regs := natAt l 0x12 1
  let dies := (homeNeeds p h).map (· / 16)
  natAt l 4 1 == 0xF0 && decide (n ≤ 256) && l.length == 0x60 + 16 * n && decide (1 ≤ regs) && decide (regs ≤ 16) && zeros l 0x13 1 && zeros l 0x18 8 &&
    decide (h.maxActions ≤ 16384) && ((List.range 16).all fun k => decide (k < regs) || natAt l (0x20 + 4 * k) 4 == 0xFFFFFFFF) &&
    (h.regions.all fun id => p.regions.any fun q => q.id == id && !(q.flags.testBit 0) && !(q.flags.testBit 1)) &&
    risesStrictly (h.flows.map (·.submitter)) && (h.flows.all fun f => manKind p f.submitter == 2 && flowOk f.reqFlow && flowOk f.rspFlow &&
      decide (1 ≤ f.groups) && decide (f.groups ≤ 4096) && decide (f.voteBase + f.voteCount ≤ 512)) &&
    ((recsOf 16 n (l.drop 0x60)).all fun x => zeros x 12 4) &&
    decide ((h.flows.map (·.reqFlow)).Nodup) && decide ((h.flows.map (·.rspFlow)).Nodup) &&
    allApart (h.flows.map fun f => (f.voteBase, f.voteCount)) &&
    (((planCtxs p).filter fun c => c.1.no == natAt l 8 4).all fun c => (homeNeeds p h).all fun u =>
      decide (ceilDiv (16 * h.maxActions) 5 + 256 ≤ tickSum (recRuns p c (unitUnder p c.2.2 u) 0xB (natAt l 12 4)))) &&
    (planCtxs p).all fun c => dies.all fun d => (List.range (Config.stacksPerDie s.mfg.grade)).all fun st =>
      (List.range 32).all fun pc => decide (2 * most ≤ firmTicks p c (5 * d + st) pc)

/-- A Mover record meets R238, R241, R164 and R307. -/
def movOk (p : Plan) (l : List Byte) : Bool :=
  let r := movBody l
  let op := natAt l 0x10 1
  let copyRegion := op == 1 && !r.fabricSrc
  l.length == 0x40 && (op == 1 || op == 2) && decide (natAt l 0x11 1 ≤ 1) && decide (natAt l 0x12 1 ≤ 1) && decide (natAt l 0x13 1 ≤ 1) &&
    zeros l 0x3C 4 && decide (natAt l 4 1 / 16 < 4) && decide (r.len ≤ 2 ^ 36) &&
    (!(r.fabricSrc || r.fabricDst) || decide (r.len ≤ 3145728)) &&
    (if r.fabricSrc then flowOk r.inFlow && manKind p r.inSrc != 0 else decide (r.inFlow < 4096)) && (if r.fabricDst then flowOk r.outFlow && nodeNamed p r.destNode else decide (r.outFlow < 4096)) &&
    (if copyRegion then inside p r.srcRegion r.srcOfs r.len else r.srcRegion == 0xFFFFFFFF) &&
    (if r.fabricDst then r.dstRegion == 0xFFFFFFFF else inside p r.dstRegion r.dstOfs r.len) &&
    (!(copyRegion && !r.fabricDst) || !meet (r.srcRegion, r.srcOfs, r.len) (r.dstRegion, r.dstOfs, r.len)) &&
    (op != 2 || (!r.fabricSrc && !r.digest)) &&
    (r.fabricDst || p.regions.all fun q => q.id != r.dstRegion || !(q.flags.testBit 0 || q.flags.testBit 1 || q.flags.testBit 2)) &&
    (!copyRegion || r.digest || !isStaging p r.srcRegion)

/-- One work record of a section. -/
def workOk (s : State) (p : Plan) (most sec : Nat) (l : List Byte) : Bool :=
  headOk p sec l &&
    (if sec = 7 then (if natAt l 4 1 / 16 = 15 then barOk p l else redOk p l)
     else if sec = 8 then poolOk p l else if sec = 9 then homeOk s p most l else movOk p l)

/-- A loss entry's NODE stands in the MANIFEST and its UNIT names a place of its KIND: a port code, a lane die, an engine, with logical
position 0 for a home agent and a Mover, or 0 for a device (04 R164; R346, R621). -/
def lossOk (p : Plan) (x : Loss) : Bool :=
  manKind p x.node != 0 &&
    (match x.kind with
     | 1 => codeOk x.unit
     | 2 => decide (x.unit < 16)
     | 3 => decide (x.unit < 4096) && wfUnit x.unit && (x.unit % 16 != 4 || decide (x.unit < 256))
     | 4 => x.unit == 0
     | _ => false)

/-- An ALTERNATES record meets R621. -/
def altOk (p : Plan) (l : List Byte) : Bool :=
  let a := altRec l
  let n := natAt l 2 2
  decide (1 ≤ a.set) && zeros l 1 1 && zeros l 5 11 && decide (1 ≤ n) && decide (n ≤ 64) && decide (natAt l 4 1 ≤ 8) &&
    ((recsOf 8 n (l.drop 16)).all fun x => zeros x 3 1 && lossOk p (lossRec x)) &&
    ((recsOf 8 (natAt l 4 1) (l.drop (16 + 8 * n))).all fun x => zeros x 3 5) &&
    (a.maps.all fun m => (m.kind == 3 || m.kind == 4) && decide (m.src < 4) && decide (m.dst < 4) && m.src != m.dst &&
      a.losses.contains ⟨p.node, 3, m.kind + 16 * m.src⟩) &&
    decide ((a.maps.map fun m => (m.kind, m.src)).Nodup)

/-- The code RECORD. -/
def checkRecords (s : State) (img : List Byte) (p : Plan) : Refuse :=
  let work := workSecs img
  let most := ((p.work.map fun w => match w.body with
    | .home h => h.maxActions
    | _ => 0).max?).getD 0
  let homes := (work.filter (·.1 == 9)).map fun w => natAt w.2.2 8 4
  firstOf [
    checkRoutes img p,
    eachRec p.tables 19 (secIndex img 3) fun t =>
      decide (5 ≤ t.resource / 2 ^ 28) || t.runs.all (runNamesRoute p t),
    checkForeseen img p,
    firstOf ((List.range p.trees.length).map fun i => need (treeOk p (secBytes img 6) i) 19 (secIndex img 6) i),
    firstOf (work.map fun w => need (workOk s p most w.1 w.2.2) 19 (secIndex img w.1) w.2.1),
    eachIdx homes 19 (secIndex img 9) 0 fun i st => !(homes.take i).contains st,
    eachRec (altRaw (secCount img 0xB) (secBytes img 0xB)) 19 (secIndex img 0xB) (altOk p),
    risesFrom p.alts 19 (secIndex img 0xB) 0 (·.set)]

/-- Every check of the loader on the bytes that it read, in the order of R68; the structural checks in ascending code. -/
def checkImage (s : State) (ofs len : Nat) (pending : Bool) (img : List Byte) : Refuse :=
  match checkLength s ofs len img with
  | some r => some r
  | none =>
    let p := planOf img
    firstOf [checkSignature s img, checkFormat img, checkIdentity s (secIndex img 1) p (natAt img 0x10 1) (natAt img 0x11 1) pending,
      checkAbsent s img p, checkSlots img p, checkMarkers img p, checkResend img p, checkOccupancy img p, checkUpdown img p,
      checkEngines img p, checkPoolRate s img p, checkSteps img p pending, checkBands img p, checkRegions s img p,
      checkRecords s img p]

end Sys2Proof.Machine
end

