-- ==== Sys2Proof/Machine/Contrail.lean ====
section
/-! DEFINITION. Contrail: the Repro Set and Timing Set digests, the two chains, execution entries, the ledger ring and the run
certificates (12 R423 to R446). -/

namespace Sys2Proof.Machine

/-! ## Digests of the sets (R423, R424) -/

/-- REPRO_DIGEST from its four parts (R423). -/
def reproDigest (fw plan : Digest) (mode : Word) (tree : Digest) : Digest :=
  sha384 (digestBytes fw ++ digestBytes plan ++ leBytes 8 mode.toNat ++ digestBytes tree)

/-- REPRO_DIGEST of a plan. -/
def planRepro (p : Plan) : Digest := reproDigest p.fwDigest p.planDigest p.numericMode p.treeDigest

/-- TIMING_DIGEST of the device (R424). -/
def timingDigest (s : State) : Digest :=
  sha384 (leBytes 8 s.mfg.dumap.toNat ++ leBytes 1 s.mfg.grade ++ leBytes 1 s.mfg.stepping)

/-! ## The ledger ring (R434 to R436) -/

/-- Bytes of the ring. -/
def ringSize : Nat := 4194304

/-- Bytes of the ring that records other than certificates may fill. -/
def ringOpen : Nat := 4194304 - 65536

/-- Bytes in use. -/
def ringUse (l : List LedgerRec) : Nat := (l.map (·.bytes.length)).sum

/-- After a change of the ring: FIRST, FULL, and CT_BACKLOG where its use has risen to 87.5 % (R436, R445). -/
def ringNote (s : State) : State :=
  let use := ringUse s.ct.ring
  let s := setF s 0 Reg.secCtFirst_first (((s.ct.ring.map (·.no)).head?).getD (getF s 0 Reg.secCtNext_next))
  let s := setB s 0 Reg.secCtState_full (decide (ringOpen < use + 88))
  let high := decide (3670016 ≤ use)
  let s := if high && !s.ct.backlog then fault s 0x41 0x1200 0 0xFFFF (((s.ct.ring.map (·.no)).getLast?).getD 0) 0 else s
  { s with ct := { s.ct with backlog := high } }

/-- A ledger record with its prefix (R434). -/
def ledgerBytes (kind : Nat) (body : List Byte) : List Byte :=
  leBytes 1 kind ++ [0] ++ leBytes 2 (body.length + 8) ++ leBytes 4 0 ++ body

/-- The record takes the next number. -/
def ledgerPut (s : State) (kind : Nat) (body : List Byte) : State :=
  let n := getF s 0 Reg.secCtNext_next
  let s := setF s 0 Reg.secCtNext_next (n + 1)
  ringNote { s with ct := { s.ct with ring := s.ct.ring ++ [⟨n, kind, ledgerBytes kind body⟩] } }

/-- The run counts a dropped record and carries DROPPED (R436). -/
def noteDropped (s : State) : State :=
  let s := bump s 0 Reg.secCtCntDrop
  { s with ct := { s.ct with run := s.ct.run.map fun r => { r with dropped := r.dropped + 1, flags := r.flags ||| 0x80 } } }

/-- A record joins the ring; an entry or AUX record without room outside the reserve is dropped, and for a certificate without
room the oldest certificate gives way (R436). -/
def ledgerAppend (s : State) (kind : Nat) (body : List Byte) : State :=
  let need := body.length + 8
  if kind = 3 then
    if ringUse s.ct.ring + need ≤ ringSize then ledgerPut s kind body
    else
      let s := fault s 0x40 0x1200 0 0xFFFF (((s.ct.ring.find? (·.kind == 3)).map (·.no)).getD 0) 0
      ledgerPut { s with ct := { s.ct with ring := s.ct.ring.eraseP (·.kind == 3) } } kind body
  else if ringUse s.ct.ring + need ≤ ringOpen then ledgerPut s kind body
  else noteDropped s

/-! ## The chains (R428, R441) -/

/-- First head of a chain (R428). -/
def firstHead (s : State) (tag : Nat) (repro : Digest) : Digest :=
  sha384 (leBytes 4 tag ++ leBytes 2 (nodeId s) ++ digestBytes repro)

/-- The chains of a run start at the start barrier, at a plan boundary, or where a device rejoins. `flags` are the RUNFLAGS at
the start. -/
def openChains (s : State) (p : Plan) (startAt firstExec flags : Nat) : State :=
  let repro := planRepro p
  let s := setDigest s 0 Reg.secCtRhead_head (firstHead s 0x52435455 repro)
  let s := setDigest s 0 Reg.secCtXhead_head (firstHead s 0x58435455 repro)
  let s := setF (setF s 0 Reg.secCtState_open 1) 0 Reg.secCtState_certSeq 0
  let r : RunRec :=
    { planId := p.planId, startAt := startAt, firstExec := firstExec, execs := 0, commits := 0, lastEnd := startAt
      numericMode := p.numericMode, fwDigest := p.fwDigest, planDigest := p.planDigest, treeDigest := p.treeDigest
      repro := repro, flags := flags, prevCert := 0, dropped := 0 }
  { s with ct := { s.ct with run := some r } }

/-- RUNFLAGS bit of a band other than Nominal. -/
def bandFlag (band : Nat) : Nat := if band = 0 then 0 else if band = 1 then 2 else 4

/-- Bits join RUNFLAGS; any of WARM, HOT and CRITICAL ends NOMINAL_ONLY (R439). -/
def joinFlags (s : State) (f : Nat) : State :=
  let join := fun (r : RunRec) =>
    let g := r.flags ||| f
    { r with flags := if f &&& 0xE = 0 then g else g - g % 2 }
  { s with ct := { s.ct with run := s.ct.run.map join } }

/-! ## Component digests (R429) -/

/-- Section type of a work record (R62). -/
def workSection (w : WorkRec) : Nat :=
  match w.body with
  | .red _ => 7
  | .bar _ => 7
  | .pool _ => 8
  | .home _ => 9
  | .mov _ => 0xA

/-- Records of the current step in a section, each with its index there. -/
def indexedWork (s : State) (sec : Nat) : List (Nat × WorkRec) :=
  match s.pln.active with
  | some p =>
    if s.pln.idleExec then []
    else (withOfs (p.work.filter fun w => workSection w == sec)).filter fun w => w.2.step == getF s 0 Reg.plnStep_step
  | none => []

/-- Item of a record with its index; nothing where this device formed none. -/
def itemOf (s : State) (w : Nat × WorkRec) : List Byte :=
  match s.eng.job (recUnit s w.2) w.2.seq with
  | some j => if j.item.isEmpty then [] else leBytes 4 w.1 ++ j.item
  | none => []

/-- Item of a part (R429). -/
def partItem (s : State) (votes : BitVec 512) (p : Part) : List Byte :=
  leBytes 4 (getF s 0 Reg.plnStep_step) ++ leBytes 2 p.submitter ++ leBytes 4 p.seq ++ leBytes 1 p.status ++
    leBytes 1 (if p.commits votes then 1 else 0) ++ leBytes 1 p.reads.length ++ p.reads.flatMap fun w => leBytes 8 w.toNat

/-- An AUX record (R433) from what a Mover holds of it. -/
def auxRecord (kind : Nat) (item : List Byte) : List Byte :=
  leBytes 1 kind ++ leBytes 3 0 ++ item.take 8 ++ leBytes 4 0 ++ item.drop 8

/-- The place of a Mover record in MOV_DIGEST: its own UNIT, whichever die serves it, then its SEQ (R425, R429). -/
def moverOrder (w : WorkRec) : Nat := (w.unit / 16 % 16 * 16 + w.unit / 256) * 2 ^ 32 + w.seq

/-- MOVER AUX records of the execution, in ascending (UNIT, SEQ) (R429). -/
def moverAux (s : State) : List (List Byte) :=
  let ws := ((indexedWork s 0xA).map (·.2)).mergeSort fun a b => decide (moverOrder a ≤ moverOrder b)
  ws.filterMap fun w =>
    match s.eng.job (recUnit s w) w.seq with
    | some j => if j.item.isEmpty then none else some (auxRecord 1 j.item)
    | none => none

/-- The four component digests of a committed execution. -/
def components (s : State) (votes : BitVec 512) : List Digest :=
  [sha384 ((indexedWork s 7).flatMap (itemOf s)), sha384 ((indexedWork s 8).flatMap (itemOf s)),
    sha384 (s.eng.parts.flatMap (partItem s votes)), sha384 (moverAux s).flatten]

/-! ## Execution entries (R430 to R435) -/

/-- What a boundary tells Contrail of the execution that ends. -/
structure ExecEnd where
  commit : Bool
  cause : Nat
  source : Nat
  stepNo : Nat
  attempt : Nat
  sign : Bool
  rejoin : Bool
  last : Bool
  votes : BitVec 512
  deriving DecidableEq, Repr

/-- FLAGS of an entry (R430). -/
def entryFlags (s : State) (x : ExecEnd) : Nat :=
  (if x.sign then 1 else 0) + (if x.rejoin then 2 else 0) + (if s.pln.heldBefore then 4 else 0) +
    (if s.eng.spared then 8 else 0) + (if s.pln.repairRan then 16 else 0)

/-- Bytes 0x000 to 0x02F of an entry. -/
def entryHead (s : State) (r : RunRec) (x : ExecEnd) (naux commits : Nat) : List Byte :=
  leBytes 2 (nodeId s) ++ leBytes 1 (if x.commit then 1 else 0) ++ leBytes 1 x.cause ++ leBytes 2 x.source ++
    leBytes 1 (stepBand s) ++ leBytes 1 (curAlt s) ++ leBytes 8 (curExec s) ++ leBytes 4 x.stepNo ++ leBytes 1 x.attempt ++
    leBytes 1 (entryFlags s x) ++ leBytes 2 naux ++ leBytes 8 commits ++ leBytes 8 (stepBase s - r.startAt) ++ leBytes 8 0

/-- The new result head (R432). -/
def nextResult (s : State) (x : ExecEnd) (commits : Nat) (comps : List Digest) : Digest :=
  let old := getDigest s 0 Reg.secCtRhead_head
  if x.commit then sha384 (digestBytes old ++ leBytes 8 commits ++ leBytes 4 x.stepNo ++ comps.flatMap digestBytes) else old

/-- The entry is written in the ledger's mode (R435). -/
def writesEntry (s : State) (r : RunRec) (x : ExecEnd) (naux : Nat) : Bool :=
  getF s 0 Reg.secCtCfg_mode == 0 || !x.commit || x.sign || decide (0 < naux) || r.execs == 0 || x.last

/-- Contrail forms the entry of an execution at its boundary and advances both chains (R431 to R435). A staging digest finished in the
boundary's tick waits for the next entry (R433, R444). -/
def ctEntry (s : State) (x : ExecEnd) : State :=
  match s.ct.run with
  | none => s
  | some r =>
    let own := (s.ct.stageAux.filter fun a => decide (a.1 < stepEnd s)).map (·.2)
    let aux := (if x.commit then moverAux s else []) ++ own
    let comps := if x.commit then components s x.votes else [0, 0, 0, 0]
    let commits := r.commits + (if x.commit then 1 else 0)
    let result := nextResult s x commits comps
    let body := entryHead s r x aux.length commits ++ comps.flatMap digestBytes ++
      digestBytes (sha384 own.flatten) ++ digestBytes result
    let exec := sha384 (digestBytes (getDigest s 0 Reg.secCtXhead_head) ++ body)
    let written := writesEntry s r x aux.length
    let s := setDigest (setDigest s 0 Reg.secCtRhead_head result) 0 Reg.secCtXhead_head exec
    let s := bump s 0 Reg.secCtCntEntries
    let f := bandFlag (stepBand s) + (if s.pln.heldBefore then 8 else 0) + (if curAlt s = 0 then 0 else 0x10) +
      (if s.eng.spared then 0x20 else 0) + (if s.pln.repairRan then 0x100 else 0)
    let s := joinFlags { s with ct := { s.ct with
      run := some { r with execs := r.execs + 1, commits := commits, lastEnd := stepEnd s }
      stageAux := s.ct.stageAux.filter fun a => decide (stepEnd s ≤ a.1) } } f
    if written then (aux.foldl (fun s a => ledgerAppend s 2 a) (ledgerAppend s 1 (body ++ digestBytes exec))) else s

/-! ## Certificates (R437 to R441) -/

/-- DEVREC_DIGEST (16 R529). -/
def devrecOf (s : State) : Digest :=
  sha384 (s.mfg.recordBytes ++ (match s.owner with
    | some o => o.recordBytes
    | none => []))

/-- Bytes 0x000 to 0x21F of a certificate (R439). -/
def certBody (s : State) (r : RunRec) (kind last : Nat) : List Byte :=
  leBytes 4 0x54435455 ++ leBytes 2 1 ++ leBytes 1 kind ++ leBytes 1 last ++ leBytes 2 (nodeId s) ++ leBytes 1 s.mfg.grade ++
    leBytes 1 s.mfg.stepping ++ leBytes 4 r.flags ++ leBytes 16 r.planId.toNat ++ leBytes 8 r.startAt ++ leBytes 8 r.firstExec ++
    leBytes 8 r.execs ++ leBytes 8 r.commits ++ leBytes 8 (r.execs - r.commits) ++ leBytes 8 r.lastEnd ++
    leBytes 4 (getF s 0 Reg.secCtState_certSeq) ++ leBytes 4 r.dropped ++ leBytes 8 r.numericMode.toNat ++
    digestBytes r.fwDigest ++ digestBytes r.planDigest ++ digestBytes r.treeDigest ++ digestBytes r.repro ++
    digestBytes (timingDigest s) ++ digestBytes (devrecOf s) ++
    digestBytes (getDigest s 0 Reg.secCtRhead_head) ++ digestBytes (getDigest s 0 Reg.secCtXhead_head) ++ digestBytes r.prevCert ++
    leBytes 16 0

/-- SD0 signs a certificate of a KIND with AK (R440). It joins the ledger, SD0 keeps it, it meets a SIGN command that waits, and every KIND
but INTERIM closes the chains, so that the next certificate is the first of its run (R437, R438, R445). -/
def signCert (s : State) (kind last : Nat) : State :=
  match s.ct.run with
  | none => s
  | some r =>
    let body := certBody s r kind last
    let a := akSign s body
    let cert := body ++ a.1
    let s := bump a.2 0 Reg.secCtCntCerts
    let s := setF s 0 Reg.secCtState_certSeq (getF s 0 Reg.secCtState_certSeq + 1)
    let s := { s with ct := { s.ct with
      signReq := false, certs := kvPut s.ct.certs kind cert
      run := some { r with prevCert := sha384 cert } } }
    let s := ledgerAppend s 3 cert
    if kind = 1 then s
    else setF (setF { s with ct := { s.ct with run := none } } 0 Reg.secCtState_open 0) 0 Reg.secCtState_certSeq 0

/-- The certificate of a boundary: FINAL where the plan ends there, else INTERIM for a SIGN step or a SIGN command (R438). -/
def ctCertificate (s : State) (sign ends halted : Bool) : State :=
  let due := sign || s.ct.signReq
  let s := { s with ct := { s.ct with signReq := false } }
  if ends then signCert s 2 (if halted then 1 else 0) else if due then signCert s 1 0 else s

/-! ## The commands -/

/-- SIGN in SEC_CT_CMD (R438). -/
def ctSign (s : State) : State := { s with cmdStatus := 0, ct := { s.ct with signReq := true } }

/-- A write of SEC_CT_ACK frees the records below a number; outside FIRST to NEXT it is ignored with a range error (R445). -/
def ctAck (s : State) (n : Nat) : State :=
  if n < getF s 0 Reg.secCtFirst_first ∨ getF s 0 Reg.secCtNext_next < n then { s with cmdStatus := 7 }
  else
    let s := setF { s with cmdStatus := 0 } 0 Reg.secCtAck_ack n
    ringNote { s with ct := { s.ct with ring := s.ct.ring.filter fun r => decide (n ≤ r.no) } }

/-- SIGN (R438). -/
def execSign (s : State) : Host.Outcome State Fault Refusal :=
  whenServes s .service (.next (ctSign s))

/-- A write of SEC_CT_ACK (R434). -/
def execSecCtAckWrite (value : Word) (s : State) : Host.Outcome State Fault Refusal :=
  whenServes s .service (.next (ctAck s value.toNat))

end Sys2Proof.Machine
end

