-- ==== Sys2Proof/Machine/Topology.lean ====
section
/-! DEFINITION. Topology and time: the foreseen neighbour, IDENT messages, the checks of a neighbour, remapping, and the Meridian
counter (11 R390 to R422). -/

namespace Sys2Proof.Machine

/-! ## The governing plan and what it foresees (R394, R395, R399) -/

/-- The governing plan (R399). -/
def govPlan (s : State) : Option Plan :=
  if planRuns s then s.pln.active else if getF s 0 Reg.plnState_staged = 2 then s.pln.staged else none

/-- The alternate set whose routes apply: set 0 outside a plan (R418). -/
def govAlt (s : State) : Nat := if planRuns s then curAlt s else 0

/-- The foreseen neighbour of a logical port (R394). -/
def foreseen (s : State) (code : Nat) : Option Nat :=
  match govPlan s with
  | some p =>
    match foreseenList p (govAlt s) code with
    | [d] => some d
    | _ => none
  | none => none

/-- Ports of the target through which a plan routes a logical port's foreseen neighbour (R394, R395). -/
def targetPorts (p : Plan) (alt d code : Nat) : List Nat :=
  (([0, 1, 2, 3].filterMap fun v => (planRoute p d v alt).map (routePorts p)).find? fun l => l.contains code).getD []

/-- The pairing index of a port: that of the logical port that it carries (R395, R403). -/
def pairIndex (s : State) (code : Nat) : Option Nat :=
  match govPlan s, foreseen s (logicalPort s code) with
  | some p, some d => some ((targetPorts p (govAlt s) d (logicalPort s code)).idxOf (logicalPort s code))
  | _, _ => none

/-- Port codes of the device as its ports run. -/
def allPorts (s : State) : List Nat :=
  (List.range (Config.ports s.mfg.grade)).flatMap fun p => codesOf (splitNow s p) p

/-! ## Losses (R393, R402) -/

/-- A foreseen port that counts as lost: no signal, a bring-up that has failed, a quarantine other than EXTRA, or no IDENT in time (R402). -/
def portIsLost (s : State) (code : Nat) : Bool :=
  let l := linkOf s code
  (foreseen s (logicalPort s code)).isSome &&
    (l.state == 0 || (l.state == 1 && decide (0 < l.fails)) || (l.state == 3 && l.reason != 7) || (l.state == 2 && l.timedOut))

/-- Losses of the ports as they stand when a plan starts: one KIND 0x1 entry each. -/
def lostPorts (s : State) : List Loss :=
  ((allPorts s).filter (portIsLost s)).map fun c => ⟨nodeId s, 1, logicalPort s c⟩

/-- Ports to a neighbour: those that the plan foresees toward it under some alternate set, and those on which its IDENT stands
accepted (R393; DEDUCED, log 34). -/
def portsForeseen (s : State) (p : Plan) (d : Nat) : List Nat :=
  (allPorts s).filter fun c => (0 :: p.alts.map (·.set)).any (fun a => foreseenList p a (logicalPort s c) == [d]) ||
    (decide (2 ≤ portState s c) && ((linkOf s c).ident.map (·.node)) == some d)

/-- Entries as a barrier carries them: a neighbouring T4896 that lost every port is one KIND 0x4 entry (R393). -/
def packLosses (s : State) (l : List Loss) : List Loss :=
  match s.pln.active with
  | none => l
  | some p =>
    let lost := fun c => l.contains ⟨nodeId s, 1, c⟩
    let near := ((p.manifest.filter fun m => m.kind == 1 && m.node != nodeId s).map (·.node)).filter fun d =>
      let ports := portsForeseen s p d
      !ports.isEmpty && ports.all fun c => lost (logicalPort s c)
    let gone := (near.flatMap (portsForeseen s p)).map (logicalPort s)
    (l.filter fun x => !(x.node == nodeId s && x.kind == 1 && gone.contains x.unit)) ++ near.map fun d => ⟨d, 4, 0⟩

/-! ## The Meridian counter (R410 to R415) -/

/-- The root of time: the zenith of tree 0 of the governing plan (R413). -/
def timeRoot (s : State) : Bool :=
  match govPlan s with
  | some p => (p.trees.find? (·.id == 0)).map (·.zenith) == some (nodeId s)
  | none => false

/-- STATE of MER_SYNC: 0 FREE, 1 ACQUIRING, 2 SYNCED, 3 ROOT (R421). -/
def merState (s : State) : Nat :=
  match govPlan s with
  | none => 0
  | some _ => if timeRoot s then 3 else if 2 ≤ s.sync.good then 2 else 1

/-- The tree-0 parent of this device. -/
def timeParentNode (s : State) : Option Nat :=
  match govPlan s with
  | some p =>
    match p.trees.find? (·.id == 0) with
    | some t => ((t.node (nodeId s)).map (·.parent)).bind fun q => if q = 0xFFFF then none else some q
    | none => none
  | none => none

/-- The lowest-numbered IN_SERVICE port to the time parent (R413). -/
def timeParent (s : State) : Option Nat :=
  match timeParentNode s with
  | some d => (allPorts s).find? fun c => portState s c == 4 && ((linkOf s c).ident.map (·.node)) == some d
  | none => none

/-- Synchronisation counts for one time parent: under another one, or without one, it starts afresh (R413, R414, R421). -/
def settleTime (s : State) : State :=
  let q := timeParentNode s
  if s.sync.parent = q then s
  else
    setF (setF (setF { s with sync := { s.sync with parent := q, set := false, good := 0, heardAt := s.mer } }
      0 Reg.merSync_hold 0) 0 Reg.merSync_parentPort 0) 0 Reg.merSync_depth 0

/-- The device is synchronised (R414). -/
def isSynced (s : State) : Bool := decide (2 ≤ merState s)

/-- Two's complement in n bits. -/
def twos (n : Nat) (v : Int) : Nat := (v.emod (2 ^ n)).toNat

/-- A signed number of 64 bits in a payload. -/
def payInt (p : Payload) (ofs : Nat) : Int := (BitVec.ofNat 64 (payNat p ofs 8)).toInt

/-- A TIME cell leaves after every 16 markers with their mean arrival value (R411). -/
def timeSend (s : State) (code : Nat) : State :=
  let l := linkOf s code
  if 2 ≤ l.state ∧ 16 ≤ l.markers.length then
    let l16 := l.markers.take 16
    let last := (l16.map fun x => x.1).getLastD 0
    let total : Int := (l16.map fun x => x.2).sum
    let mean := total.fdiv 16
    let flags := (if timeRoot s then 1 else 0) + (if isSynced s then 2 else 0)
    let depth := if timeRoot s then 0 else getF s 0 Reg.merSync_depth
    let pay := leBytes 1 flags ++ leBytes 1 depth ++ leBytes 6 0 ++ leBytes 8 last ++ leBytes 8 (twos 64 mean)
    let s := setLink s { l with markers := l.markers.drop 16 }
    pushSvc s (logicalPort s code) (linkCell s 0x13 0 (payOf pay)) s.mer
  else s

/-- One phase step of 1/64 tick toward θ = 0, at most one in 1024 ticks (R410, R413). -/
def phaseStep (s : State) (theta : Int) : State :=
  let free : Bool := match s.sync.steppedAt with
    | some t => decide (t + 1024 ≤ s.mer)
    | none => true
  if decide (theta ≠ 0) && free then
    bump { s with sync := { s.sync with
      phase := s.sync.phase - (if 0 < theta then 1 else -1), steppedAt := some s.mer } } 0 Reg.merCntPhase
  else s

/-- A tick under a count that has moved. -/
def movedTick (d : Int) (t : Nat) : Nat := ((t : Int) + d).toNat

/-- A link's ticks under a count that has moved; its marker measurements begin afresh. -/
def moveLink (d : Int) (l : Link) : Link :=
  let m := movedTick d
  { l with
    since := m l.since, idleUntil := l.idleUntil.map m, resumeAt := l.resumeAt.map m, testEnd := l.testEnd.map m
    greetAt := l.greetAt.map m, sentAt := l.sentAt.map m, lastCell := l.lastCell.map m, markers := [], heard := []
    up := { l.up with sixLast := none, sixAt := l.up.sixAt.map m, readyAt := l.up.readyAt.map m, readyRx := none } }

/-- An egress queue's ticks under a count that has moved. -/
def moveEgress (d : Int) (e : Egress) : Egress :=
  let q := fun (l : List QCell) => l.map fun c => { c with readyAt := movedTick d c.readyAt }
  { e with
    plan := q e.plan, req := q e.req, rsp := q e.rsp, resend := q e.resend, svc := q e.svc
    ret := e.ret.map fun x => { x with sentAt := movedTick d x.sentAt } }

/-- Durations go on when the count is set outside a plan: every tick that the device holds as the start or the end of one moves with it. Ticks
that both ends of a link or a plan name stay (R410, R413; DEDUCED, log 102). -/
def moveTimes (s : State) (d : Int) : State :=
  let m := movedTick d
  { s with
    tie := if s.tie.tick = s.mer then { s.tie with tick := m s.mer } else s.tie
    lanes := { s.lanes with
      links := s.lanes.links.map (moveLink d)
      losses := s.lanes.losses.map fun x => { x with since := m x.since }
      rxAt := s.lanes.rxAt.map fun x => (x.1, wrapTicks (x.2 + 64 * d))
      tx := s.lanes.tx.map fun x => (x.1, { x.2 with upTo := m x.2.upTo }) }
    fab := { s.fab with
      egress := s.fab.egress.map (moveEgress d)
      rx := s.fab.rx.map fun r => { r with
        window := r.window.map fun w => { w with tick := m w.tick }, lastNew := m r.lastNew, lastReq := r.lastReq.map fun q => (q.1, m q.2) }
      ingress := s.fab.ingress.map fun x => (x.1, x.2.1, m x.2.2)
      freedAt := m s.fab.freedAt, takenAt := m s.fab.takenAt, home := s.fab.home.map fun x => (x.1, m x.2) }
    ct := { s.ct with stageAux := s.ct.stageAux.map fun a => (m a.1, a.2) }
    eng := { s.eng with checked := s.eng.checked.map fun x => (x.1, m x.2) }
    fw := { s.fw with writes := s.fw.writes.map fun x => (m x.1, x.2) }
    flt := { s.flt with counts := s.flt.counts.map fun e => { e with start := m e.start } }
    host := { s.host with
      policers := s.host.policers.map fun p => { p with since := m p.since }
      ports := s.host.ports.map fun p => { p with queues := p.queues.map fun q => { q with
        creditAt := m q.creditAt, frames := q.frames.map fun f => { f with stamp := m f.stamp } } }
      pools := s.host.pools.map fun p => { p with late := p.late.map fun x => (m x.1, x.2) }
      digestAt := s.host.digestAt.map fun x => (x.1, m x.2)
      locals := s.host.locals.map fun f => { f with stamp := m f.stamp }
      qps := s.host.qps.map fun q => { q with cnpAt := q.cnpAt.map m } }
    ctl := { s.ctl with
      sessions := s.ctl.sessions.map fun x => { x with last := m x.last }, access := s.ctl.access.map fun a => (m a.1, a.2) }
    pwr := { s.pwr with
      flashAt := s.pwr.flashAt.map m, freed := s.pwr.freed.map m, changeAt := s.pwr.changeAt.map m
      blocks := s.pwr.blocks.map fun b => { b with since := m b.since } }
    pln := { s.pln with handover := s.pln.handover.map m }
    mem := { s.mem with refreshAt := s.mem.refreshAt.map m }
    sync := { s.sync with steppedAt := s.sync.steppedAt.map m, heardAt := m s.sync.heardAt } }

/-- The count is set, 64 bits wide (R410, R413). -/
def setCount (s : State) (now : Nat) : State := { moveTimes s ((now : Int) - s.mer) with mer := now }

/-- A TIME cell of the time parent with its offset (R413 to R415). A count that is set ends the
measurements under way (DEDUCED, log 46). -/
def fromParent (s : State) (code : Nat) (p : Payload) (d theta : Int) : State :=
  let s := setF (setF (setF s 0 Reg.merSync_hold 0) 0 Reg.merSync_parentPort code) 0 Reg.merSync_depth (payNat p 1 1 + 1)
  let s := setF s 0 Reg.merSync_theta (twos 24 theta)
  let good := if theta.natAbs ≤ 12 then s.sync.good + 1 else 0
  let s := { s with sync := { s.sync with good := good, heardAt := s.mer } }
  if !planRuns s && !s.sync.set then
    let s := setCount s (twos 64 ((payNat p 8 8 : Int) + d.fdiv 64))
    bump { s with sync := { s.sync with set := true, phase := s.sync.phase - theta, heardAt := s.mer } } 0 Reg.merCntSet
  else
    let s := phaseStep s theta
    if planRuns s && decide (64 < theta.natAbs) then
      bump (faultVoid s 6 0x28 0x0D00 code 0xFFFF 0 (twos 24 theta)) 0 Reg.merCntSyncfail
    else s

/-- a_near over the 16 marker counts that end at MARKER. Before this device is synchronised its count and the far end's need not name the same
markers, and where they do not the last 16 arrivals stand in (R412; DEDUCED, log 46). -/
def nearMean (s : State) (code marker : Nat) : Option Int :=
  let heard := (linkOf s code).heard
  let mean := fun (l : List Int) => if l.length = 16 then some (l.sum.fdiv 16) else none
  let named := (List.range 16).filterMap fun k =>
    (heard.find? fun x => (x.1 + 1024 * k) % 2 ^ 42 == marker % 2 ^ 42).map (·.2)
  match mean named with
  | some a => some a
  | none => if isSynced s then none else mean ((heard.take 16).map (·.2))

/-- A TIME cell arrives: d and θ of the link, and from the time parent the count or the phase (R412, R413). -/
def timeTake (s : State) (code : Nat) (p : Payload) : State :=
  if 2 ≤ portState s code then
    let s := bump s (portNo code) Reg.fabCntTime
    match nearMean s code (payNat p 8 8) with
    | none => s
    | some near =>
      let far := payInt p 0x10
      let d := (wrapTicks (near + far)).fdiv 2
      let theta := (wrapTicks (near - far)).fdiv 2
      let s := setLink s { linkOf s code with delay := twos 24 d }
      let s := setF (setF s (portNo code) Reg.fabPortDelay_delay (twos 24 d)) (portNo code) Reg.fabPortDelay_theta (twos 24 theta)
      if timeParent s = some code then fromParent s code p d theta else s
  else s

/-- No TIME cell from the parent for 2^20 ticks: the phase holds (R415). -/
def timeLost (s : State) : State :=
  if (timeParentNode s).isSome && decide (s.sync.heardAt + 2 ^ 20 ≤ s.mer) then setF s 0 Reg.merSync_hold 1 else s

/-! ## IDENT (R396, R397) -/

/-- The plan that follows the running one (R71). -/
def nextDigest (s : State) : Digest :=
  if planRuns s && s.pln.follow then (s.pln.staged.map (·.planDigest)).getD 0 else 0

/-- Every byte of this port's IDENT before SIG_R (R397). REJOIN stands until the device runs the plan in full (R407, R408). -/
def identBody (s : State) (code : Nat) : List Byte :=
  let p := govPlan s
  let l := linkOf s code
  let chain := chainBytes s
  let flags := (if p.isSome then 1 else 0) + (if stepsRun s then 2 else 0) + (if getF s 0 Reg.plnState_active = 1 then 4 else 0) +
    (if (getF s 0 Reg.plnState_active = 1 ∧ s.pln.rejoin = true) ∨ s.pln.idleExec = true then 8 else 0) + (if isSynced s then 16 else 0)
  leBytes 2 ((p.map (·.node)).getD 0xFFFF) ++ leBytes 1 1 ++ leBytes 1 flags ++ leBytes 2 code ++
    leBytes 1 ((pairIndex s code).getD 0xFF) ++ [0] ++ leBytes 2 ((foreseen s (logicalPort s code)).getD 0xFFFF) ++
    leBytes 2 chain.length ++ leBytes 4 0 ++ leBytes 8 (if getF s 0 Reg.plnState_active = 1 then s.pln.startAt else 0) ++
    leBytes 16 l.nonce.toNat ++ leBytes 16 l.peer.toNat ++ digestBytes (getDigest s 0 Reg.secFwdig_digest) ++
    digestBytes ((p.map (·.planDigest)).getD 0) ++ digestBytes ((p.map planRepro).getD 0) ++ digestBytes (nextDigest s) ++
    chain ++ List.replicate ((8 - chain.length % 8) % 8) 0

/-- An IDENT is due: the first of DISCOVERY, one owed to the far end, one for a changed field, or every 65,536 ticks until a
far-end IDENT is accepted (R396). -/
def identDue (s : State) (code : Nat) (body : List Byte) : Bool :=
  let l := linkOf s code
  match l.sentAt with
  | none => true
  | some t =>
    (l.owed && (match l.greetAt with
      | some g => decide (g + 1024 ≤ s.mer)
      | none => true)) || l.sentMsg != body || (l.ident.isNone && decide (t + 65536 ≤ s.mer))

/-- The cells of a message, which AK signs, wait for the port's service queue (16 R526). -/
def identSend (s : State) (code : Nat) : State :=
  let l := linkOf s code
  let body := identBody s code
  if 2 ≤ l.state ∧ identDue s code body = true then
    let a := akSign s body
    let s := a.2
    let msg := body ++ a.1
    let src := if (govPlan s).isSome then nodeId s else 0xFFFE
    let cells := (withOfs (chunks 48 msg.length msg)).map fun x =>
      mkCell 0x12 false 3 0xFFFE src 0xFFD 0 (linkStep s) x.1 (payOf x.2)
    let s := setLink s { l with
      txMsg := cells, sentAt := some s.mer, sentMsg := body, owed := false
      greetAt := if l.owed then some s.mer else l.greetAt }
    feedMsg 64 s (logicalPort s code)
  else s

/-! ## Receiving an IDENT (R397 to R403) -/

/-- Length of a message by its CHAIN_LEN. -/
def identLen (m : List Byte) : Nat := 0xF8 + ceilDiv (natAt m 0xA 2) 8 * 8 + 96

/-- A complete IDENT (R397). -/
def identComplete (m : List Byte) : Bool :=
  decide (1 ≤ natAt m 0xA 2) && decide (natAt m 0xA 2 ≤ 3072) && decide (identLen m ≤ m.length)

/-- The fields of a message. -/
def identOf (m : List Byte) (leaf : Digest) : Ident where
  node := natAt m 0 2
  kind := natAt m 2 1
  flags := natAt m 3 1
  port := natAt m 4 2
  pair := natAt m 6 1
  foreseen := natAt m 8 2
  startAt := natAt m 0x10 8
  fw := digestAt m 0x38
  plan := digestAt m 0x68
  repro := digestAt m 0x98
  next := digestAt m 0xC8
  leafKey := leaf

/-- Bytes of a message before SIG_R. -/
def identSigned (m : List Byte) : Nat := identLen m - 96

/-- The signature of a message verifies with the leaf key over every byte before SIG_R (R398). -/
def identSigOk (m : List Byte) (leaf : List Byte) : Bool :=
  let n := identSigned m
  keyVerifies leaf (m.take n) (natAt m n 48) (natAt m (n + 48) 48)

/-- The leaf key of a message's CHAIN, where the chain verifies up to the anchor of its KIND (R398; 16 R545). -/
def identLeaf (s : State) (m : List Byte) (auth : IdentAuth) : Option (List Byte) :=
  if auth.formed then chainLeaf s (natAt m 2 1) (slice m 0xF8 (natAt m 0xA 2)) else none

/-- The leaf key of a message whose chain, signature and reserved bytes hold (R398). -/
def identSound (s : State) (m : List Byte) (auth : IdentAuth) : Option (List Byte) :=
  (identLeaf s m auth).filter fun leaf => zeros m 7 1 && zeros m 0xC 4 && identSigOk m leaf

/-- The REASON of a port or half, which FAB_PORT_DISC shows; the page of a split port shows the last one (R402, R420; log 97). -/
def setReason (s : State) (code r : Nat) : State :=
  setF (setLink s { linkOf s code with reason := r }) (portNo code) Reg.fabPortDisc_reason r

/-- A port is quarantined; in a plan a foreseen port that was in service is lost at once, any other foreseen one is reported
(R393, R402, R419). EXTRA never counts as lost. -/
def quarantine (s : State) (code reason : Nat) : State :=
  let l := linkOf s code
  let s := setReason (setLink s { l with state := 3 }) code reason
  if planRuns s && reason != 7 && (foreseen s (logicalPort s code)).isSome then
    if l.state = 4 then losePort s code else addLoss s ⟨nodeId s, 1, logicalPort s code⟩
  else s

/-- Other ports that accepted the same NODE_ID with a different leaf key. -/
def duplicates (s : State) (code : Nat) (i : Ident) : List Nat :=
  (allPorts s).filter fun c => c != code &&
    (match (linkOf s c).ident with
     | some j => decide (2 ≤ portState s c) && j.node == i.node && j.leafKey != i.leafKey
     | none => false)

/-- The first check of R402 that an IDENT fails, 0 for none; reason 5 is not judged while step 0 of a plan with a firmware handover
runs (20 R615). -/
def identReason (s : State) (p : Plan) (code : Nat) (i : Ident) : Nat :=
  let want := foreseen s (logicalPort s code)
  if manKind p i.node ≠ i.kind then 2
  else if !(duplicates s code i).isEmpty then 3
  else if i.plan ≠ p.planDigest then 4
  else if i.kind = 1 ∧ s.pln.fwStep = false ∧ i.fw ≠ getDigest s 0 Reg.secFwdig_digest then 5
  else if i.repro ≠ planRepro p then 6
  else if want = none then 7
  else if want ≠ some i.node ∨ (i.kind = 1 ∧ i.foreseen ≠ nodeId s) then 8
  else if pairIndex s code ≠ some i.pair then 9
  else 0

/-- The pairing indices that arrive on the ports of a target, in order of those ports. -/
def pairsOf (s : State) (d : Nat) (ports : List Nat) : List (Option Nat) :=
  ports.map fun c =>
    match (linkOf s c).ident with
    | some i => if i.node = d ∧ 2 ≤ portState s c then some i.pair else none
    | none => none

/-- The ports of a target may be remapped (R403). -/
def mayRemap (s : State) (d : Nat) (ports : List Nat) : Bool :=
  let pairs := pairsOf s d ports
  let idx : List Nat := pairs.map fun x => x.getD 0xFFFF
  pairs.all (·.isSome) && decide idx.Nodup && idx.all (fun k => decide (k < ports.length)) &&
    decide (((ports.map fun c => portNo c / 6).dedup).length = 1) && decide (((ports.map isHalf).dedup).length = 1)

/-- REMAPPED and LOGICAL of a port page; where the halves of a port carry different ports they show half b's, else half a's
(R420; DESIGN CHOICE, log 97). -/
def showRemap (s : State) (x : Nat × Nat) : State :=
  setF (setF s (portNo x.1) Reg.fabPortDisc_remapped (if s.lanes.remap.any fun y => portNo y.1 == portNo x.1 then 1 else 0))
    (portNo x.1) Reg.fabPortDisc_logical (portNo x.2)

/-- Each physical port of the target carries the logical port whose pairing index it receives (R403). -/
def remapPorts (s : State) (d : Nat) (ports : List Nat) : State :=
  let phys := ports.map (physicalPort s)
  let new := (phys.zip ((pairsOf s d phys).map (·.getD 0))).map fun x => (x.1, ports.getD x.2 x.1)
  let map := new.foldl (fun m x => kvSet x.1 m x.1 x.2) s.lanes.remap
  new.foldl showRemap { s with lanes := { s.lanes with remap := map } }

/-- A port whose neighbour passed every check: IN_SERVICE, or while a plan is active held with reason 11 (R400, R402). -/
def admitPort (s : State) (code : Nat) : State :=
  let l := linkOf s code
  if l.state = 4 then setReason s code 0
  else if planRuns s then quarantine s code 11
  else setReason (setLink s { l with state := 4, timedOut := false }) code 0

/-- A port of a remapped target is decided by its own checks (R402, R403). -/
def settlePort (s : State) (p : Plan) (code : Nat) : State :=
  match (linkOf s code).ident with
  | some i =>
    match identReason s p code i with
    | 0 => admitPort s code
    | r => quarantine s code r
  | none => s

/-- PAIR differs from the port's pairing index (R403). -/
def swapPort (s : State) (p : Plan) (code : Nat) (i : Ident) : State :=
  let d := i.node
  let ports := targetPorts p (govAlt s) d (logicalPort s code)
  let phys := ports.map (physicalPort s)
  if p.strict then quarantine s code 9
  else if mayRemap s d phys then
    if i.kind = 2 ∨ i.node < nodeId s then phys.foldl (fun s c => settlePort s p c) (remapPorts s d ports)
    else setReason s code 9
  else
    (phys.filter fun c => c == code || (linkOf s c).reason == 9).foldl (fun s c => quarantine s c 9) s

/-- The checks of R402 decide the state of a port with an accepted IDENT, once both ends have a governing plan (R399). -/
def decidePort (s : State) (code : Nat) : State :=
  match govPlan s, (linkOf s code).ident with
  | some p, some i =>
    if i.flags.testBit 0 && decide (2 ≤ portState s code) then
      match identReason s p code i with
      | 0 => admitPort s code
      | 3 => (duplicates s code i).foldl (fun s c => quarantine s c 3) (quarantine s code 3)
      | 9 => swapPort s p code i
      | r => quarantine s code r
    else s
  | _, _ => s

/-- Every port is decided anew once the governing plan has changed (R399; DEDUCED, log 45). -/
def recheckPorts (s : State) : State := (allPorts s).foldl decidePort (settleTime s)

/-- At a plan boundary a port that failed the check of reason 10 stays so until its next IDENT (R402). -/
def recheckOthers (s : State) : State :=
  ((allPorts s).filter fun c => !(portState s c == 3 && (linkOf s c).reason == 10)).foldl decidePort (settleTime s)

/-- The accepted IDENT shows in the port's registers (R352, R420). -/
def showIdent (s : State) (code : Nat) (i : Ident) : State :=
  let n := portNo code
  let s := setF (showNeighbour s n) n Reg.fabPortDisc_nbrPort i.port
  let s := setF (setF s n Reg.fabPortDisc_nbrFlags i.flags) n Reg.fabPortDisc_nbrEp (if i.kind = 2 then 1 else 0)
  setDigest s n Reg.fabPortNbrfw_digest i.fw

/-- A complete IDENT: accepted, or counted as refused. The far end's NONCE is kept where PEER_NONCE alone is wrong, so that the two
ends can greet each other (R396; DEDUCED, log 45). -/
def identTake (s : State) (code : Nat) (m : List Byte) (auth : IdentAuth) : State :=
  let l := linkOf s code
  let peer := BitVec.ofNat 128 (natAt m 0x18 16)
  let fresh := natAt m 0x28 16 == l.nonce.toNat
  let l := { l with rx := [], owed := l.owed || !fresh }
  match identSound s m auth with
  | some leaf =>
    let l := { l with peer := peer }
    if fresh then
      let i := identOf m (sha384 leaf)
      decidePort (showIdent (bump (setLink s { l with ident := some i, timedOut := false }) (portNo code) Reg.fabCntIdent) code i) code
    else bump (setLink s l) (portNo code) Reg.fabCntIdentbad
  | none => bump (setLink s l) (portNo code) Reg.fabCntIdentbad

/-- The cells of a message that CELL_RECEIVE has assembled, if any, are those of this message (R397). -/
def identAssembled (s : State) (code : Nat) (m : List Byte) : Bool :=
  let l := linkOf s code
  l.rx.isEmpty || (List.range (ceilDiv (identLen m) 48)).all fun o =>
    match l.rx.find? (·.1 == o) with
    | some c => c.2 == payOf ((m.take (identLen m)).drop (48 * o))
    | none => false

/-- A message arrives on a port in cell service; a message that its fields do not complete is refused and counted. -/
def identReceive (s : State) (code : Nat) (m : List Byte) (auth : IdentAuth) : State :=
  if 2 ≤ portState s code then
    if identComplete m then (if identAssembled s code m then identTake s code m auth else s)
    else bump s (portNo code) Reg.fabCntIdentbad
  else s

/-- No IDENT is accepted within 2^22 ticks of DISCOVERY while this end has a governing plan (R402). -/
def noIdent (s : State) (code : Nat) : State :=
  let l := linkOf s code
  if l.state = 2 ∧ l.ident = none ∧ (govPlan s).isSome ∧ l.since + 2 ^ 22 ≤ s.mer ∧ l.timedOut = false then
    let s := setReason (setLink s { l with timedOut := true }) code 1
    if planRuns s && (foreseen s (logicalPort s code)).isSome then losePort s code else s
  else s

/-! ## The commands -/

/-- A TIME cell is due on a port (R411). -/
def execTimeCellSend (port : Nat) (s : State) : Host.Outcome State Fault Refusal := onPort s port (timeSend s port)

/-- A TIME cell arrives (R412, R413). -/
def execTimeCellReceive (port : Nat) (p : Payload) (s : State) : Host.Outcome State Fault Refusal := onPort s port (timeTake s port p)

/-- The time parent has been silent for 2^20 ticks (R415). -/
def execTimeParentTimeout (s : State) : Host.Outcome State Fault Refusal :=
  whenRuns s .lanes (.next (timeLost s))

/-- An IDENT is sent on a port if one is due (R396). -/
def execIdentSend (port : Nat) (s : State) : Host.Outcome State Fault Refusal := onPort s port (identSend s port)

/-- A complete IDENT arrives (R398, R402). -/
def execIdentReceive (port : Nat) (msg : List Byte) (auth : IdentAuth) (s : State) : Host.Outcome State Fault Refusal :=
  onPort s port (identReceive s port msg auth)

/-- A port has waited 2^22 ticks for an IDENT (R402). -/
def execNoIdentTimeout (port : Nat) (s : State) : Host.Outcome State Fault Refusal := onPort s port (noIdent s port)

end Sys2Proof.Machine
end

