-- ==== Sys2Proof/Machine/Memory.lean ====
section
/-! DEFINITION. The memory system apart from accesses: relocation of pseudo-channels, row repair and retirement, sudden loss,
thermal bands, refresh and the split of the address space (08 R263, R274 to R300). -/

namespace Sys2Proof.Machine

/-! ## Relocation (R276 to R284) -/

/-- MEM_PC_STATE of a pseudo-channel (R298): 0 NORMAL, 1 VACATING or RESTORING, 2 VACATED, 3 LOST. -/
def pcState (s : State) (stack pc : Nat) : Nat :=
  if pcLost s stack pc then 3
  else
    match relocOf s stack pc with
    | none => 0
    | some r => if r.restoring || decide (r.copied < segments) then 1 else 2

/-- Every pseudo-channel is NORMAL. -/
def allNormal (s : State) : Bool := s.mem.relocs.isEmpty && s.mem.dead.isEmpty

/-- Targets of a pseudo-channel: the others of its stack that are neither LOST nor being vacated (R276). -/
def targetsOf (s : State) (stack pc : Nat) : List Nat :=
  (List.range 32).filter fun t => t != pc && pcState s stack t != 3 &&
    !(s.mem.relocs.any fun r => r.stack == stack && r.pc == t && !r.restoring)

/-- Spare segments of a target that no relocation of the stack holds (R277). -/
def freeSpare (s : State) (stack target : Nat) : List Nat :=
  let used := (s.mem.relocs.filter (·.stack == stack)).flatMap fun r => (r.map.filter (·.1 == target)).map (·.2)
  (List.range 95).filter fun j => !used.contains j

/-- The relocation map (R276). -/
def relocMap (s : State) (stack pc : Nat) : List (Nat × Nat) :=
  let targets := targetsOf s stack pc
  let m := max targets.length 1
  let free := targets.map (freeSpare s stack)
  (List.range segments).map fun g => (targets.getD (g % m) 0, (free.getD (g % m) []).getD (g / m) 0)

/-- Replace, add or take out a relocation. -/
def setReloc (s : State) (r : Reloc) : State :=
  { s with mem := { s.mem with relocs := (s.mem.relocs.filter fun q => !(q.stack == r.stack && q.pc == r.pc)) ++ [r] } }

/-- Take a relocation out: its map is freed (R281). -/
def dropReloc (s : State) (stack pc : Nat) : State :=
  { s with mem := { s.mem with relocs := s.mem.relocs.filter fun q => !(q.stack == stack && q.pc == pc) } }

/-- The current step gives COPY ticks to a pseudo-channel (R283). -/
def hasCopyTicks (s : State) (stack pc : Nat) : Bool :=
  match curTable s (pcRes stack pc) with
  | some t => t.runs.any (·.use == 10)
  | none => false

/-- This tick is a COPY tick of a pseudo-channel; outside a plan every tick is (R36, R283). -/
def copyTick (s : State) (stack pc : Nat) : Bool := !planRuns s || (runNow s (pcRes stack pc)).any (·.use == 10)

/-- A stack is in self-refresh (R294). -/
def selfRef (s : State) (stack : Nat) : Bool := getF s stack Reg.memStkStatus_selfref == 1

/-- A copy may run: outside a plan in every tick, in a step that gives COPY ticks to the pseudo-channel and to each of its targets, and
never while its stack, the only one that a vacate touches, is in self-refresh (R283, R295; DEDUCED, log 88). -/
def copyRuns (s : State) (stack pc : Nat) (targets : List Nat) : Bool :=
  !selfRef s stack && (!planRuns s || (hasCopyTicks s stack pc && targets.all (hasCopyTicks s stack)))

/-- A further pseudo-channel of the stack cannot leave service: one is in VACATING, VACATED or RESTORING, or two are LOST (R277, R292). -/
def stackBusy (s : State) (stack : Nat) : Bool :=
  (s.mem.relocs.any fun r => r.stack == stack && !r.lost) || decide (2 ≤ ((List.range 32).filter (pcLost s stack)).length)

/-- The waiting vacate of a stack starts if it can (R277, R283). -/
def startVacate (s : State) (stack : Nat) : State :=
  let wait := (s.mem.waiting.filter (·.1 == stack)).mergeSort fun a b => decide (a.2.1 ≤ b.2.1)
  match wait with
  | [] => s
  | w :: _ =>
    if stackBusy s stack || !copyRuns s stack w.2.1 (targetsOf s stack w.2.1) then s
    else
      let r : Reloc :=
        { stack := stack, pc := w.2.1, map := relocMap s stack w.2.1, restoring := false, copied := 0, commanded := w.2.2
          repairing := true, repaired := false, lost := false }
      let s := { s with mem := { s.mem with waiting := s.mem.waiting.filter fun q => !(q.1 == stack && q.2.1 == w.2.1) } }
      setReloc (noteRepair s) r

/-- Every stack tries, at a step boundary and where a plan ends (R283). -/
def startVacates (s : State) : State := (List.range 20).foldl startVacate s

/-- A vacate of a NORMAL pseudo-channel is asked for: by a lasting pin, a command or a retrain request (R277, R281). One that waits
already waits on, and is commanded from then on if a command asks for it (R299). -/
def askVacate (s : State) (stack pc : Nat) (commanded : Bool) : State :=
  if pcState s stack pc = 0 then
    let was := s.mem.waiting.any fun w => w.1 == stack && w.2.1 == pc && w.2.2
    let rest := s.mem.waiting.filter fun w => !(w.1 == stack && w.2.1 == pc)
    startVacate { s with mem := { s.mem with waiting := rest ++ [(stack, pc, was || commanded)] } } stack
  else s

/-- VACATE in MEM_STK_CMD (R299). -/
def vacateCmd (s : State) (stack pc : Nat) : State :=
  if pcState s stack pc = 0 then askVacate { s with cmdStatus := 0 } stack pc true else { s with cmdStatus := 8 }

/-- RESTORE in MEM_STK_CMD (R299). -/
def restoreCmd (s : State) (stack pc : Nat) : State :=
  match relocOf s stack pc with
  | some r =>
    if pcState s stack pc = 2 ∧ r.repaired = true then setReloc (noteRepair { s with cmdStatus := 0 }) { r with restoring := true }
    else { s with cmdStatus := 8 }
  | none => { s with cmdStatus := 8 }

/-- The node offset of a home line (R265, read backwards). -/
def offsetOf (s : State) (p : Phys) : Nat :=
  let nu := getF s 0 Reg.memSplit_nearUnits
  let wn := nu * nearUnit
  let S := Config.stacksPerDie s.mfg.grade
  let nl := nu * nearLines s.mfg.grade
  if p.r < nl then p.stack / 5 * wn + 256 * ((p.r * 32 + p.pc) * S + p.stack % 5)
  else 4 * wn + 256 * (4 * (((p.r - nl) * 32 + p.pc) * S + p.stack % 5) + p.stack / 5)

/-- The bursts of a segment as node offsets. -/
def segmentBursts (s : State) (stack pc g : Nat) : List Nat :=
  (List.range 2048).flatMap fun i => (List.range 8).map fun b => offsetOf s ⟨stack, pc, 2048 * g + i⟩ + 32 * b

/-- A segment comes home from a lost target: its bursts are copied as they are, uncorrectable (R296; DEDUCED, log 50). -/
def bringUe (s : State) (r : Reloc) (g : Nat) : State :=
  if pcLost s r.stack (r.map.getD g (r.pc, 0)).1 then
    { s with mem := { s.mem with ue := s.mem.ue ++ (segmentBursts s r.stack r.pc g).filter fun b => !s.mem.ue.contains b } }
  else s

/-- Uncorrectable bursts of a segment, which the copy engine logs (R296). -/
def logSegment (s : State) (stack pc g : Nat) : State :=
  (s.mem.ue.filter fun u => let p := physOf s u
    p.stack == stack && p.pc == pc && p.r / 2048 == g).foldl (fun s u => logUe s u true) s

/-- Row repairs that wait for a pseudo-channel. -/
def rowsWaiting (s : State) (stack pc : Nat) : List (Nat × Nat × Nat) :=
  s.mem.rowWait.filter fun w => w.1 == stack && w.2.1 / 2 ^ 20 == pc

/-! ## Row repair and retirement (R285 to R289) -/

/-- The row that a SUB names (17 R624). -/
def fixOf (stack sub level : Nat) : RowFix := ⟨stack, sub / 2 ^ 20, sub / 2 ^ 16 % 16, sub % 2 ^ 16, level⟩

/-- Two entries name one row. -/
def sameRow (a b : RowFix) : Bool := a.stack == b.stack && a.pc == b.pc && a.bank == b.bank && a.row == b.row

/-- The level of a row: 0 for none. -/
def rowLevel (s : State) (f : RowFix) : Nat := ((s.mem.rowFix.find? (sameRow f)).map (·.level)).getD 0

/-- Rows of a pseudo-channel at a level. -/
def rowsAt (s : State) (stack pc level : Nat) : Nat :=
  (s.mem.rowFix.filter fun f => f.stack == stack && f.pc == pc && f.level == level).length

/-- A row enters a table in NV (R286). -/
def setRowFix (s : State) (f : RowFix) : State :=
  { s with mem := { s.mem with rowFix := s.mem.rowFix.filter (fun g => !sameRow f g) ++ [f] } }

/-- The top stripe of the global window as a node offset and its size (R287). -/
def topStripe (s : State) : Nat × Nat := (capacity s - stripeBytes s.mfg.grade, stripeBytes s.mfg.grade)

/-- A region of a plan meets a range. -/
def planMeets (p : Option Plan) (r : Nat × Nat) : Bool :=
  match p with
  | some p => p.regions.any fun g => decide (0 < g.size) && decide (g.base < r.1 + r.2) && decide (r.1 < g.base + g.size)
  | none => false

/-- The top stripe lies in a region of the active or the staged plan (R288). -/
def stripeHeld (s : State) : Bool := planMeets s.pln.active (topStripe s) || planMeets s.pln.staged (topStripe s)

/-- The top stripe is withdrawn: C falls by one stripe (R287). -/
def takeStripe (s : State) : State := setF (noteNv s) 0 Reg.memCapacity_stripes (getF s 0 Reg.memCapacity_stripes + 1)

/-- The row enters the retirement table (R285). -/
def retireRow (s : State) (f : RowFix) : State := bump (setRowFix (noteRepair s) { f with level := 3 }) 0 Reg.memCntRetire

/-- Level 3: a free replacement row, else a stripe, which may wait; without either the row stays in service (R285, R288, R289). -/
def retire (s : State) (stack sub addr : Nat) : State :=
  let f := fixOf stack sub 3
  let have' := 16 * getF s 0 Reg.memCapacity_stripes
  let used := rowsAt s stack f.pc 3
  if used < have' then retireRow s f
  else if 64 ≤ used ∨ 4 ≤ getF s 0 Reg.memCapacity_stripes then fault s 0x13 (pageOf 9 stack) sub 0xFFFF addr 0
  else if stripeHeld s then
    let s := setF s 0 Reg.memCapacity_pending 1
    { s with mem := { s.mem with retireWait := s.mem.retireWait.filter (fun w => !(w.1 == stack && w.2.1 == sub)) ++ [(stack, sub, addr)] } }
  else retireRow (takeStripe s) f

/-- Level 2, or level 3 where the remap table is full (R285). -/
def remap (s : State) (stack sub addr : Nat) : State :=
  let f := fixOf stack sub 2
  if rowsAt s stack f.pc 2 < 64 then bump (setRowFix s f) 0 Reg.memCntRemap else retire s stack sub addr

/-- A lasting row, or a row that returned an uncorrectable burst, goes one level on; while its pseudo-channel is not NORMAL, or its stack
is in self-refresh, the repair waits (R285, R296). -/
def rowRepair (s : State) (stack sub addr : Nat) : State :=
  let f := fixOf stack sub 1
  if s.mem.redirects.any (sameRow f) then s
  else if pcState s stack f.pc ≠ 0 ∨ selfRef s stack = true then
    if s.mem.rowWait.any fun w => w.1 == stack && w.2.1 == sub then s
    else { s with mem := { s.mem with rowWait := s.mem.rowWait ++ [(stack, sub, addr)] } }
  else
    let s := noteRepair s
    let bg := (stack, f.pc, f.bank / 4)
    let level := rowLevel s f
    if level = 0 ∧ s.mem.spprUsed.contains bg = false then
      { s with mem := { s.mem with spprUsed := s.mem.spprUsed ++ [bg], redirects := s.mem.redirects ++ [f] } }
    else if level ≤ 1 then remap s stack sub addr
    else if level = 2 then retire s stack sub addr
    else s

/-- sPPR of a row is done: the redirect is lifted and the repair recorded (R285, R286, 20 R616); a stack in self-refresh
suspends it (R296). -/
def softDone (s : State) (stack sub : Nat) : State :=
  let f := fixOf stack sub 1
  if s.mem.redirects.any (sameRow f) && !selfRef s stack then
    let s := noteRepair { s with mem := { s.mem with redirects := s.mem.redirects.filter fun g => !sameRow f g } }
    bumpLife (bump (setRowFix s f) 0 Reg.memCntSppr) 9 1
  else s

/-- Withdrawals that waited take place once the stripe lies in no region (R288). -/
def withdrawWaiting (s : State) : State :=
  if s.mem.retireWait.isEmpty || stripeHeld s then s
  else
    let l := s.mem.retireWait
    let s := setF { s with mem := { s.mem with retireWait := [] } } 0 Reg.memCapacity_pending 0
    l.foldl (fun s w => retire s w.1 w.2.1 w.2.2) s

/-- Repairs that waited for a pseudo-channel run once it is NORMAL (R296). -/
def repairWaiting (s : State) (stack pc : Nat) : State :=
  let l := rowsWaiting s stack pc
  let s := { s with mem := { s.mem with rowWait := s.mem.rowWait.filter fun w => !(w.1 == stack && w.2.1 / 2 ^ 20 == pc) } }
  l.foldl (fun s w => rowRepair s w.1 w.2.1 w.2.2) s

/-! ## Progress of a relocation -/

/-- The last line of the segment that is being copied can be written in this tick: a COPY tick of the pseudo-channel that the copy goes
to, in a step that gives the other one COPY ticks too (R279, R283; DEDUCED, log 88), with a position that the redirected accesses leave
(R280; 01 R36). -/
def segmentCopies (s : State) (r : Reloc) : Bool :=
  let g := if r.restoring then r.copied - 1 else r.copied
  let t := (r.map.getD g (r.pc, 0)).1
  let goal := if r.restoring then r.pc else t
  copyRuns s r.stack r.pc [t] && copyTick s r.stack goal && decide (copyDemand s r.stack goal < tickBursts s.mer)

/-- A segment's copy completes and its copy bit changes (R279, R281). -/
def segmentDone (s : State) (stack pc : Nat) : State :=
  match relocOf s stack pc with
  | none => s
  | some r =>
    if pcState s stack pc ≠ 1 ∨ segmentCopies s r = false then s
    else if r.restoring then
      let g := r.copied - 1
      let s := noteRepair (keepRelocs s)
      let s := bump (logSegment (bringUe s r g) stack pc g) 0 Reg.memCntCopyseg
      if g = 0 then repairWaiting (startVacate (dropReloc s stack pc) stack) stack pc else setReloc s { r with copied := g }
    else if r.copied < segments then
      setReloc (bump (logSegment (noteRepair (keepRelocs s)) stack pc r.copied) 0 Reg.memCntCopyseg) { r with copied := r.copied + 1 }
    else s

/-- Pin repair, retraining and the write-read pass of a VACATED pseudo-channel end (R281, R282, R299). -/
def pinRepairDone (s : State) (stack pc : Nat) (ok : Bool) : State :=
  match relocOf s stack pc with
  | none => s
  | some r =>
    if pcState s stack pc = 2 ∧ r.repairing = true then
      if ok then setReloc s { r with repairing := false, repaired := true, restoring := !r.commanded }
      else
        fault (setReloc s { r with repairing := false }) 0x12 (pageOf 9 stack) (pc * 2 ^ 20) 0xFFFF 0
          (getFI s pc stack 0 Reg.memPcDetail_lastPin)
    else s

/-! ## Sudden loss (R290 to R292) -/

/-- Some line of a region lies on a pseudo-channel; `lines` bounds the lines looked at. -/
def regionOnPc (s : State) (g : Region) (stack pc : Nat) : Bool :=
  let lines := if g.size = 0 then 0 else (g.base % 256 + g.size + 255) / 256
  (List.range (min lines 640)).any fun k => let p := physOf s (g.base + 256 * k)
    p.stack == stack && p.pc == pc

/-- Regions of the active plan that hold a byte of a pseudo-channel, by region ID (R291). -/
def lostRegions (s : State) (stack pc : Nat) : List Nat :=
  match s.pln.active with
  | some p => (((p.regions.filter fun g => regionOnPc s g stack pc).map (·.id)).mergeSort fun a b => decide (a ≤ b))
  | none => []

/-- MEM_LOST_REGIONS (R291, R297). -/
def showLost (s : State) (ids : List Nat) : State :=
  (List.range 8).foldl (fun s n => setFI s 0 0 n Reg.memLostRegions_region
    (ids.getD (2 * n) 0xFFFFFFFF + ids.getD (2 * n + 1) 0xFFFFFFFF * 2 ^ 32)) s

/-- A vacate of the pseudo-channel waits no longer. -/
def dropWaiting (s : State) (stack pc : Nat) : State :=
  { s with mem := { s.mem with waiting := s.mem.waiting.filter fun w => !(w.1 == stack && w.2.1 == pc) } }

/-- No burst of a pseudo-channel from a line on is uncorrectable any more: reads go to the spare rows (R290). -/
def forgetUe (s : State) (stack pc firstLine : Nat) : State :=
  { s with mem := { s.mem with ue := s.mem.ue.filter fun u =>
    !((physOf s u).stack == stack && (physOf s u).pc == pc && decide (firstLine ≤ (physOf s u).r)) } }

/-- A pseudo-channel is LOST: its segments live in the spare of the others, whose rows hold bits of their own (free values; log 89), and
the step ends VOID (R290, R291). -/
def losePc (s : State) (stack pc firstLine : Nat) (r : Reloc) : State :=
  let ids := lostRegions s stack pc
  let s := faultVoid s 4 0x14 (pageOf 9 stack) (pc * 2 ^ 20) 0xFFFF 0 ids.length
  let s := forgetUe (dropWaiting (showLost s ids) stack pc) stack pc firstLine
  makeUndef (setReloc s { r with lost := true, restoring := false, copied := segments }) 0 (Config.capacity s.mfg.grade)
    (some (stack, pc, firstLine))

/-- One pseudo-channel of the stack is LOST already. -/
def stackHasLost (s : State) (stack : Nat) : Bool := s.mem.relocs.any fun q => q.stack == stack && q.lost

/-- A pseudo-channel is lost that cannot be relocated. A relocation in progress stays: the segments whose copy bit is 1 hold their data in
the spare; no copy runs back any more (R292, R298). -/
def killPc (s : State) (stack pc : Nat) : State :=
  { dropWaiting s stack pc with mem := { (dropWaiting s stack pc).mem with
      dead := s.mem.dead ++ [(stack, pc)]
      relocs := s.mem.relocs.map fun r => if r.stack = stack ∧ r.pc = pc then { r with restoring := false } else r } }

/-- Every burst of a pseudo-channel fails, or it loses training: LOST, or where the stack already has one LOST, uncorrectable with
the FATAL fault MEM_STACK (R290, R292). One that is VACATED holds no data. -/
def pcFails (s : State) (stack pc : Nat) : State :=
  if pcLost s stack pc ∨ pcState s stack pc = 2 then s
  else if stackHasLost s stack then faultVoid (killPc s stack pc) 8 0x15 (pageOf 9 stack) (pc * 2 ^ 20) 0xFFFF 0 0
  else
    let r := (relocOf s stack pc).getD ⟨stack, pc, relocMap s stack pc, false, 0, false, false, false, false⟩
    losePc s stack pc (2048 * r.copied) r

/-! ## Thermal bands and refresh (R274, R275, R293 to R295) -/

/-- The band after a reading: entered at its threshold, left below it less 3 °C (R293). -/
def nextBand (cur temp : Nat) : Nat :=
  let up := if 105 ≤ temp then 3 else if 95 ≤ temp then 2 else if 85 ≤ temp then 1 else 0
  let stay := if 102 ≤ temp then 3 else if 92 ≤ temp then 2 else if 82 ≤ temp then 1 else 0
  max up (min cur stay)

/-- The stacks that the grade fits. -/
def fittedStacks (s : State) : List Nat := (List.range 20).filter (fitsStack s)

/-- MEM_BAND: the required band, the hottest stack and its temperature (R293, R297). -/
def showBand (s : State) : State :=
  let l := fittedStacks s
  let band := ((l.map fun k => getF s k Reg.memStkStatus_band).max?).getD 0
  let top := ((l.map fun k => getF s k Reg.memStkStatus_temp).max?).getD 0
  let hot := (l.find? fun k => getF s k Reg.memStkStatus_temp == top).getD 0
  setF (setF (setF s 0 Reg.memBand_band band) 0 Reg.memBand_hottest hot) 0 Reg.memBand_temp top

/-- A stack reports its temperature; at Critical it enters self-refresh, MEM_THERMAL is raised and the step ends VOID with cause
THERMAL; when it leaves, the repairs and vacates that waited for it go on (R293 to R296). -/
def thermalReading (s : State) (stack temp : Nat) : State :=
  let t := min temp 255
  let old := getF s stack Reg.memStkStatus_band
  let new := nextBand old t
  let s := setF (setF s stack Reg.memStkStatus_temp t) stack Reg.memStkStatus_band new
  let s := setF s stack Reg.memStkStatus_selfref (if new = 3 then 1 else 0)
  let s := showBand s
  let s := if old = 3 ∧ new ≠ 3 then (List.range 32).foldl (fun s pc => repairWaiting s stack pc) (startVacate s stack) else s
  if new = 3 ∧ old ≠ 3 then faultVoid (bumpLife s 5 1) 5 0x16 (pageOf 9 stack) 0 0xFFFF 0 t else s

/-- Banks that a stack refreshes in period i (R274): bank groups {0, 1} or {2, 3} in Nominal, all in the Warm rate. -/
def refreshBanks (i band : Nat) : BitVec 16 := if 1 ≤ band then 0xFFFF else if i % 2 = 0 then 0x00FF else 0xFF00

/-- A refresh period begins: each stack refreshes at the rate of its band; a stack in self-refresh refreshes itself (R274, R275). -/
def refreshPeriod (s : State) : State :=
  if s.mer % 1024 = 0 then
    let i := (s.mer - s.pln.refreshBase) / 1024
    let l := (fittedStacks s).map fun k => (k, if selfRef s k then 0 else refreshBanks i (getF s k Reg.memStkStatus_band))
    { s with mem := { s.mem with refresh := l, refreshAt := some s.mer } }
  else s

/-! ## MEM_SPLIT (R263) -/

/-- Largest NEAR_UNITS: U - 8 with 48 units per stack (R262). -/
def splitMax (s : State) : Nat := 48 * Config.stacksPerDie s.mfg.grade - 8

/-- Every HBM byte is undefined, and no range is retained (R263; 18 R577). -/
def forgetAll (s : State) : State :=
  { s with mem := { s.mem with
      hbm := [], undef := [⟨0, Config.capacity s.mfg.grade, none, s.mem.epoch⟩], epoch := s.mem.epoch + 1, retained := [] } }

/-- A write of NEAR_UNITS: judged for its range, locked while a plan runs, refused while a pseudo-channel is not NORMAL; a change
makes every HBM byte undefined (R262, R263, R296; 15 R503). -/
def splitWrite (s : State) (n : Nat) : State :=
  if splitMax s < n then { s with cmdStatus := 7 }
  else if planRuns s then { s with cmdStatus := 6 }
  else if !allNormal s then { s with cmdStatus := 8 }
  else if getF s 0 Reg.memSplit_nearUnits = n then { s with cmdStatus := 0, mem := { s.mem with retained := [] } }
  else forgetAll (setF (noteNv { s with cmdStatus := 0 }) 0 Reg.memSplit_nearUnits n)

/-! ## The commands -/

/-- Run a command on a stack and pseudo-channel that the grade fits. -/
def onPc (s : State) (stack pc : Nat) (t : State) : Host.Outcome State Fault Refusal :=
  if fitsStack s stack && decide (pc < 32) then whenRuns s .memory (.next t) else .fault .absentUnit

/-- Run a register command on a stack and pseudo-channel that the grade fits. -/
def onPcCmd (s : State) (stack pc : Nat) (t : State) : Host.Outcome State Fault Refusal :=
  if !fitsStack s stack then noPage s else if pc < 32 then whenServes s .memory (.next t) else .fault .absentUnit

/-- sPPR of a row is done (R285). -/
def execSoftRepairDone (stack sub : Nat) (s : State) : Host.Outcome State Fault Refusal :=
  whenRuns s .memory (if fitsStack s stack then .next (softDone s stack sub) else .fault .absentUnit)

/-- A vacate starts, or is asked for by a retrain request (R279, R281). -/
def execVacateStart (stack pc : Nat) (s : State) : Host.Outcome State Fault Refusal := onPc s stack pc (askVacate s stack pc false)

/-- A segment's copy completes (R279). -/
def execSegmentCopyDone (stack pc : Nat) (s : State) : Host.Outcome State Fault Refusal := onPc s stack pc (segmentDone s stack pc)

/-- Pin repair ends (R281). -/
def execPinRepairDone (stack pc : Nat) (ok : Bool) (s : State) : Host.Outcome State Fault Refusal :=
  onPc s stack pc (pinRepairDone s stack pc ok)

/-- A pseudo-channel is lost (R290). -/
def execMemPcLost (stack pc : Nat) (s : State) : Host.Outcome State Fault Refusal := onPc s stack pc (pcFails s stack pc)

/-- A stack's temperature (R293). -/
def execThermalReading (stack temp : Nat) (s : State) : Host.Outcome State Fault Refusal :=
  whenRuns s .memory (if fitsStack s stack then .next (thermalReading s stack temp) else .fault .absentUnit)

/-- A refresh period begins (R274). -/
def execRefreshPeriod (s : State) : Host.Outcome State Fault Refusal :=
  whenRuns s .memory (.next (refreshPeriod s))

/-- VACATE in MEM_STK_CMD (R299). -/
def execVacate (stack pc : Nat) (s : State) : Host.Outcome State Fault Refusal := onPcCmd s stack pc (vacateCmd s stack pc)

/-- RESTORE in MEM_STK_CMD (R299). -/
def execRestore (stack pc : Nat) (s : State) : Host.Outcome State Fault Refusal := onPcCmd s stack pc (restoreCmd s stack pc)

/-- A write of MEM_SPLIT (R263). -/
def execMemSplitWrite (units : Nat) (s : State) : Host.Outcome State Fault Refusal :=
  whenServes s .memory (.next (splitWrite s units))

end Sys2Proof.Machine
end

