-- ==== Sys2Proof/Machine/Plan.lean ====
section
/-! DEFINITION. The life of a plan before its first step: LOAD, ARM, ABORT, DISCARD and the start barrier (02 R67 to R71, R79, R90
to R94, R622; 04 R135; 11 R416 to R418; 17 R560; 20 R612 to R615). -/

namespace Sys2Proof.Machine

/-! ## Registers of the PLN page -/

/-- ACTIVE of PLN_STATE (R93). -/
def setActive (s : State) (v : Nat) : State := setF (keepRan s) 0 Reg.plnState_active v

/-- STAGED of PLN_STATE (R93). -/
def setStaged (s : State) (v : Nat) : State := setF s 0 Reg.plnState_staged v

/-- CODE of PLN_STATE (R93). -/
def setCode (s : State) (v : Nat) : State := setF s 0 Reg.plnState_code v

/-- PENDING of SEC_FW_ACT clears, unless a write has set the register in this tick (00 R20; 20 R612, R620). -/
def clearPending (s : State) : State :=
  if wroteNow s (regKey 0 (pageOf Reg.secFwAct_pending.kind 0) Reg.secFwAct_pending.off) then s else setF s 0 Reg.secFwAct_pending 0

/-- A write has set SEC_FW_ACT in this tick (00 R20). -/
def notePending (s : State) : State := noteWrote s (regKey 0 (pageOf Reg.secFwAct_pending.kind 0) Reg.secFwAct_pending.off)

/-- The staged bank empties; a plan that was armed to follow, and an activation that waits for it, go with it (R90, 20 R613). -/
def emptyStaged (s : State) : State :=
  clearPending (setStaged { s with pln := { s.pln with staged := none, follow := false } } 0)

/-- The power state is Run (18 R584). -/
def inRun (s : State) : Bool := getF s 0 Reg.pwrState_state == 0

/-- A PWR_CMD has been taken and its change is not complete: an ARM draws STATE then (18 R585, R589). -/
def powerChanging (s : State) : Bool := getF s 0 Reg.pwrState_changing == 1 || s.pwr.waitCmd.isSome

/-- The fault collector refuses new plans (17 R556). -/
def faultState (s : State) : Bool := getF s 0 Reg.fltState_faultstate == 1

/-- PENDING of SEC_FW_ACT (20 R612). -/
def fwPending (s : State) : Bool := getF s 0 Reg.secFwAct_pending == 1

/-! ## Loading (R67, R68, R91) -/

/-- A load that is refused: REFUSED, the code and the position (R68, R94). -/
def refuseLoad (s : State) (code sec record : Nat) : State :=
  let s := setCode (setStaged { s with pln := { s.pln with loading := none, staged := none } } 3) code
  let s := setF (setF s 0 Reg.plnRefusalAt_section sec) 0 Reg.plnRefusalAt_record record
  bump s 0 Reg.plnCntRefused

/-- LOAD: ignored with status STATE unless the staged bank is EMPTY or REFUSED, where CODE shows BUSY; refused while the fault
collector refuses plans (R69, R91, 17 R556). A refusal with FAULTSTATE looks at no section: the position is 0xFFFF and 0 (DESIGN CHOICE,
log 74). -/
def loadCmd (s : State) : State :=
  let st := getF s 0 Reg.plnState_staged
  if st = 1 ∨ st = 2 then setCode { s with cmdStatus := 8 } 0x15
  else if !inRun s then { s with cmdStatus := 8 }
  else if faultState s then refuseLoad { s with cmdStatus := 0 } 0x14 0xFFFF 0
  else
    let l := (getF s 0 Reg.plnLoadAddr_offset, getF s 0 Reg.plnLoadLen_len, fwPending s)
    setStaged { s with cmdStatus := 0, pln := { s.pln with loading := some l, staged := none } } 1

/-- A read of the image is uncorrectable: UNREADABLE, with the memory system's fault (R622). -/
def unreadable (s : State) (a : Nat) : State := refuseLoad (memUe s a) 0x16 0xFFFF 0

/-- The loader has read the image: the checks in their order, or UNREADABLE where a read that they need is uncorrectable: IMAGE_LEN for
the length check, every byte for the signature and what follows it (R68, R622). A write to the source range between LOAD and the end of
LOADING may be seen or not: the model reads every byte in this tick, and so sees every such write (DESIGN CHOICE, log 79). -/
def loadDone (s : State) : State :=
  match s.pln.loading with
  | none => s
  | some (ofs, len, pending) =>
    if !lengthOk s ofs len then refuseLoad s 2 0xFFFF 0
    else
      match firstUe s (ofs + 8) 8 with
      | some u => unreadable s u
      | none =>
        match checkLength s ofs len (readBytes s ofs 16) with
        | some r => refuseLoad s r.1 r.2.1 r.2.2
        | none =>
          match firstUe s ofs len with
          | some u => unreadable s u
          | none =>
            let img := readBytes s ofs len
            match checkImage s ofs len pending img with
            | some r => refuseLoad s r.1 r.2.1 r.2.2
            | none =>
              let s := setStaged { s with pln := { s.pln with loading := none, staged := some (planOf img) } } 2
              if planRuns s then s else recheckPorts s

/-! ## Arming (R70, R71, R407, R416) -/

/-- The staged plan moves to the active bank and waits, for its start barrier at `startAt` or, at 0, for a rejoin point. -/
def armPlan (s : State) (startAt : Nat) : State :=
  match s.pln.staged with
  | none => s
  | some p =>
    let rejoin := decide (startAt = 0)
    let s := { s with pln := { s.pln with
      active := some p, staged := none, follow := false, startAt := startAt, loops := 0, reports := [], nextReports := []
      losses := [], nextLosses := [], abort := false, nextAbort := false, cutDone := false, own := none, ups := []
      upSent := false, downSent := false, cellsSent := false, obar := none, held := none, window := false
      starting := !rejoin, startBand := 0, hold := none, holdNext := none, heldBefore := false, rejoin := rejoin
      idleExec := false, outOfStart := !rejoin && decide (startAt ≤ s.mer + 16384), rejoinDone := false, fwStep := false } }
    let s := setF (setActive (setStaged s 0) 1) 0 Reg.plnState_alt 0
    recheckPorts (setDigest s 0 Reg.plnDigest_digest p.planDigest)

/-- The armed plan does not start: IDLE with code START (R70, R418). -/
def failStart (s : State) : State :=
  let s := { s with pln := { s.pln with
    active := none, starting := false, rejoin := false, outOfStart := false, held := none, obar := none, own := none, ups := [] } }
  let s := setCode (setActive s 0) 0x20
  startVacates (withdrawWaiting
    (recheckPorts (setDigest (setF (setF s 0 Reg.plnState_alt 0) 0 Reg.plnState_band 0) 0 Reg.plnDigest_digest 0)))

/-- Every control-channel session closes (20 R614). -/
def closeSessions (s : State) : State :=
  let s := dropRequests s fun _ => true
  { s with ctl := { s.ctl with sessions := [] } }

/-- SD0 hands over to the pending slot: sessions close, ACTIVE names the new slot, and the new firmware takes over within 2^21 ticks
(20 R614). -/
def beginHandover (s : State) : State :=
  let s := closeSessions s
  let s := { s with
    pln := { s.pln with handover := some s.mer }
    fw := { s.fw with prevSlot := some (getF s 0 Reg.secFwState_active), upload := none } }
  setF s 0 Reg.secFwState_active (otherSlot s)

/-- Every ARM records the flagged regions of the armed plan as the retained list (18 R577). -/
def noteRetained (s : State) : State :=
  match s.pln.staged with
  | some p => { s with mem := { s.mem with retained := (p.regions.filter fun r => r.flags.testBit 3).map fun r => (r.base, r.size) } }
  | none => s

/-- The staged plan is armed in this tick; where no plan runs, ports whose recovery check has passed have taken cells again by now (10 R377,
R379). -/
def armNow (s : State) (startAt : Nat) : State := armPlan (if planRuns s then s else settleLinks s) startAt

/-- ARM (R70, R71, R91, R407; 20 R615). On a device that is armed for rejoin no plan runs yet: the staged plan takes the active bank, so
that a stopped domain can start again through a start barrier (11 R405). On one that waits for a start barrier the staged plan follows
(DEDUCED, log 80). -/
def armCmd (s : State) : State :=
  if getF s 0 Reg.plnState_staged ≠ 2 || faultState s || !inRun s || powerChanging s || s.pln.handover.isSome then
    { s with cmdStatus := 8 }
  else
    let s := noteRetained { s with cmdStatus := 0 }
    if planRuns s && !s.pln.rejoin then { s with pln := { s.pln with follow := true } }
    else if fwPending s then beginHandover s
    else armNow s (getF s 0 Reg.plnStartAt_start)

/-- ABORT: the bit goes into this execution's contribution, or from the tick of the cut on into the next one's (R79, R91). -/
def abortCmd (s : State) : State :=
  if getF s 0 Reg.plnState_active ≠ 2 then { s with cmdStatus := 8 }
  else
    let s := { s with cmdStatus := 0 }
    let s := if pastCut s then { s with pln := { s.pln with nextAbort := true } } else { s with pln := { s.pln with abort := true } }
    report s 9

/-- DISCARD (R90, R91). Outside a plan a withdrawal of memory that the staged plan held back takes place (08 R288). -/
def discardCmd (s : State) : State :=
  if getF s 0 Reg.plnState_staged = 1 then { s with cmdStatus := 8 }
  else
    let s := emptyStaged { s with cmdStatus := 0 }
    if planRuns s then s else withdrawWaiting (recheckPorts s)

/-! ## Messages of the barriers (R346, R347) -/

/-- No report. -/
def noReport : Report := ⟨0, 0, 0⟩

/-- Of two reports the one with the smaller tick, then the lower cause, then the lower source; cause 0 is none (R346). -/
def firstReport (a b : Report) : Report :=
  if a.cause = 0 then b else if b.cause = 0 then a
  else if a.tick ≠ b.tick then (if a.tick < b.tick then a else b)
  else if a.cause ≠ b.cause then (if a.cause < b.cause then a else b)
  else if a.source ≤ b.source then a else b

/-- The union of two lists of losses, none beyond 30 entries (R347). -/
def joinLosses (a b : Option (List Loss)) : Option (List Loss) :=
  match a, b with
  | some x, some y =>
    let u := x ++ y.filter fun l => !x.contains l
    if u.length ≤ 30 then some u else none
  | _, _ => none

/-- Two messages of one subtree combined (R75, R150, R346). -/
def joinMsg (a b : ObarMsg) : ObarMsg :=
  { ok := a.ok && b.ok, abort := a.abort || b.abort, band := max a.band b.band, losses := joinLosses a.losses b.losses
    report := firstReport a.report b.report, lag := slower a.lag b.lag, votes := a.votes &&& b.votes }

/-- What a missing child contributes (R626). -/
def missingMsg : ObarMsg := ⟨false, false, 0, some [], noReport, .empty, 0⟩

/-- Device children of this device in tree 0. -/
def obarChildren (s : State) : List Nat := ((myChildren s 0).filter (·.level != 0)).map (·.node)

/-- The message of a child that is complete at the barrier unit, 24 ticks after the K27.7 of its last cell (01 R35; R626). -/
def childUp (s : State) (k : Nat) : Option ObarMsg := (s.pln.ups.find? fun u => u.1 == k && decide (u.2.2 + 24 ≤ s.mer)).map (·.2.1)

/-- The message of a child, or a missing one's. -/
def childMsg (s : State) (k : Nat) : ObarMsg := (childUp s k).getD missingMsg

/-- A child's message is missing. -/
def childMissing (s : State) (k : Nat) : Bool := (childUp s k).isNone

/-- Queue a message on flow 0xFFE to a node, first leaving at `at'` (R346). -/
def sendObar (s : State) (kind dst : Nat) (m : ObarMsg) (at' : Nat) : State :=
  sendCells s ((withOfs (obarPayloads m)).map fun c => ⟨kind, 0, dst, 0xFFE, c.1, c.2⟩) at'

/-- Queue OBAR_DOWN to every device child. -/
def sendDown (s : State) (m : ObarMsg) (at' : Nat) : State := (obarChildren s).foldl (fun s k => sendObar s 6 k m at') s

/-! ## Losses of units and alternate sets (R65, R621; 17 R560) -/

/-- The lowest-numbered set that covers every loss; 0 where there is none to cover (R621). -/
def coverSet (p : Plan) (l : List Loss) : Option Nat :=
  if l.isEmpty then some 0 else (p.alts.find? fun a => l.all fun x => a.losses.contains x).map (·.set)

/-- A message's losses are covered by a plan. -/
def coverMsg (p : Plan) (m : ObarMsg) : Option Nat := m.losses.bind (coverSet p)

/-- UNIT of a loss entry for an engine: a Mover or a home agent at logical position 0 (R621). -/
def lossUnit (u : Nat) : Nat := if u % 16 = 3 ∨ u % 16 = 4 then u % 256 else u

/-- Units of the primary tables that have no unit to serve them: KIND 0x3 losses (17 R560). -/
def unitLosses (s : State) (p : Plan) : List Loss :=
  (((p.work.flatMap (ctxUnits p 0)).filter fun u => !unitRuns s u).map lossUnit).dedup.map fun u => ⟨nodeId s, 3, u⟩

/-! ## The start barrier (R416 to R418) -/

/-- A device that was not ARMED before S - 16384 stays out of the barrier (R416). -/
def lateArm (s : State) : State := if s.pln.starting ∧ s.pln.outOfStart = true then failStart s else s

/-- Ticks of a cable delay, rounded up (R412, R135). -/
def cableTicks (s : State) (code : Nat) : Nat :=
  let d := (linkOf s code).delay
  if 2 ^ 23 ≤ d then 0 else ceilDiv d 64

/-- A foreseen port is ready to start: IN_SERVICE with a neighbour ARMED for S and a cable within R135, or lost (R417). -/
def portReady (s : State) (p : Plan) (code : Nat) : Bool :=
  match foreseen s (logicalPort s code) with
  | none => true
  | some d =>
    let l := linkOf s code
    let limit := if manKind p d = 2 then 24 else p.cableMax
    portIsLost s code ||
      (decide (l.state = 4) && decide (cableTicks s code ≤ limit) &&
        (match l.ident with
         | some i => i.flags.testBit 2 && i.startAt == s.pln.startAt
         | none => false))

/-- This device's contribution to the start barrier (R417). -/
def startOwn (s : State) (p : Plan) : ObarMsg :=
  let losses := packLosses s ((lostPorts s) ++ unitLosses s p)
  { ok := isSynced s && (allPorts s).all (portReady s p), abort := false, band := getF s 0 Reg.memBand_band
    losses := if losses.length ≤ 30 then some losses else none, report := noReport, lag := .empty, votes := BitVec.allOnes 512 }

/-- The losses that this device knows of as the plan starts. -/
def startLosses (s : State) (p : Plan) : State := { s with pln := { s.pln with losses := lostPorts s ++ unitLosses s p } }

/-- The contribution of this device's subtree. -/
def startMsg (s : State) (p : Plan) : ObarMsg := (obarChildren s).foldl (fun m k => joinMsg m (childMsg s k)) (startOwn s p)

/-- The tick of OBAR_UP in the start barrier: S - 8192, or where children's messages are complete later, as soon as they are (R417). -/
def startUpAt (s : State) : Nat :=
  (obarChildren s).foldl (fun t k => max t (((s.pln.ups.find? (·.1 == k)).map (·.2.2 + 24)).getD 0)) (s.pln.startAt - 8192)

/-- OBAR_UP of the start barrier leaves in its tick once every child's message is in (R417; the ticks of timed events, log 1). -/
def startUp (s : State) : State :=
  match s.pln.active with
  | none => s
  | some p =>
    let kids := obarChildren s
    if s.pln.starting && !s.pln.outOfStart && !s.pln.upSent && !isZenith s 0 && decide (s.mer = startUpAt s) &&
        kids.all (fun k => !childMissing s k) then
      let m := startMsg s p
      let parent := ((myNode s 0).map (·.2.parent)).getD 0xFFFF
      let s := { s with pln := { s.pln with own := some m, upSent := true, cutDone := true } }
      sendObar (startLosses s p) 5 parent m s.mer
    else s

/-- At S - 4096 the zenith forms the result; a missing contribution is OK 0 (R417). -/
def startZenith (s : State) : State :=
  match s.pln.active with
  | none => s
  | some p =>
    if s.pln.starting && !s.pln.outOfStart && isZenith s 0 && s.pln.held.isNone && decide (s.pln.startAt = s.mer + 4096) then
      let s := dropShort s 5
      let m := startMsg s p
      let m := { m with ok := m.ok && (coverMsg p m).isSome }
      let s := { s with pln := { s.pln with own := some m, held := some m, cutDone := true, downSent := true } }
      sendDown (startLosses s p) m s.mer
    else s

/-- This device holds a result that forms COMMIT. -/
def startCommits (s : State) : Bool :=
  match s.pln.held with
  | some m => m.ok
  | none => false

/-- The fields of an OUTCOME cell (R344). -/
structure OutcomeCell where
  commit : Bool
  cause : Nat
  source : Nat
  stepNo : Nat
  exec : Nat
  nextStep : Nat
  nextBand : Nat
  nextAlt : Nat
  flags : Nat
  prevOutcome : Nat
  prevCause : Nat
  deriving DecidableEq, Repr

/-- Payload of an OUTCOME cell (R344). -/
def outcomePayload (o : OutcomeCell) : Payload :=
  payOf (leBytes 1 (if o.commit then 1 else 0) ++ leBytes 1 o.cause ++ leBytes 2 o.source ++ leBytes 4 o.stepNo ++ leBytes 8 o.exec ++
    leBytes 4 o.nextStep ++ leBytes 1 o.nextBand ++ leBytes 1 o.nextAlt ++ leBytes 1 o.flags ++ [0] ++ leBytes 1 o.prevOutcome ++
    leBytes 1 o.prevCause)

/-- Every attached endpoint member is sent the cell, and the outcome store keeps it (R344, R345). -/
def sendOutcome (s : State) (o : OutcomeCell) : State :=
  let s := (attached s).foldl (fun s k =>
    let c := mkCell 4 false 0 k (nodeId s) 0xFFF 0 (txStep s) 0 (outcomePayload o)
    routeUnicast { s with fab := { s.fab with outStore := kvPut s.fab.outStore k c } } none k c s.mer noBuf) s
  { s with pln := { s.pln with cellsSent := true } }

/-- An OBAR_DOWN message that arrived in time is held 24 ticks after its last cell, and the zenith's own outcome 71 ticks after its
cut; in the start barrier it counts up to S - 32 (R80, R418, R626). -/
def liftHeld (s : State) : State :=
  match s.pln.held with
  | some _ => s
  | none =>
    if isZenith s 0 && !s.pln.starting then
      if s.pln.cutDone && decide (cutAt s + 71 ≤ s.mer) then { s with pln := { s.pln with held := s.pln.own } } else s
    else
      match s.pln.obar with
      | some (m, t) =>
        let last := if s.pln.starting then s.pln.startAt - 31 else barrierEnd s
        if t + 24 ≤ s.mer ∧ t + 24 < last then { s with pln := { s.pln with held := some m } } else s
      | none => s

/-- The barrier unit holds the outcome (R80, R626). -/
def outcomeHeld (s : State) : State := if barrierOpen s || s.pln.starting then liftHeld s else s

/-- OUTCOME cells of the start barrier at S - 32; without a COMMIT the device returns to IDLE (R418). -/
def startOutcome (s : State) : State :=
  let s := outcomeHeld s
  match s.pln.active with
  | none => s
  | some p =>
    if s.pln.starting && !s.pln.outOfStart && !s.pln.cellsSent && decide (s.pln.startAt = s.mer + 32) then
      let s := if s.pln.held.isNone then dropShort s 6 else s
      match s.pln.held with
      | some m =>
        if m.ok then
          sendOutcome s ⟨true, 0, 0, 0xFFFFFFFF, 2 ^ 64 - 1, 0, min m.band 2, (coverMsg p m).getD 0, 8, s.pln.prevOutcome, s.pln.prevCause⟩
        else failStart (sendOutcome s ⟨false, 0x0C, 0xFFFF, 0xFFFFFFFF, 2 ^ 64 - 1, 0xFFFFFFFF, 0, 0, 4, s.pln.prevOutcome, s.pln.prevCause⟩)
      | none =>
        failStart (sendOutcome s ⟨false, 0x0C, 0xFFFF, 0xFFFFFFFF, 2 ^ 64 - 1, 0xFFFFFFFF, 0, 0, 4, s.pln.prevOutcome, s.pln.prevCause⟩)
    else s

/-! ## The commands -/

/-- LOAD (R91). -/
def execLoad (s : State) : Host.Outcome State Fault Refusal :=
  whenServes s .core (.next (loadCmd s))

/-- The loader finishes (R68). -/
def execLoadComplete (s : State) : Host.Outcome State Fault Refusal :=
  whenRuns s .core (.next (loadDone s))

/-- ARM (R70). -/
def execArm (s : State) : Host.Outcome State Fault Refusal :=
  whenServes s .core (.next (armCmd s))

/-- ABORT (R79). -/
def execAbort (s : State) : Host.Outcome State Fault Refusal :=
  whenServes s .core (.next (abortCmd s))

/-- DISCARD (R90). -/
def execDiscard (s : State) : Host.Outcome State Fault Refusal :=
  whenServes s .core (.next (discardCmd s))

/-- A device armed too late (R416). -/
def execStartBarrierLateArm (s : State) : Host.Outcome State Fault Refusal :=
  whenRuns s .core (.next (lateArm s))

/-- OBAR_UP of the start barrier (R417). -/
def execStartBarrierUp (s : State) : Host.Outcome State Fault Refusal :=
  whenRuns s .core (.next (startUp s))

/-- The zenith forms the start (R417). -/
def execStartBarrierZenith (s : State) : Host.Outcome State Fault Refusal :=
  whenRuns s .core (.next (startZenith s))

/-- OUTCOME cells of the start barrier (R418). -/
def execStartOutcomeCell (s : State) : Host.Outcome State Fault Refusal :=
  whenRuns s .core (.next (startOutcome s))

end Sys2Proof.Machine
end

