-- ==== Sys2Proof/Machine/Outcome.lean ====
section
/-! DEFINITION. The outcome window: the cut, the messages of the outcome barrier, the verdict that follows from an outcome, OUTCOME
cells, rejoin points and STEP_INFO (02 R72 to R82; 04 R159, R160, R626; 09 R344 to R347; 11 R393, R406 to R408; 20 R614). -/

namespace Sys2Proof.Machine

/-! ## The cut (R75, R79, R81, R626) -/

/-- Lag slot of one attached member of the step: its last cell, or its earliest deadline where it missed one (R158). -/
def stepMember (s : State) (k : Nat) : LagSlot :=
  let gone := ((s.eng.missed.filter (·.2.1 == k)).map (·.2.2)).min?
  match gone, kvGet s.fab.lagNow k with
  | some d, _ => memberSlot s k d (some d)
  | none, some t => memberSlot s k t none
  | none, none => .empty

/-- The upward step lag slot of this device's own members (R159). -/
def stepLag (s : State) : LagSlot := ((attached s).map (stepMember s)).foldl slower .empty

/-- Reports before the cut, with LINK for a missing child and THERMAL for a Critical band (R81, R626). -/
def cutReports (s : State) (cut : Nat) : List Report :=
  (s.pln.reports.filter fun r => decide (r.tick < cut)) ++
    (if (obarChildren s).any (childMissing s) then [⟨6, nodeId s, cut⟩] else []) ++
    (if getF s 0 Reg.memBand_band = 3 then [⟨5, nodeId s, cut⟩] else [])

/-- Own losses as the barrier carries them. -/
def ownLosses (s : State) : Option (List Loss) :=
  let l := packLosses s s.pln.losses
  if l.length ≤ 30 then some l else none

/-- What a rejoining device reports in the execution that it runs IDLE: an ABORT, a missing child, and a Critical band (R79, R81, R626;
DEDUCED, log 57). -/
def idleReports (s : State) (cut : Nat) : List Report :=
  (s.pln.reports.filter fun r => r.cause == 9 && decide (r.tick < cut)) ++
    (if (obarChildren s).any (childMissing s) then [⟨6, nodeId s, cut⟩] else []) ++
    (if getF s 0 Reg.memBand_band = 3 then [⟨5, nodeId s, cut⟩] else [])

/-- This device's own contribution: in a hold its band and losses, from a rejoining device OK 1 and no losses (R75, R81, R407). -/
def cutOwn (s : State) (cut : Nat) : ObarMsg :=
  let band := getF s 0 Reg.memBand_band
  if s.pln.hold.isSome then ⟨true, false, band, ownLosses s, noReport, .empty, BitVec.allOnes 512⟩
  else if s.pln.idleExec then
    let reports := idleReports s cut
    ⟨true, s.pln.abort, band, some [], reports.foldl firstReport noReport, .empty, BitVec.allOnes 512⟩
  else
    let reports := cutReports s cut
    ⟨reports.isEmpty, s.pln.abort, band, ownLosses s, reports.foldl firstReport noReport, stepLag s, voteVector s⟩

/-- The message of this device's subtree; in a hold OK, causes and votes play no part. -/
def cutMsg (s : State) (cut : Nat) : ObarMsg :=
  let m := (obarChildren s).foldl (fun m k => joinMsg m (childMsg s k)) (cutOwn s cut)
  if s.pln.hold.isSome then { m with ok := true, abort := false, report := noReport } else m

/-- The zenith's outcome of the combined message: COMMIT unless something voids the step, be it only a Critical band, which always comes
with a VOID (R81); and the downward lag slot, in which VOIDED stays clear: only a barrier record's release sets it (R75, R150, R151;
DEDUCED, log 37). -/
def formOutcome (s : State) (m : ObarMsg) : ObarMsg :=
  { m with ok := m.ok && !m.abort && m.band != 3 && s.pln.hold.isNone, lag := downSlot m.lag false }

/-- The cut of this device: its contribution is fixed, and what is reported at or after it belongs to the next execution. In a hold, whose
barrier carries no causes, every report waits for the execution that follows (R76, R81). -/
def outcomeCut (s : State) : State :=
  if barrierOpen s && !s.pln.cutDone && decide (s.mer = cutAt s) then
    let s := dropShort s 5
    let cut := cutAt s
    let m := cutMsg s cut
    let late := s.pln.reports.filter fun r => decide (cut ≤ r.tick)
    let m := if isZenith s 0 then formOutcome s m else m
    let t := { s with pln := { s.pln with own := some m, cutDone := true } }
    if s.pln.hold.isSome then t
    else
      { t with pln := { t.pln with
        nextReports := s.pln.nextReports ++ late, reports := if s.pln.idleExec then idleReports s cut else cutReports s cut } }
  else s

/-! ## OBAR_UP and OBAR_DOWN (R626) -/

/-- The slack of the outcome barrier's combination against its fixed end (R41, R83): the barrier unit that serves logical unit 0 measures
it, a free value of at least 1 tick (01 R33). -/
def barrierSlack (s : State) (ticks : Nat) : State :=
  let d := drawNat s
  judgeSlack d.2 (pageOfUnit s 0xF5) 0xF5 0xF5 0 (1 + d.1 % ticks)

/-- 57 ticks after the cut a device below the zenith sends its message up, its first cell leaving at C(l) + 77. -/
def obarUp (s : State) : State :=
  match s.pln.own with
  | some m =>
    if barrierOpen s && s.pln.cutDone && !s.pln.upSent && !isZenith s 0 && decide (s.mer = cutAt s + 57) then
      let parent := ((myNode s 0).map (·.2.parent)).getD 0xFFFF
      sendObar (barrierSlack { s with pln := { s.pln with upSent := true } } 57) 5 parent m (cutAt s + 77)
    else s
  | none => s

/-- The zenith's outcome stands 71 ticks after its cut and leaves 20 later; every other device sends the outcome that it received
down from F(l) (R626). In the start barrier a message goes down as it came. -/
def obarDown (s : State) : State :=
  if s.pln.downSent then s
  else if s.pln.starting then
    match s.pln.obar with
    | some (m, _) => sendDown { s with pln := { s.pln with downSent := true } } m s.mer
    | none => s
  else if barrierOpen s then
    if isZenith s 0 then
      match s.pln.own with
      | some m =>
        if decide (s.mer = cutAt s + 71) && s.pln.cutDone then
          sendDown (barrierSlack { s with pln := { s.pln with downSent := true, held := some m } } 71) m (cutAt s + 91)
        else s
      | none => s
    else
      match s.pln.obar with
      | some (m, _) => sendDown { s with pln := { s.pln with downSent := true } } m (max s.mer (downAt s))
      | none => s
  else s

/-! ## The verdict (R78 to R82, R71, R621) -/

/-- What a boundary does next: the execution that follows (step, attempt, passes of the loop), whether a staged plan begins and
under which set, whether the plan ends HALTED, and the cause shown. -/
structure Verdict where
  commit : Bool
  cause : Nat
  cellCause : Nat
  source : Nat
  next : Option (Nat × Nat × Nat)
  retry : Bool
  halted : Bool
  hold : Bool
  band : Nat
  alt : Nat
  begins : Bool
  deriving DecidableEq, Repr

/-- A staged plan that is armed begins at a boundary where the plan ends, if one of its sets covers the losses (R71, R82). -/
def followSet (s : State) (m : ObarMsg) : Option Nat :=
  if s.pln.follow then s.pln.staged.bind fun q => coverMsg q m else none

/-- The end of a plan: the cause, and the staged plan that may begin. SOURCE is that of the step's own report, 0 where there is none: the
spec names no node for NO_ALT (DESIGN CHOICE, log 101). -/
def endVerdict (s : State) (m : ObarMsg) (commit halted : Bool) (cause cellCause : Nat) : Verdict :=
  let f := followSet s m
  ⟨commit, cause, cellCause, m.report.source, none, false, halted, false, min m.band 2, f.getD 0, f.isSome⟩

/-- The verdict of a step's outcome. Losses that no set covers end the plan with NO_ALT at any boundary (R65, R87). SKIP after a VOID of
the last step in order names no next step, and ends the plan without HALTED and with the VOID's own cause (R78, R82; DESIGN CHOICE,
log 86). -/
def stepVerdict (s : State) (p : Plan) (t : StepRec) (m : ObarMsg) : Verdict :=
  let step := getF s 0 Reg.plnStep_step
  let attempt := getF s 0 Reg.plnStep_attempt
  let chosen := if m.ok then (nextInOrder p step s.pln.loops, false)
    else if m.abort then (none, false) else afterVoid p t step attempt s.pln.loops
  let cover := coverMsg p m
  let cause := if m.ok then 0 else m.report.cause
  if cover.isNone then
    endVerdict s m m.ok true 0x0A (if m.ok then 0 else 0x0A)
  else
    match chosen.1 with
    | none =>
      if m.ok then endVerdict s m true false 0 0
      else if m.abort then endVerdict s m false true cause cause
      else if t.onVoid = 1 then endVerdict s m false false cause cause
      else endVerdict s m false true 0x0B 0x0B
    | some n =>
      ⟨m.ok, cause, cause, m.report.source, some n, chosen.2, false, !m.ok && decide (m.band = 3), min m.band 2, cover.getD 0, false⟩

/-- The verdict of a hold interval: another one, the execution that ON_VOID chose in Hot, or NO_ALT (R81). -/
def holdVerdict (s : State) (p : Plan) (m : ObarMsg) : Verdict :=
  let more := decide (m.band = 3)
  match coverMsg p m with
  | none => endVerdict s m false true 0x0A 0x05
  | some a =>
    ⟨false, 5, 5, 0xFFFF, s.pln.holdNext, decide (((s.pln.holdNext.map (·.2.1)).getD 0) ≠ 0), false, more, 2, a, false⟩

/-- The verdict of the outcome that this device holds. -/
def verdict (s : State) : Option Verdict :=
  match s.pln.held, s.pln.active, curStep s with
  | some m, some p, some t => some (if s.pln.hold.isSome then holdVerdict s p m else stepVerdict s p t m)
  | _, _, _ => none

/-! ## OUTCOME cells (R344, R81) -/

/-- FLAGS of an OUTCOME cell. -/
def cellFlags (v : Verdict) : Nat :=
  (if v.retry then 1 else 0) + (if v.halted then 2 else 0) + (if v.next.isNone then 4 else 0) + (if v.begins then 8 else 0) +
    (if v.hold then 16 else 0)

/-- NEXT_STEP: 0xFFFFFFFF if the plan ends, whether or not a staged plan begins there (R344). -/
def cellNext (v : Verdict) : Nat :=
  match v.next with
  | some n => n.1
  | none => 0xFFFFFFFF

/-- The cell of a boundary. -/
def outcomeOf (s : State) (v : Verdict) : OutcomeCell :=
  if s.pln.hold.isSome then
    ⟨false, 5, 0xFFFF, 0xFFFFFFFF, 2 ^ 64 - 1, cellNext v, 2, v.alt, cellFlags v, s.pln.prevOutcome, s.pln.prevCause⟩
  else
    ⟨v.commit, v.cellCause, v.source, getF s 0 Reg.plnStep_step, curExec s, cellNext v, if v.hold then 2 else v.band, v.alt, cellFlags v,
      s.pln.prevOutcome, s.pln.prevCause⟩

/-- OUTCOME cells leave at E - 32 (R344). -/
def outcomeCells (s : State) : State :=
  let s := outcomeHeld s
  if barrierOpen s && !s.pln.cellsSent && decide (barrierEnd s = s.mer + 32) then
    match verdict s with
    | some v => sendOutcome s (outcomeOf s v)
    | none => s
  else s

/-! ## W (R91, R408; 20 R614) -/

/-- A port held with reason 11 whose neighbour is ready to rejoin (R408). -/
def rejoinReady (s : State) (c : Nat) : Bool :=
  let l := linkOf s c
  let ready := match l.ident with
    | some i => (i.kind == 1 && i.flags.testBit 3 && i.flags.testBit 4) || (i.kind == 2 && i.flags.testBit 2 && i.startAt == 0)
    | none => false
  l.state == 3 && l.reason == 11 && ready

/-- Reason-11 ports of a rejoin point whose neighbour is ready return to service, and their losses end (R408). -/
def admitRejoin (s : State) : State :=
  (allPorts s).foldl (fun s c =>
    if rejoinReady s c then
      let s := setReason (setLink s { linkOf s c with state := 4 }) c 0
      let mine := fun x : Loss => x == ⟨nodeId s, 1, logicalPort s c⟩
      { s with pln := { s.pln with
        losses := s.pln.losses.filter fun x => !mine x, nextLosses := s.pln.nextLosses.filter fun x => !mine x } }
    else s) s

/-- The current execution is a rejoin point. -/
def rejoinPoint (s : State) : Bool := ((curStep s).map (·.rejoin)).getD false

/-- At W of a rejoin point the waiting ports are admitted once (R408). -/
def rejoinAdmit (s : State) : State :=
  if inStep s && decide (s.mer = stepW s) && rejoinPoint s && !s.pln.rejoinDone && !s.pln.idleExec && !s.pln.cutDone then
    let s := admitRejoin s
    { s with pln := { s.pln with rejoinDone := true } }
  else s

/-- At W: ENDING where the plan ends if this execution commits, and after step 0 of a plan with a firmware handover the check of
reason 5 on every port (R91, 20 R614). -/
def windowOpen (s : State) : State :=
  if inStep s && decide (s.mer = stepW s) && !s.pln.window then
    let s := { s with pln := { s.pln with window := true } }
    let s := if s.pln.fwStep then recheckPorts { s with pln := { s.pln with fwStep := false } } else s
    match s.pln.active with
    | some p => if (nextInOrder p (getF s 0 Reg.plnStep_step) s.pln.loops).isNone then setActive s 3 else s
    | none => s
  else s

/-! ## STEP_INFO (R406, R407) -/

/-- Payload of a STEP_INFO request (R406). -/
def infoPayload (s : State) : Payload :=
  payOf (leBytes 1 0x10 ++ leBytes 1 (if rejoinPoint s then 1 else 0) ++ leBytes 1 (stepBand s) ++ leBytes 1 (curAlt s) ++
    leBytes 4 (getF s 0 Reg.plnStep_step) ++ leBytes 8 (curExec s) ++ leBytes 8 (stepBase s) ++
    (digestBytes (getDigest s 0 Reg.plnDigest_digest)).take 16)

/-- A running device sends one STEP_INFO in each step on every port held with reason 11 (R406). -/
def infoSend (s : State) : State :=
  if inStep s && !s.pln.infoSent && !s.pln.idleExec then
    let s := { s with pln := { s.pln with infoSent := true } }
    (allPorts s).foldl (fun s c =>
      if portState s c == 3 && (linkOf s c).reason == 11 then
        pushSvc s (logicalPort s c) (linkCell s 0x14 0 (infoPayload s)) s.mer
      else s) s
  else s

/-- A STEP_INFO at a device that is armed for rejoin: with REJOIN and its own PLAN_TAG, no later than W - 2048, the execution becomes its
own and runs IDLE (R407); the losses that it knows of wait for the next barrier (R393). The passes of the loop that are complete do not
stand in it: a free value. -/
def infoTake (s : State) (p : Payload) : State :=
  match s.pln.active with
  | none => s
  | some q =>
    let step := payNat p 4 4
    let base := payNat p 0x10 8
    let band := payNat p 2 1
    match q.steps[step]? with
    | none => s
    | some t =>
      if s.pln.rejoin && decide (getF s 0 Reg.plnState_active = 1) && decide (payNat p 0 1 = 0x10) && (payNat p 1 1) % 2 == 1 &&
          t.rejoin && decide (band < 3) && payNat p 0x18 16 == q.planDigest.toNat % 2 ^ 128 &&
          decide (s.mer + 2048 ≤ base + t.len band - t.outwin) then
        let f := drawNat s
        let s := setF (setF (setF f.2 0 Reg.plnStep_step step) 0 Reg.plnStep_attempt 0) 0 Reg.plnExec_exec (payNat p 8 8)
        let s := setF (setF (setF s 0 Reg.plnStepBase_base base) 0 Reg.plnState_band band) 0 Reg.plnState_alt (payNat p 3 1)
        let s := beginLags (setActive s 2)
        let s := { s with fab := { s.fab with obarRx := [], badObar := [] } }
        { s with pln := { s.pln with
          idleExec := true, rejoin := false, loops := if step < q.loopFirst ∨ q.loopCount ≤ 1 then 0 else f.1 % q.loopCount
          reports := [], nextReports := [], losses := lostPorts s ++ unitLosses s q, nextLosses := [], abort := false, nextAbort := false, cutDone := false
          own := none, ups := [], upSent := false, downSent := false, cellsSent := false, obar := none, held := none, window := false
          infoSent := false, repairRan := false, rejoinDone := false } }
      else s

/-- A STEP_INFO request reaches a port in cell service. -/
def infoReceive (s : State) (port : Nat) (p : Payload) : State := if 2 ≤ portState s port then infoTake s p else s

/-! ## The commands -/

/-- The cut (R626). -/
def execOutcomeCut (s : State) : Host.Outcome State Fault Refusal :=
  whenRuns s .core (.next (outcomeCut s))

/-- OBAR_UP leaves (R626). -/
def execObarUpSend (s : State) : Host.Outcome State Fault Refusal :=
  whenRuns s .core (.next (obarUp s))

/-- OBAR_DOWN leaves (R626). -/
def execObarDownSend (s : State) : Host.Outcome State Fault Refusal :=
  whenRuns s .core (.next (obarDown s))

/-- The outcome is held (R626). -/
def execOutcomeHeld (s : State) : Host.Outcome State Fault Refusal :=
  whenRuns s .core (.next (outcomeHeld s))

/-- OUTCOME cells leave (R344). -/
def execOutcomeCellSend (s : State) : Host.Outcome State Fault Refusal :=
  whenRuns s .core (.next (outcomeCells s))

/-- W of the step (R91). -/
def execOutcomeWindowOpen (s : State) : Host.Outcome State Fault Refusal :=
  whenRuns s .core (.next (windowOpen s))

/-- W of a rejoin point (R408). -/
def execRejoinAdmit (s : State) : Host.Outcome State Fault Refusal :=
  whenRuns s .core (.next (rejoinAdmit s))

/-- STEP_INFO requests are sent (R406). -/
def execStepInfoSend (s : State) : Host.Outcome State Fault Refusal :=
  whenRuns s .core (.next (infoSend s))

/-- A STEP_INFO request arrives (R407). -/
def execStepInfoReceive (port : Nat) (p : Payload) (s : State) : Host.Outcome State Fault Refusal :=
  onPort s port (infoReceive s port p)

end Sys2Proof.Machine
end

