-- ==== Sys2Proof/Machine/Frames.lean ====
section
/-! DEFINITION. Ethernet frames at the host ports: the FCS, tags, stations, policers, destinations and local services (13 R450 to
R456). -/

namespace Sys2Proof.Machine

/-! ## Ports and pages -/

/-- The host die of a port (R449). -/
def hostDie (port : Nat) : Nat := port / 4

/-- A host port is up. -/
def hostLink (s : State) (port : Nat) : Bool := getF s port Reg.hostPortStatus_link == 1

/-- The host die takes work: it runs and no block reset holds it (18 R582). -/
def hostServes (s : State) (die : Nat) : Bool := runs s .hosts && !blockBusy s (pageOf 0xE die) 0

/-! ## Bytes -/

/-- n bytes from an offset as a number, the first byte most significant (network order). -/
def netNat (bs : List Byte) (ofs n : Nat) : Nat := beNat ((bs.drop ofs).take n)

/-- One bit of the reflected CRC-32 of IEEE 802.3. -/
def fcsBit (crc : Nat) : Nat := if crc % 2 = 1 then (crc / 2) ^^^ 0xEDB88320 else crc / 2

/-- One byte of it. -/
def fcsByte (crc b : Nat) : Nat := fcsBit (fcsBit (fcsBit (fcsBit (fcsBit (fcsBit (fcsBit (fcsBit (crc ^^^ b))))))))

/-- The FCS of the bytes of a frame before it, in the order of the wire. -/
def fcsOf (bs : List Byte) : List Byte := leBytes 4 ((bs.foldl (fun c b => fcsByte c b.toNat) 0xFFFFFFFF) ^^^ 0xFFFFFFFF)

/-- A frame without its FCS. -/
def bodyOf (frame : List Byte) : List Byte := frame.take (frame.length - 4)

/-- The FCS of a frame is right. -/
def fcsOk (frame : List Byte) : Bool := decide (4 ≤ frame.length) && frame.drop (frame.length - 4) == fcsOf (bodyOf frame)

/-- The Internet checksum: the ones' complement sum of 16-bit words. -/
def onesSum : List Byte → Nat
  | [] => 0
  | [a] => a.toNat * 256
  | a :: b :: l => a.toNat * 256 + b.toNat + onesSum l

/-- That sum folded to 16 bits. -/
def fold16 (n : Nat) : Nat := let a := n % 65536 + n / 65536; let b := a % 65536 + a / 65536; b % 65536 + b / 65536

/-! ## Tags (R450, R451) -/

/-- The first EtherType of a frame. -/
def outerType (f : List Byte) : Nat := netNat f 12 2

/-- The frame carries an 802.1Q tag. -/
def tagged (f : List Byte) : Bool := outerType f == 0x8100

/-- The EtherType after an 802.1Q tag. -/
def etherType (f : List Byte) : Nat := if tagged f then netNat f 16 2 else outerType f

/-- The VID and the PCP of a frame on a port (R451). -/
def vidOf (s : State) (port : Nat) (f : List Byte) : Nat :=
  let vid := netNat f 14 2 % 4096
  if tagged f && vid != 0 then vid else getF s port Reg.hostPortCfg_pvid
def pcpOf (f : List Byte) : Nat := if tagged f then netNat f 14 2 / 8192 else 0

/-- The payload after the EtherType, without the FCS. -/
def payloadOf (f : List Byte) : List Byte := (bodyOf f).drop (if tagged f then 18 else 14)

/-- The frame without its tag, padded to 60 bytes, and without its FCS. -/
def untaggedBody (f : List Byte) : List Byte :=
  let b := bodyOf f
  let u := if tagged f then b.take 12 ++ b.drop 16 else b
  u ++ List.replicate (60 - u.length) 0

/-- The frame as it leaves a port: tagged with its VID and PCP, unless its VID is the port's PVID (R451). -/
def egressForm (s : State) (port vid pcp : Nat) (f : List Byte) : List Byte :=
  let b := untaggedBody f
  let b := if vid = getF s port Reg.hostPortCfg_pvid then b
    else b.take 12 ++ beBytes 2 0x8100 ++ beBytes 2 (pcp * 8192 + vid) ++ b.drop 12
  b ++ fcsOf b

/-! ## The first checks (R450 codes 1 to 5) -/

/-- The port is a member of a VID (R451). -/
def vlanMember (s : State) (port vid : Nat) : Bool := (getReg s 0 (pageOf 0xF port) (0x118 + 8 * (vid / 64))).getLsbD (vid % 64)

/-- The code of the first check of codes 1 to 5 that fails, 0 if none. -/
def formCode (s : State) (port : Nat) (f : List Byte) (fecBad : Bool) : Nat :=
  if fecBad || !fcsOk f then 1
  else if f.length < 64 ∨ getF s port Reg.hostPortCfg_maxFrame < f.length then 2
  else if etherType f = 0x8808 then 3
  else if outerType f = 0x88A8 ∨ (tagged f ∧ (etherType f = 0x8100 ∨ etherType f = 0x88A8 ∨ netNat f 14 2 % 4096 = 4095)) then 4
  else if !vlanMember s port (vidOf s port f) then 5
  else 0

/-! ## Stations (R452) -/

/-- The valid station entries of a die in ascending index, each with its contents. -/
def stations (s : State) (die : Nat) : List (Nat × Word) :=
  s.regs.filterMap fun kv =>
    if kv.1 % 2 ^ 28 = pageOf 0xE die * 4096 + 0x128 ∧ kv.2.getLsbD 62 = true then some (kv.1 / 2 ^ 28, kv.2) else none

/-- The station entry of a source. -/
def stationOf (s : State) (port vid sa : Nat) : Option Nat :=
  ((stations s (hostDie port)).find? fun e => bits e.2 0 48 == sa && bits e.2 48 12 == vid && bits e.2 60 2 == port % 4).map (·.1)

/-- The first stranger since the last read is recorded (R452). -/
def noteStranger (s : State) (port vid sa : Nat) : State :=
  let die := hostDie port
  if getF s die Reg.hostStranger_valid = 1 then s
  else setB (setF (setF (setF s die Reg.hostStranger_sa sa) die Reg.hostStranger_vid vid) die Reg.hostStranger_port (port % 4)) die
    Reg.hostStranger_valid true

/-- A field of a station's HOST_STA_ATTR. -/
def staLocal (s : State) (die i : Nat) : Bool := getFI s i die 0 Reg.hostStaAttr_local == 1
def staForward (s : State) (die i : Nat) : Bool := getFI s i die 0 Reg.hostStaAttr_forward == 1

/-! ## Policers (R455, R456) -/

/-- Units of tokens in a byte (R455). -/
def tokenUnit : Nat := 5120

/-- A policer with full buckets. -/
def fullPolicer (s : State) (die i : Nat) : Policer :=
  ⟨die, i, getFI s i die 0 Reg.hostPolBurst_cbs * tokenUnit, getFI s i die 0 Reg.hostPolBurst_ebsPbs * tokenUnit, s.mer⟩

/-- The buckets of a policer as they stand now: each has gained its rate in each tick up to its burst; the overflow of the committed
bucket of the single-rate marker fills the other (RFC 2697). -/
def policerNow (s : State) (die i : Nat) : Policer :=
  match s.host.policers.find? fun p => p.die == die && p.index == i with
  | none => fullPolicer s die i
  | some p =>
    let dt := s.mer - p.since
    let cbs := getFI s i die 0 Reg.hostPolBurst_cbs * tokenUnit
    let ebs := getFI s i die 0 Reg.hostPolBurst_ebsPbs * tokenUnit
    let c := p.c + dt * getFI s i die 0 Reg.hostPolRate_cir
    if getFI s i die 0 Reg.hostPolRate_mode = 0 then ⟨die, i, min cbs c, min ebs (p.e + (c - cbs)), s.mer⟩
    else ⟨die, i, min cbs c, min ebs (p.e + dt * getFI s i die 0 Reg.hostPolRate_pir), s.mer⟩

/-- Keep a policer. -/
def setPolicer (s : State) (p : Policer) : State :=
  { s with host := { s.host with policers := p :: s.host.policers.filter fun q => !(q.die == p.die && q.index == p.index) } }

/-- A write of HOST_POL_BURST fills both buckets (R455). -/
def fillPolicer (s : State) (die i : Nat) : State := setPolicer s (fullPolicer s die i)

/-- The policed length of a frame (R455). -/
def policedLen (s : State) (die len : Nat) : Nat := len + getF s die Reg.hostCfg_overhead

/-- A policer marks a frame: 0 green, 1 yellow, 2 red, 3 where no policer is named. -/
def police (s : State) (die i len : Nat) : State × Nat :=
  if i = 0 then (s, 3)
  else if getFI s i die 0 Reg.hostPolRate_enable = 0 then (s, 0)
  else
    let p := policerNow s die i
    let b := policedLen s die len * tokenUnit
    if getFI s i die 0 Reg.hostPolRate_mode = 0 then
      if b ≤ p.c then (setPolicer s { p with c := p.c - b }, 0)
      else if b ≤ p.e then (setPolicer s { p with e := p.e - b }, 1)
      else (setPolicer s p, 2)
    else if p.e < b then (setPolicer s p, 2)
    else if p.c < b then (setPolicer s { p with e := p.e - b }, 1)
    else (setPolicer s { p with c := p.c - b, e := p.e - b }, 0)

/-! ## Local services (R454) -/

/-- What a local frame asks for. -/
inductive HostService where
  | arp (sa mac ip : Nat)
  | neighbour (mac ip : Nat)
  | control
  | roce
  deriving DecidableEq, Repr

/-- The die's IPv6 address, its high half first. -/
def dieIpv6 (s : State) (die : Nat) : Nat := getFI s 0 die 1 Reg.hostIpv6Lo_addr * 2 ^ 64 + getFI s 0 die 0 Reg.hostIpv6Lo_addr

/-- An ARP request for the die's IPv4 address: the frame's source, and the asker's MAC and address. -/
def arpRequest (s : State) (die : Nat) (f : List Byte) : Option HostService :=
  let p := payloadOf f
  if etherType f = 0x0806 ∧ 28 ≤ p.length ∧ netNat p 0 8 = 0x0001080006040001 ∧ getF s die Reg.hostCfg_ipv4En = 1 ∧
      netNat p 24 4 = getF s die Reg.hostIpv4_addr then some (.arp (netNat f 6 6) (netNat p 8 6) (netNat p 14 4))
  else none

/-- The checksum of an IPv6 upper layer is right. -/
def sumOk6 (p : List Byte) (next : Nat) (body : List Byte) : Bool :=
  fold16 (onesSum ((p.drop 8).take 32) + body.length + next + onesSum body) == 0xFFFF

/-- The body of an IPv6 packet to the die with a next header; none where there are extension headers or the length is wrong. -/
def ipv6Body (s : State) (die : Nat) (f : List Byte) (next dst : Nat) : Option (List Byte) :=
  let p := payloadOf f
  let n := netNat p 4 2
  if etherType f = 0x86DD ∧ 40 ≤ p.length ∧ netNat p 0 1 / 16 = 6 ∧ 40 + n ≤ p.length ∧ netNat p 6 1 = next ∧
      getF s die Reg.hostCfg_ipv6En = 1 ∧ netNat p 24 16 = dst then some ((p.drop 40).take n)
  else none

/-- The solicited-node address of an IPv6 address. -/
def solicited (a : Nat) : Nat := 0xFF0200000000000000000001FF000000 + a % 2 ^ 24

/-- A Neighbour Solicitation for the die's IPv6 address: the asker's MAC and address. -/
def neighbourRequest (s : State) (die : Nat) (f : List Byte) : Option HostService :=
  let a := dieIpv6 s die
  let body := (ipv6Body s die f 58 (solicited a)).orElse fun _ => ipv6Body s die f 58 a
  match body with
  | some b =>
    if 24 ≤ b.length ∧ netNat b 0 2 = 0x8700 ∧ netNat b 8 16 = a ∧ netNat (payloadOf f) 7 1 = 255 ∧ sumOk6 (payloadOf f) 58 b = true then
      some (.neighbour (netNat f 6 6) (netNat (payloadOf f) 8 16))
    else none
  | none => none

/-- The service behind a UDP port. -/
def udpService (s : State) (die port : Nat) : Option HostService :=
  if port = 4791 then some .roce else if port = getF s die Reg.hostCfg_ctrlPort then some .control else none

/-- A UDP datagram over IPv4 to the die, whole, without options, every checksum right. -/
def udpOver4 (s : State) (die : Nat) (f : List Byte) : Option HostService :=
  let p := payloadOf f
  let n := netNat p 2 2
  let u := (p.drop 20).take (n - 20)
  if etherType f = 0x0800 ∧ 28 ≤ p.length ∧ netNat p 0 1 = 0x45 ∧ n ≤ p.length ∧ 28 ≤ n ∧ fold16 (onesSum (p.take 20)) = 0xFFFF ∧
      netNat p 6 2 % 16384 = 0 ∧ netNat p 9 1 = 17 ∧ getF s die Reg.hostCfg_ipv4En = 1 ∧
      netNat p 16 4 = getF s die Reg.hostIpv4_addr ∧ netNat u 4 2 = u.length ∧
      (netNat u 6 2 = 0 ∨ fold16 (onesSum ((p.drop 12).take 8) + 17 + u.length + onesSum u) = 0xFFFF) then
    udpService s die (netNat u 2 2)
  else none

/-- A UDP datagram over IPv6 to the die. -/
def udpOver6 (s : State) (die : Nat) (f : List Byte) : Option HostService :=
  match ipv6Body s die f 17 (dieIpv6 s die) with
  | some u =>
    if 8 ≤ u.length ∧ netNat u 4 2 = u.length ∧ netNat u 6 2 ≠ 0 ∧ sumOk6 (payloadOf f) 17 u = true then udpService s die (netNat u 2 2)
    else none
  | none => none

/-- The service that takes a local frame, if any (R454). -/
def serviceOf (s : State) (die : Nat) (f : List Byte) : Option HostService :=
  (arpRequest s die f).orElse fun _ => (neighbourRequest s die f).orElse fun _ => (udpOver4 s die f).orElse fun _ => udpOver6 s die f

/-- The ARP reply to an asker, to the source MAC of its frame (R454), without tag and FCS. -/
def arpReply (s : State) (port sa mac ip : Nat) : List Byte :=
  let own := getF s port Reg.hostPortMac_mac
  beBytes 6 sa ++ beBytes 6 own ++ beBytes 2 0x0806 ++ beBytes 8 0x0001080006040002 ++ beBytes 6 own ++
    beBytes 4 (getF s (hostDie port) Reg.hostIpv4_addr) ++ beBytes 6 mac ++ beBytes 4 ip

/-- The Neighbour Advertisement to an asker, solicited and overriding (R454), without tag and FCS. -/
def neighbourReply (s : State) (port mac ip : Nat) : List Byte :=
  let own := getF s port Reg.hostPortMac_mac
  let a := dieIpv6 s (hostDie port)
  let msg := fun (sum : Nat) => beBytes 2 0x8800 ++ beBytes 2 sum ++ beBytes 4 0x60000000 ++ beBytes 16 a ++ beBytes 2 0x0201 ++ beBytes 6 own
  let sum := 0xFFFF - fold16 (onesSum (beBytes 16 a ++ beBytes 16 ip) + 32 + 58 + onesSum (msg 0))
  beBytes 6 mac ++ beBytes 6 own ++ beBytes 2 0x86DD ++ beBytes 4 0x60000000 ++ beBytes 2 32 ++ beBytes 2 0x3AFF ++ beBytes 16 a ++
    beBytes 16 ip ++ msg sum

/-- A frame with padding and FCS. -/
def closeFrame (b : List Byte) : List Byte :=
  let b := b ++ List.replicate (60 - b.length) 0
  b ++ fcsOf b

/-- A checksum as it stands in a header. -/
def sumField (n : Nat) : Nat := 0xFFFF - fold16 n

/-- A UDP datagram from the die to where an answer goes, on its port, untagged: IPv4 without options and with the Don't Fragment bit, or IPv6;
every checksum is given. What the manual leaves open in the headers is free (R454, R465; DESIGN CHOICE, log 108). -/
def udpFrame (s : State) (peer : ReplyTo) (sport dport : Nat) (data : List Byte) : List Byte :=
  let die := hostDie peer.port
  let own := getF s peer.port Reg.hostPortMac_mac
  let free := fun (k n : Nat) => (List.range n).map fun i => Config.netByte (k + i)
  let n := 8 + data.length
  let udp := fun (sum : Nat) => beBytes 2 sport ++ beBytes 2 dport ++ beBytes 2 n ++ beBytes 2 sum ++ data
  if peer.v6 then
    let addr := beBytes 16 (dieIpv6 s die) ++ beBytes 16 peer.ip
    let first := beBytes 4 (6 * 2 ^ 28 + beNat (free 0 4) % 2 ^ 28)
    let sum := sumField (onesSum addr + n + 17 + onesSum (udp 0))
    closeFrame (beBytes 6 peer.mac ++ beBytes 6 own ++ beBytes 2 0x86DD ++ first ++ beBytes 2 n ++ beBytes 1 17 ++ free 4 1 ++ addr ++
      udp (if sum = 0 then 0xFFFF else sum))
  else
    let addr := beBytes 4 (getF s die Reg.hostIpv4_addr) ++ beBytes 4 peer.ip
    let head := fun (sum : Nat) => beBytes 1 0x45 ++ free 5 1 ++ beBytes 2 (20 + n) ++ free 6 2 ++ beBytes 2 0x4000 ++ free 8 1 ++ beBytes 1 17 ++
      beBytes 2 sum ++ addr
    let sum := sumField (onesSum addr + 17 + n + onesSum (udp 0))
    closeFrame (beBytes 6 peer.mac ++ beBytes 6 own ++ beBytes 2 0x0800 ++ head (sumField (onesSum (head 0))) ++
      udp (if sum = 0 then 0xFFFF else sum))

/-- A RoCEv2 packet: its BTH with opcode, destination QPN and PSN, what follows it padded to words, and the ICRC (R467). Its other bits are
those of the InfiniBand Architecture Specification, which the manual does not repeat: free (log 108). -/
def rocePacket (op qpn psn : Nat) (rest : List Byte) : List Byte :=
  let free := fun (k n : Nat) => (List.range n).map fun i => Config.netByte (k + i)
  let body := beBytes 1 op ++ free 16 4 ++ beBytes 3 qpn ++ free 20 1 ++ beBytes 3 psn ++ rest ++
    List.replicate ((4 - rest.length % 4) % 4) 0
  body ++ (List.range 4).map fun i => Config.icrcByte body i

/-- The bytes before the data of a response or acknowledgement: the AETH with its syndrome (R467). -/
def aeth (syndrome : Nat) : List Byte := beBytes 1 syndrome ++ (List.range 3).map fun i => Config.netByte (24 + i)

/-- The UDP source port of RoCEv2 packets. -/
def rocePort : Nat := beNat ((List.range 2).map fun i => Config.netByte (28 + i))

/-- A DTLS record of application data around a message: a header of 5 bytes, the content type and the tag of 16 bytes (15 R492). -/
def dtlsDatagram (count : Nat) (msg : List Byte) : List Byte := (List.range (msg.length + 22)).map fun i => Config.cipherByte count i

/-- The reply of a service, as a frame with padding and FCS; none where the answer goes by another command. -/
def replyFrame (s : State) (port : Nat) (v : HostService) : Option (List Byte) :=
  match v with
  | .arp sa mac ip => some (closeFrame (arpReply s port sa mac ip))
  | .neighbour mac ip => some (closeFrame (neighbourReply s port mac ip))
  | .control => none
  | .roce => none

/-! ## Destinations (R453) -/

/-- Where a frame goes. -/
inductive HostDest where
  | local
  | port (p : Nat)
  | drop (code : Nat)
  deriving DecidableEq, Repr

/-- The egress port of a forwarded frame: the lowest station with FORWARD that has the DA, the VID and another port. -/
def forwardTo (s : State) (port vid da : Nat) : Option Nat :=
  let die := hostDie port
  ((stations s die).find? fun e =>
    bits e.2 0 48 == da && bits e.2 48 12 == vid && bits e.2 60 2 != port % 4 && staForward s die e.1).map fun e => 4 * die + bits e.2 60 2

/-- The destination of a frame from station entry S (R453). -/
def destOf (s : State) (port vid sta : Nat) (f : List Byte) : HostDest :=
  let die := hostDie port
  let da := netNat f 0 6
  let own := da == getF s port Reg.hostPortMac_mac
  let loc := staLocal s die sta
  if own && loc then .local
  else if da == 0xFFFFFFFFFFFF && (arpRequest s die f).isSome && loc then .local
  else if da == 0x333300000000 + 0xFF000000 + dieIpv6 s die % 2 ^ 24 && (neighbourRequest s die f).isSome && loc then .local
  else
    match (if staForward s die sta then forwardTo s port vid da else none) with
    | some p => .port p
    | none => .drop (if own && !loc then 9 else 8)

end Sys2Proof.Machine
end

