-- ==== Sys2Proof/Machine/HostPool.lean ====
section
/-! DEFINITION. The frame pools, the capture rings and the egress queues of the host ports (13 R457 to R464, 14 R477 to R489). -/

namespace Sys2Proof.Machine

/-! ## Frame pools (14) -/

/-- Instance of a host die's BUF page (R516). -/
def bufInst (die : Nat) : Nat := die + 1

/-- Buffers of a frame pool: 1 S, 2 M, 3 L (R477). -/
def framePoolSize (pool : Nat) : Nat := if pool = 1 then 8192 else if pool = 2 then 2048 else 512

/-- The pool that a frame of a length takes (R478). -/
def poolFor (len : Nat) : Nat := if len ≤ 192 then 1 else if len ≤ 1984 then 2 else 3

/-- The marker of a free buffer, "FREE" (R480). -/
def freeMark : BitVec 32 := 0x46524545

/-- The end of a free list (R480). -/
def listEnd : Nat := 0xFFFF

/-- Words 0 and 1 of a buffer's descriptor. As a pool is built its free list holds every buffer in rising order (DESIGN CHOICE, log 107). -/
def FramePool.words01 (p : FramePool) (i : Nat) : Nat × BitVec 32 :=
  (kvGet p.words i).getD (if i + 1 < framePoolSize p.pool then i + 1 else listEnd, freeMark)

/-- A buffer goes to the front of the free list (R480). -/
def FramePool.putBack (p : FramePool) (i : Nat) : FramePool := { p with first := i, words := kvPut p.words i (p.first, freeMark) }

/-- A frame pool, with the buffers that earlier ticks released back in its store (R480, R483). -/
def framePoolOf (s : State) (die pool : Nat) : FramePool :=
  let p := (s.host.pools.find? fun p => p.die == die && p.pool == pool).getD ⟨die, pool, 0, [], [], false⟩
  let back := p.late.filter fun e => decide (e.1 < s.mer)
  (back.map (·.2)).foldl FramePool.putBack { p with late := p.late.filter fun e => decide (s.mer ≤ e.1) }

/-- Keep a frame pool. -/
def setFramePool (s : State) (p : FramePool) : State :=
  { s with host := { s.host with pools := p :: s.host.pools.filter fun q => !(q.die == p.die && q.pool == p.pool) } }

/-- Buffers in use of a pool. -/
def framesUsed (s : State) (die pool : Nat) : Nat := (s.host.bufs.filter fun b => b.die == die && b.pool == pool).length

/-- The LEVEL field of a pool. -/
def levelField (pool : Nat) : Fld := if pool = 1 then Reg.bufLevel_levelS else if pool = 2 then Reg.bufLevel_levelM else Reg.bufLevel_levelL

/-- The level of a frame pool (R485). -/
def frameLevel (s : State) (die pool : Nat) : Nat := getF s (bufInst die) (levelField pool)

/-- After a change of use: the level, its peak, and BUF_LEVEL for each level entered (R485). -/
def noteFrames (s : State) (die pool : Nat) : State :=
  let cur := frameLevel s die pool
  let new := nextLevel (framePoolSize pool) cur (framesUsed s die pool)
  let s := if new = cur then s else setF s (bufInst die) (levelField pool) new
  let s := if getF s (bufInst die) Reg.bufLevel_peak < new then setF s (bufInst die) Reg.bufLevel_peak new else s
  (List.range 5).foldl (fun s l =>
    if cur < l ∧ l ≤ new then bump (fault s 0x30 (pageOf 0x10 (bufInst die)) pool 0xFFFF 0 l) (bufInst die) Reg.bufCntLevel else s) s

/-- Take the first free buffer for its owners and clear its marker; none where the store is empty or its list was abandoned. A buffer
without the marker breaks the list (R480, R482, R484). -/
def takeFrame (s : State) (die pool : Nat) (mask : BitVec 7) : State × Option Nat :=
  let p := framePoolOf s die pool
  let i := p.first
  let w := p.words01 i
  if p.broken || i == listEnd then (s, none)
  else if w.2 ≠ freeMark then
    (fault (setFramePool s { p with broken := true }) 0x31 (pageOf 0x10 (bufInst die)) pool 0xFFFF i 0, none)
  else
    let t := setFramePool s { p with first := w.1, words := kvPut p.words i (w.1, 0) }
    (noteFrames { t with host := { t.host with bufs := ⟨die, pool, i, mask⟩ :: t.host.bufs } } die pool, some i)

/-- BUF_BADREL of a page shows a bad release (R484, R490). -/
def noteBadRelease (s : State) (inst pool index owner : Nat) (freed : Bool) : State :=
  let s := setF (setF (setF s inst Reg.bufBadrel_index index) inst Reg.bufBadrel_pool pool) inst Reg.bufBadrel_owner owner
  setB (setB s inst Reg.bufBadrel_freed freed) inst Reg.bufBadrel_valid true

/-- A bad release is counted, logged and raised, and changes nothing else (R484). -/
def badRelease (s : State) (die pool index owner : Nat) (freed : Bool) : State :=
  let inst := bufInst die
  fault (noteBadRelease (bump s inst Reg.bufCntBadrel) inst pool index owner freed) 0x31 (pageOf 0x10 inst) pool 0xFFFF index owner

/-- An owner releases a frame buffer (R483). -/
def releaseFrame (s : State) (die pool index owner : Nat) : State :=
  match s.host.bufs.find? fun b => b.die == die && b.pool == pool && b.index == index with
  | none => badRelease s die pool index owner true
  | some b =>
    if !b.mask.getLsbD owner then badRelease s die pool index owner false
    else
      let mask := b.mask &&& ~~~(BitVec.ofNat 7 (2 ^ owner))
      let rest := s.host.bufs.filter fun q => !(q.die == die && q.pool == pool && q.index == index)
      if mask = 0 then
        let p := framePoolOf s die pool
        let s := setFramePool { s with host := { s.host with bufs := rest } } { p with late := p.late ++ [(s.mer, index)] }
        noteFrames s die pool
      else { s with host := { s.host with bufs := { b with mask := mask } :: rest } }

/-- What needs a buffer (R488). -/
inductive FrameUse where
  | forward (yellow : Bool)
  | local
  | roce (middle : Bool)
  deriving DecidableEq, Repr

/-- The pool admits a use at its level; otherwise the drop's counters beside code 13 (R488). -/
def poolTakes (s : State) (die pool : Nat) (use : FrameUse) : State × Bool :=
  let l := frameLevel s die pool
  if (framePoolOf s die pool).broken ∨ l = 4 then (s, false)
  else
    match use with
    | .forward yellow =>
      if l = 3 then (bump s (bufInst die) Reg.bufCntL3drop, false)
      else if l = 2 ∧ yellow = true then (bump s (bufInst die) Reg.bufCntL2drop, false)
      else (s, true)
    | .local => (s, true)
    | .roce middle => if l = 3 ∧ middle = false then (bump s (bufInst die) Reg.bufCntL3drop, false) else (s, true)

/-- A buffer for a frame of a length; none means code 13. -/
def admitFrame (s : State) (die len : Nat) (use : FrameUse) (mask : BitVec 7) : State × Option (Nat × Nat) :=
  let pool := poolFor len
  let r := poolTakes s die pool use
  if r.2 then
    let t := takeFrame r.1 die pool mask
    (t.1, t.2.map fun i => (pool, i))
  else (r.1, none)

/-! ## The capture ring (R462 to R464) -/

/-- The ring lies where it may write: inside HBM, and while a plan runs wholly in a region with the CAPTURE flag (R464). -/
def capRingOpen (s : State) (base size : Nat) : Bool :=
  decide (base + size ≤ capacity s) &&
    (!planRuns s || (match s.pln.active with
      | some p => p.regions.any fun r => r.flags.testBit 1 && decide (r.base ≤ base) && decide (base + size ≤ r.base + r.size)
      | none => false))

/-- The ring of a die takes one more record after `waiting` others. -/
def capRoom (s : State) (die waiting : Nat) : Bool :=
  let size := getF s die Reg.hostCapSize_size
  decide (getF s die Reg.hostCapProd_prod + waiting - getF s die Reg.hostCapCons_cons < size / 128) &&
    capRingOpen s (getF s die Reg.hostCapBase_base) size

/-- Where record n of a die's ring stands (R463). -/
def capAddr (s : State) (die n : Nat) : Nat :=
  getF s die Reg.hostCapBase_base + 128 * (n % max 1 (getF s die Reg.hostCapSize_size / 128))

/-- Write one capture record of 128 bytes, or drop it (R463). -/
def capPut (s : State) (die : Nat) (rec : List Byte) : State :=
  if capRoom s die 0 then
    let prod := getF s die Reg.hostCapProd_prod
    let s := (writeChecked s (capAddr s die prod) rec).1
    bump (setF s die Reg.hostCapProd_prod (prod + 1)) die Reg.hostCntCaprec
  else bump s die Reg.hostCntCapdrop

/-- The region with the CAPTURE flag that holds a die's ring wholly (R464). -/
def capRegion (s : State) (die : Nat) : Option Region :=
  let base := getF s die Reg.hostCapBase_base
  s.pln.active.bind fun p => p.regions.find? fun r =>
    r.flags.testBit 1 && decide (r.base ≤ base) && decide (base + getF s die Reg.hostCapSize_size ≤ r.base + r.size)

/-- The first offset of the step from `lo` on in which a unit position of a die link has a run of some USE; a link with no table is IDLE in
every tick (02 R61). -/
def positionWhere (s : State) (dir link pos : Nat) (ok : Nat → Bool) (lo : Nat) : Option Nat :=
  let res := dir * 2 ^ 28 + pos * 32 + link
  match curTable s res with
  | none => if ok 0 && decide (lo < stepEnd s - stepBase s) then some lo else none
  | some _ => slotWhere s res (fun r => ok r.use) lo

/-- Pieces of 32 bytes that capture records and frames of the control channel have taken on a die link in a tick. A unit position carries
two (01 R29). -/
def linkTaken (s : State) (dir link t : Nat) : Nat :=
  let hop := fun (c : CapWait) (x : Nat × Nat × Nat × Nat) =>
    if dir = 3 then c.link == link && x.2.1 == t
    else link == 16 + (locOf s (c.base + 32 * x.1)).stack / 5 && x.2.2.1 == t
  (s.host.caps.map fun c => ((withOfs c.slots).filter (hop c)).length).sum +
    (if dir = 3 then 2 * (s.host.ctlUse.filter (· == (link, t))).length else 0)

/-- The tick of a die link with a unit position of some USE that is free for `n` more pieces (R464, R466). -/
def linkTick (s : State) (dir link : Nat) (ok : Nat → Bool) (n : Nat) : Nat → Nat → Option Nat
  | 0, _ => none
  | fuel + 1, lo =>
    let at' := fun (k o : Nat) => positionWhere s dir link k ok o
    match ((List.range (linkCap link)).filterMap fun k => at' k lo).min? with
    | none => none
    | some o =>
      let free := ((List.range (linkCap link)).filter fun k => at' k o == some o).length
      let t := stepBase s + o
      if linkTaken s dir link t + n ≤ 2 * free then some t else linkTick s dir link ok n fuel (o + 1)

/-- Ticks of a link that may be full. -/
def busyTicks (s : State) : Nat := fullTicks s + s.host.ctlUse.length

/-- The slots of a record's bursts: IDLE positions of the link toward the CD and then of the memory die's link, then the
pseudo-channel's STAGE ticks that name the ring's region; none where the step has too few. -/
def capSlots (s : State) (c : CapWait) : Nat → Nat → Option (List (Nat × Nat × Nat))
  | 0, _ => some []
  | n + 1, lo =>
    match capRegion s c.die with
    | none => none
    | some g =>
      let a := c.base + 32 * (3 - n)
      (linkTick s 3 c.link (· == 0) 1 (busyTicks s) lo).bind fun t =>
        (linkTick s 4 (16 + (locOf s a).stack / 5) (· == 0) 1 (busyTicks s) (t - stepBase s)).bind fun m =>
          (pcTick s (fun r => r.use == 9 && r.arg == g.id) a [] (fullTicks s) (m - stepBase s)).bind fun u =>
            let c' : CapWait := { c with slots := c.slots ++ [(t, m, u)] }
            let s' := { s with host := { s.host with caps := s.host.caps.map fun x => if x == c then c' else x } }
            (capSlots s' c' n (t - stepBase s)).map fun l => (t, m, u) :: l

/-- A waiting record takes slots of this step after those of the records before it, if it can. -/
def placeCap (s : State) (c : CapWait) : State :=
  let before := ((s.host.caps.takeWhile (· != c)).filter (·.die == c.die))
  let c1 := { c with base := capAddr s c.die (getF s c.die Reg.hostCapProd_prod + before.length), slots := [] }
  let set := fun (x : CapWait) => { s with host := { s.host with caps := s.host.caps.map fun y => if y == c then x else y } }
  if before.all fun x => !x.slots.isEmpty then
    match capSlots (set c1) c1 4 (s.mer - stepBase s) with
    | some l => set { c1 with slots := l }
    | none => set c1
  else set c1

/-- The capture writer holds a frame buffer for a record that waits (14 R482). -/
def holdBuf (s : State) (die : Nat) (buf : Option (Nat × Nat)) : State :=
  match buf with
  | some b => { s with host := { s.host with bufs := s.host.bufs.map fun q =>
      if q.die = die ∧ q.pool = b.1 ∧ q.index = b.2 then { q with mask := q.mask ||| 0x20 } else q } }
  | none => s

/-- A record waits no longer: the capture writer lets go of its frame unless another record of the frame waits (14 R489). -/
def endCap (s : State) (c : CapWait) : State :=
  let s := { s with host := { s.host with caps := s.host.caps.erase c } }
  match c.buf with
  | some b => if s.host.caps.any fun x => x.die == c.die && x.buf == c.buf then s else releaseFrame s c.die b.1 b.2 5
  | none => s

/-- A step begins: what waits takes its slots, and a ring that may no longer write loses its records (R464). -/
def placeCaps (s : State) : State :=
  s.host.caps.foldl (fun s c =>
    if (capRegion s c.die).isSome then placeCap s c
    else bump (endCap s c) c.die Reg.hostCntCapdrop) s

/-- Records whose slots have passed are written, those of a ring in their order; outside a plan all are (R463, R464). -/
def landCaps : Nat → State → Nat → State
  | 0, s, _ => s
  | n + 1, s, now =>
    match s.host.caps.find? fun c => !planRuns s ||
        (!c.slots.isEmpty && (c.slots.all fun x => decide (x.2.2 < now)) && (s.host.caps.find? (·.die == c.die)) == some c) with
    | some c => landCaps n (endCap (capPut s c.die c.bytes) c) now
    | none => s

/-- A capture record for the ring of a die, from a die on a link. While a plan runs it waits for its slots, at most 64 of a lane die and 256
of a host die (R464). -/
def capWrite (s : State) (die link : Nat) (rec : List Byte) (buf : Option (Nat × Nat)) : State :=
  if planRuns s then
    let waiting := (s.host.caps.filter (·.die == die)).length
    let own := (s.host.caps.filter (·.link == link)).length
    if (capRegion s die).isSome && capRoom s die waiting && decide (own < (if link < 20 then 64 else 256)) then
      let c : CapWait := ⟨die, link, capAddr s die (getF s die Reg.hostCapProd_prod + waiting), rec, [], buf⟩
      let s := holdBuf s die buf
      placeCap { s with host := { s.host with caps := s.host.caps ++ [c] } } c
    else bump s die Reg.hostCntCapdrop
  else capPut s die rec

/-- A capture record of a frame (R462). -/
def frameRecord (kind port reason colour time : Nat) (f : List Byte) : List Byte :=
  let n := min f.length 112
  leBytes 1 kind ++ leBytes 1 port ++ leBytes 1 reason ++ leBytes 1 (colour + (if 112 < f.length then 4 else 0)) ++
    leBytes 2 f.length ++ leBytes 2 n ++ leBytes 8 time ++ f.take n ++ List.replicate (112 - n) 0

/-- A frame event reaches the ring where HOST_CAP_CTRL chooses it: KIND 1 received, 2 sent, 3 dropped (R463). A dropped frame makes one
record (R473). -/
def capFrame (s : State) (kind port reason colour time : Nat) (f : List Byte) (buf : Option (Nat × Nat)) : State :=
  let die := hostDie port
  let chosen : Bool :=
    if kind = 1 then (getF s die Reg.hostCapCtrl_rx).testBit (port % 4)
    else if kind = 2 then (getF s die Reg.hostCapCtrl_tx).testBit (port % 4)
    else getF s die Reg.hostCapCtrl_drops == 1
  if getF s die Reg.hostCapCtrl_enable = 1 ∧ chosen = true then capWrite s die (20 + die) (frameRecord kind port reason colour time f) buf else s

/-- The host die whose ring takes sampled cells (R463). -/
def sampleDie (s : State) : Option Nat :=
  if getF s 0 Reg.hostCapCtrl_cells = 1 then some 0 else if getF s 1 Reg.hostCapCtrl_cells = 1 then some 1 else none

/-- A fabric port is sampled by a die. -/
def samples (s : State) (die port : Nat) : Bool :=
  if port < 64 then (getF s die Reg.hostCapPorts0_ports).testBit port else (getF s die Reg.hostCapPorts1_ports).testBit (port - 64)

/-- A capture record of a cell (R462). -/
def cellRecord (code time : Nat) (c : FabCell) : List Byte :=
  let b := leBytes 64 c.toNat
  leBytes 1 4 ++ leBytes 1 (portNo code) ++ leBytes 1 0 ++ leBytes 1 (3 + (if code / 128 = 3 then 8 else 0)) ++ leBytes 2 64 ++ leBytes 2 16 ++
    leBytes 8 time ++ b.take 12 ++ b.drop 60 ++ List.replicate 96 0

/-- An ingress cell of a fabric port is counted, and every 2^SAMPLE_EXP-th is captured (R463). -/
def sampleCell (s : State) (code : Nat) (c : FabCell) : State :=
  let port := portNo code
  match sampleDie s with
  | none => s
  | some die =>
    if getF s die Reg.hostCapCtrl_enable = 1 ∧ samples s die port = true then
      let n := ((kvGet s.host.samples port).getD 0) + 1
      let s := { s with host := { s.host with samples := kvPut s.host.samples port n } }
      if n % 2 ^ getF s die Reg.hostCapCtrl_sampleExp = 0 then capWrite s die (laneLink code) (cellRecord code s.mer c) none else s
    else s

/-! ## Drops (R450) -/

/-- The counter of a drop code. -/
def dropCounter (code colour : Nat) : Fld :=
  match code with
  | 1 => Reg.hostCntFcs
  | 2 => Reg.hostCntLength
  | 3 => Reg.hostCntMacctl
  | 4 => Reg.hostCntVlan
  | 5 => Reg.hostCntVlan
  | 6 => Reg.hostCntStranger
  | 7 => Reg.hostCntRed
  | 8 => Reg.hostCntNodest
  | 9 => Reg.hostCntLocaldrop
  | 10 => if colour = 1 then Reg.hostCntWredY else Reg.hostCntWredG
  | 11 => Reg.hostCntTail
  | 12 => Reg.hostCntAged
  | _ => Reg.hostCntNobuf

/-- A frame is dropped with a code, counted on a port and captured: one record of KIND 3, or as a frame received on its ingress port
where drops are not captured (R450, R463, R473). -/
def dropFrame (s : State) (port : Nat) (ingress : Option Nat) (code colour stamp : Nat) (f : List Byte) : State :=
  let s := bump s port (dropCounter code colour)
  if getF s (hostDie port) Reg.hostCapCtrl_drops = 1 then capFrame s 3 port code colour stamp f none
  else
    match ingress with
    | some p => capFrame s 1 p 0 colour stamp f none
    | none => s

/-! ## Egress queues (R457 to R460) -/

/-- A host port's queues. -/
def hostPortOf (s : State) (port : Nat) : HostPort :=
  (s.host.ports.find? (·.port == port)).getD ⟨port, 0, List.replicate 8 ⟨[], 0, 0, 0, 0⟩⟩

/-- Keep a host port's queues. -/
def setHostPort (s : State) (p : HostPort) : State :=
  { s with host := { s.host with ports := p :: s.host.ports.filter (·.port != p.port) } }

/-- A queue of a host port. -/
def queueOf (s : State) (port q : Nat) : HostQueue := (hostPortOf s port).queues.getD q ⟨[], 0, 0, 0, 0⟩

/-- Keep a queue. -/
def setQueue (s : State) (port q : Nat) (v : HostQueue) : State :=
  let p := hostPortOf s port
  setHostPort s { p with queues := (List.range 8).map fun k => if k = q then v else p.queues.getD k ⟨[], 0, 0, 0, 0⟩ }

/-- Occupancy of a queue in bytes. -/
def HostQueue.bytes (v : HostQueue) : Nat := (v.frames.map (·.bytes.length)).sum

/-- The queue of a PCP (R457). -/
def queueFor (s : State) (port pcp : Nat) : Nat := getF s port Reg.hostPortCfg_pcpMap >>> (3 * pcp) % 8

/-- The average occupancy after an enqueue, in 1/65536 byte (R459, log 22). -/
def nextAvg (avg occ w : Nat) : Nat := ((avg : Int) + Int.fdiv ((occ * 65536 : Nat) - (avg : Int)) (2 ^ w)).toNat

/-- WRED and the queue limit for a frame: 0 accepts it, 10 or 11 drops it (R457, R459). -/
def queueCode (s : State) (port q colour len : Nat) : State × Nat :=
  if getFI s 0 port q Reg.hostQ_weight = 0 then (s, 11)
  else
    let v := queueOf s port q
    let avg := nextAvg v.avg v.bytes (getF s (hostDie port) Reg.hostCfg_redW)
    let s := setQueue s port q { v with avg := avg }
    let r := if colour = 1 then q + 8 else q
    let lo := getFI s 0 port r Reg.hostRedG_min * 1024 * 65536
    let hi := getFI s 0 port r Reg.hostRedG_max * 1024 * 65536
    let maxp := getFI s 0 port r Reg.hostRedG_maxp
    let d : State × Bool :=
      if hi ≤ avg then (s, true)
      else if hi ≤ lo ∨ avg ≤ lo ∨ maxp = 0 then (s, false)
      else ((drawBool s).2, (drawBool s).1)
    if d.2 then (d.1, 10)
    else if getFI s 0 port q Reg.hostQ_limit * 1024 < v.bytes + len then (d.1, 11)
    else (d.1, 0)

/-- A frame joins a queue with its virtual finish time (R457). -/
def enqueueFrame (s : State) (port q : Nat) (f : QFrame) : State :=
  let v := queueOf s port q
  let fin := max (hostPortOf s port).vtime v.flast + f.policed * 65536 / getFI s 0 port q Reg.hostQ_weight
  setQueue s port q { v with frames := v.frames ++ [{ f with finish := fin }], flast := fin }

/-- The shaper's credit of a queue now, in 1/5120 byte (R458). -/
def creditNow (s : State) (port q : Nat) : Nat :=
  let v := queueOf s port q
  min (getFI s 0 port q Reg.hostQ_burst * tokenUnit) (v.credit + (s.mer - v.creditAt) * getFI s 0 port q Reg.hostQ_rate)

/-- Settle the credit of a queue. -/
def settleCredit (s : State) (port q : Nat) : State :=
  setQueue s port q { queueOf s port q with credit := creditNow s port q, creditAt := s.mer }

/-- The queue may send its head frame (R458). -/
def queueEligible (s : State) (port q : Nat) : Bool :=
  match (queueOf s port q).frames with
  | [] => false
  | f :: _ => getFI s 0 port q Reg.hostQ_rate == 0 || decide (f.policed * tokenUnit ≤ creditNow s port q)

/-- The head frame is too old (R460). -/
def agedHead (s : State) (port q : Nat) : Bool :=
  let e := getF s (hostDie port) Reg.hostCfg_ageExp
  match (queueOf s port q).frames with
  | [] => false
  | f :: _ => e != 0 && decide (f.stamp + 2 ^ e < s.mer)

/-- When every queue of a port is empty its virtual times restart (R457). -/
def restartTimes (s : State) (port : Nat) : State :=
  let p := hostPortOf s port
  if p.queues.all fun v => v.frames.isEmpty then
    setHostPort s { p with vtime := 0, queues := p.queues.map fun v => { v with flast := 0 } }
  else s

/-- The head frame of a queue is discarded with code 12 (R460, R473). -/
def discardHead (s : State) (port q : Nat) : State :=
  let v := queueOf s port q
  match v.frames with
  | [] => s
  | f :: l =>
    let s := dropFrame (setQueue s port q { v with frames := l }) port none 12 f.colour f.stamp f.bytes
    restartTimes (releaseFrame s (hostDie port) f.pool f.buf (port % 4)) port

/-- Every head that is too old is discarded. -/
def ageQueue : Nat → State → Nat → Nat → State
  | 0, s, _, _ => s
  | n + 1, s, port, q => if agedHead s port q then ageQueue n (discardHead s port q) port q else s

/-- The queue that the scheduler chooses: the smallest finish time, then the lowest queue (R457). -/
def chosenQueue (s : State) (port : Nat) : Option Nat :=
  let fin := fun (q : Nat) => (((queueOf s port q).frames.head?).map (·.finish)).getD 0
  ((List.range 8).filter (queueEligible s port)).foldl (fun best q =>
    match best with
    | none => some q
    | some b => if fin q < fin b then some q else some b) none

/-- Send the head frame of a queue (R457, R458, R451). -/
def sendHead (s : State) (port q : Nat) : State :=
  let s := settleCredit s port q
  let v := queueOf s port q
  match v.frames with
  | [] => s
  | f :: l =>
    let out := egressForm s port f.vid f.pcp f.bytes
    let shaped := getFI s 0 port q Reg.hostQ_rate ≠ 0
    let s := setQueue s port q { v with frames := l, credit := if shaped then v.credit - f.policed * tokenUnit else v.credit }
    let s := setHostPort s { hostPortOf s port with vtime := f.finish }
    let s := emit s (.frame s.mer port out)
    let s := match f.said with
      | some x => emit s (.said s.mer port x)
      | none => s
    let s := bump (bump s port Reg.hostCntTxframes) port Reg.hostCntTxbytes out.length
    let s := capFrame s 2 port 0 f.colour s.mer out (some (f.pool, f.buf))
    restartTimes (releaseFrame s (hostDie port) f.pool f.buf (port % 4)) port

/-- A choice of the scheduler of a port that is up (R457, R460). -/
def dequeueFrame (s : State) (port : Nat) : State :=
  if hostServes s (hostDie port) && hostLink s port then
    let s := (List.range 8).foldl (fun s q => ageQueue (queueOf s port q).frames.length s port q) s
    match chosenQueue s port with
    | some q => sendHead s port q
    | none => s
  else s

/-- Every frame queued for a port is discarded with code 12 (R473). -/
def discardQueues (s : State) (port : Nat) : State :=
  (List.range 8).foldl (fun s q => (List.range (queueOf s port q).frames.length).foldl (fun s _ => discardHead s port q) s) s

/-! ## Frames on their way (R450, R454, R457, R460, R466) -/

/-- Only the port logic of H0 and H4 runs: in Dusk unless the device has no identity (18 R579, R580), in Sleep (R584), and after a
stop (17 R558). -/
def bareLogic (s : State) : Bool :=
  match s.pwr.phase with
  | .dusk => getF s 0 Reg.rstStatus_reason != 1
  | .service => s.flt.stopped || powerState s == 3
  | .off => false
  | .rails => false
  | .held => false
  | .starting => false
  | .failed => false

/-- A port whose logic runs. -/
def portServes (s : State) (port : Nat) : Bool :=
  hostServes s (hostDie port) || (bareLogic s && port % 4 == 0)

/-- A frame with a buffer joins the queue of its PCP. -/
def queueFrame (s : State) (port : Nat) (f : List Byte) (vid pcp colour : Nat) (stamp : Nat) (buf : Nat × Nat) (said : Option Says) : State :=
  enqueueFrame s port (queueFor s port pcp)
    ⟨f, vid, pcp, policedLen s (hostDie port) f.length, colour, stamp, 0, buf.1, buf.2, said⟩

/-- A frame for an egress port: queue checks, then a buffer, then the queue (R450 codes 10, 11, 13). -/
def forwardFrame (s : State) (port : Nat) (ingress : Option Nat) (f : List Byte) (vid pcp colour : Nat) (said : Option Says) : State :=
  let die := hostDie port
  let c := queueCode s port (queueFor s port pcp) colour f.length
  if c.2 ≠ 0 then dropFrame c.1 port ingress c.2 colour s.mer f
  else
    let a := admitFrame c.1 die f.length (match ingress with
      | some _ => .forward (colour == 1)
      | none => .local) (BitVec.ofNat 7 (2 ^ (port % 4)))
    match a.2 with
    | none => dropFrame a.1 (ingress.getD port) ingress 13 colour s.mer f
    | some buf =>
      let s := match ingress with
        | some p => capFrame a.1 1 p 0 colour s.mer f (some buf)
        | none => a.1
      queueFrame s port f vid pcp colour s.mer buf said

/-- An answer of the device takes the queue of its PCP like any other frame, green (R454, R457). Where only the port logic of H0 and H4 runs
there are no queues: it leaves at once (18 R579; DESIGN CHOICE, log 108). -/
def sendReply (s : State) (peer : ReplyTo) (f : List Byte) (said : Says) : State :=
  if hostServes s (hostDie peer.port) then forwardFrame s peer.port none f peer.vid peer.pcp 0 (some said)
  else if portServes s peer.port && hostLink s peer.port then
    emit (emit s (.frame s.mer peer.port (egressForm s peer.port peer.vid peer.pcp f))) (.said s.mer peer.port said)
  else s

/-- The positions of a control frame on the HD link, in SVC or IDLE runs and one for each 64 bytes; those that the step lacks it takes in its
last tick (R466; DESIGN CHOICE, log 108). -/
def ctlSlots (s : State) (link : Nat) : Nat → Nat → List Nat
  | 0, _ => []
  | n + 1, lo =>
    match linkTick s 3 link (fun u => u == 0 || u == 5) 2 (busyTicks s) lo with
    | some t => t :: ctlSlots { s with host := { s.host with ctlUse := (link, t) :: s.host.ctlUse } } link n (t - stepBase s)
    | none => List.replicate (n + 1) (stepEnd s - 1)

/-- A waiting local frame goes, and its buffer is released (14 R489). One that its service would take more than 2^AGE_EXP ticks after its
stamp is discarded with code 12 (R460). -/
def endLocal (s : State) (f : LocalFrame) (at' : Nat) : State × Bool :=
  let die := hostDie f.port
  let e := getF s die Reg.hostCfg_ageExp
  let s := { s with host := { s.host with locals := s.host.locals.erase f } }
  let old := e != 0 && decide (f.stamp + 2 ^ e < at')
  let s := if old then dropFrame s f.port none 12 f.colour f.stamp f.bytes else s
  (releaseFrame s die f.buf.1 f.buf.2 4, old)

/-- A frame of the control channel crosses the HD link. While a plan runs it takes positions ahead of every capture record, which take theirs
again behind it; outside a plan it crosses at once (R466, R473). -/
def crossControl (s : State) (f : LocalFrame) : State :=
  let link := 20 + hostDie f.port
  if planRuns s && s.pln.hold.isNone && stepsRun s then
    let free := { s with host := { s.host with caps := s.host.caps.map fun c => if c.link = link then { c with slots := [] } else c } }
    let slots := ctlSlots free link (ceilDiv f.bytes.length 64) (s.mer - stepBase s)
    let t := { free with host := { free.host with
      locals := free.host.locals ++ [{ f with slots := slots }], ctlUse := free.host.ctlUse ++ slots.map fun t => (link, t) } }
    (t.host.caps.filter (·.link == link)).foldl placeCap t
  else (endLocal { s with host := { s.host with locals := s.host.locals ++ [f] } } f s.mer).1

/-- Frames of the control channel whose positions have passed are on SD0. -/
def landControl (s : State) (now : Nat) : State :=
  let done := s.host.locals.filter fun f => !f.roce && (!planRuns s || f.slots.all fun t => decide (t < now))
  let s := done.foldl (fun s f => (endLocal s f (f.slots.headD s.mer)).1) s
  { s with host := { s.host with ctlUse := s.host.ctlUse.filter fun x => decide (now ≤ x.2) } }

/-- The oldest RoCEv2 packet that waits on a die for the responder, with those that are too old discarded on the way (R460). -/
def takePacket : Nat → State → Nat → State × Option LocalFrame
  | 0, s, _ => (s, none)
  | n + 1, s, die =>
    match s.host.locals.find? fun f => f.roce && hostDie f.port == die with
    | none => (s, none)
    | some f =>
      let e := getF s die Reg.hostCfg_ageExp
      if e != 0 && decide (f.stamp + 2 ^ e < s.mer) then takePacket n (endLocal s f s.mer).1 die
      else ({ s with host := { s.host with locals := s.host.locals.erase f } }, some f)

end Sys2Proof.Machine
end

