-- ==== Sys2Proof/Machine/Rdma.lean ====
section
/-! DEFINITION. The RoCEv2 staging responder: queue pairs, windows, seals and staging digests (13 R467 to R473). -/

namespace Sys2Proof.Machine

/-! ## Queue pairs and windows -/

/-- A queue pair that has seen nothing. -/
def QueuePair.fresh (die qp : Nat) : QueuePair := ⟨die, qp, none, none, false, none, none, none⟩

/-- What a queue pair holds beside its registers. -/
def qpOf (s : State) (die qp : Nat) : QueuePair :=
  (s.host.qps.find? fun q => q.die == die && q.index == qp).getD (.fresh die qp)

/-- Keep it. -/
def setQp (s : State) (q : QueuePair) : State :=
  { s with host := { s.host with qps := q :: s.host.qps.filter fun p => !(p.die == q.die && p.index == q.index) } }

/-- The expected PSN. -/
def qpPsn (s : State) (die qp : Nat) : Nat := getFI s qp die 0 Reg.hostQpPsn_epsn

/-- Path MTU in bytes. -/
def qpMtu (s : State) (die qp : Nat) : Nat := 1024 <<< getFI s qp die 0 Reg.hostQpCfg_pmtu

/-- A queue pair that takes requests. -/
def qpLive (s : State) (die qp : Nat) : Bool :=
  getFI s qp die 0 Reg.hostQpCfg_valid == 1 && getFI s qp die 0 Reg.hostQpCfg_error == 0

/-- The valid window that an R_Key selects, the lowest index first (R469). -/
def windowOf (s : State) (die rkey : Nat) : Option Nat :=
  s.regs.findSome? fun kv =>
    if kv.1 % 2 ^ 28 = pageOf 0xE die * 4096 + 0x1B0 ∧ kv.2.getLsbD 32 = true ∧ bits kv.2 0 32 = rkey then some (kv.1 / 2 ^ 28) else none

/-- BASE and LEN of a window. -/
def winBase (s : State) (die w : Nat) : Nat := getFI s w die 0 Reg.hostWinBase_base
def winLen (s : State) (die w : Nat) : Nat := getFI s w die 0 Reg.hostWinLen_len

/-- The region with the STAGING flag that holds a window wholly (R469). -/
def stagingRegion (s : State) (base len : Nat) : Option Region :=
  match s.pln.active with
  | some p => p.regions.find? fun r => r.flags.testBit 0 && decide (r.base ≤ base) && decide (base + len ≤ r.base + r.size)
  | none => none

/-- A window may be used now: wholly inside HBM, and while a plan runs wholly in a STAGING region (R469). -/
def winPlaced (s : State) (die w : Nat) : Bool :=
  decide (winBase s die w + winLen s die w ≤ capacity s) &&
    (!planRuns s || (stagingRegion s (winBase s die w) (winLen s die w)).isSome)

/-- A request may move `len` bytes at a virtual address of the window that its R_Key selects (R469). -/
def winGrants (s : State) (die rkey va len : Nat) (write : Bool) : Option Nat :=
  match windowOf s die rkey with
  | none => none
  | some w =>
    let right := if write then Reg.hostWinKey_write else Reg.hostWinKey_read
    if getFI s w die 0 Reg.hostWinKey_closed = 0 ∧ getFI s w die 0 right = 1 ∧ va + len ≤ winLen s die w ∧ winPlaced s die w = true then some w
    else none

/-- A seal covers a byte of a range (R471). -/
def sealed (s : State) (a len : Nat) : Bool := s.eng.seals.any fun x => decide (a < x.base + x.len) && decide (x.base < a + len)

/-! ## Answers -/

/-- A packet of the responder goes to the requester: its BTH names the remote QPN (R454, R467). -/
def rdmaSend (s : State) (die qp psn op : Nat) (rest data : List Byte) : State :=
  match (qpOf s die qp).peer with
  | some peer =>
    sendReply s peer (udpFrame s peer rocePort 4791 (rocePacket op (getFI s qp die 0 Reg.hostQpCfg_remoteQpn) psn rest)) (.rdma die qp psn op data)
  | none => s

/-- The answers of a queue pair go where a packet of its requester came from. -/
def answerTo (s : State) (die qp : Nat) (peer : ReplyTo) : State := setQp s { qpOf s die qp with peer := some peer }

/-- An acknowledgement: opcode 0x11 with its syndrome (log 24). -/
def rdmaAck (s : State) (die qp psn syndrome : Nat) : State :=
  rdmaSend s die qp psn 0x11 (aeth syndrome) [BitVec.ofNat 8 syndrome]

/-- A NAK: 0x60 PSN Sequence Error, 0x61 Invalid Request, 0x62 Remote Access Error. -/
def rdmaNak (s : State) (die qp psn syndrome : Nat) : State := rdmaAck (bump s die Reg.hostCntRdmaNak) die qp psn syndrome

/-- A CNP to the requester, at most once in 32,000 ticks for a queue pair (R467, R488). -/
def sendCnp (s : State) (die qp : Nat) (level : Bool) : State :=
  let q := qpOf s die qp
  let due : Bool := match q.cnpAt with
    | some t => decide (t + 32000 ≤ s.mer)
    | none => true
  if due then
    let s := rdmaSend (setQp s { q with cnpAt := some s.mer }) die qp 0 0x81 (List.replicate 16 0) []
    if level then bump s (bufInst die) Reg.bufCntCnp else s
  else s

/-! ## Packets that wait (R470, R471, R473) -/

/-- What waits on a queue pair, in PSN order: WRITE packets and READs. -/
def waitingOf (s : State) (die qp : Nat) : List PendPkt := s.host.packets.filter fun p => p.die == die && p.qp == qp

/-- Its WRITE packets. -/
def pendingOf (s : State) (die qp : Nat) : List PendPkt := (waitingOf s die qp).filter (·.read.isNone)

/-- A move belongs to a packet. -/
def PendPkt.owns (p : PendPkt) (m : StageMove) : Bool := m.die == p.die && m.qp == p.qp && m.psn == p.psn && m.read == p.read.isSome

/-- A packet waits no longer. -/
def takeOut (s : State) (p : PendPkt) : State :=
  { s with host := { s.host with packets := s.host.packets.filter (· != p), moves := s.host.moves.filter fun m => !p.owns m } }

/-- Pending packets of a queue pair up to the first message that a test catches; that message and all after it are given up. -/
def keepMessages (hit : PendPkt → Bool) : List PendPkt → List PendPkt → List PendPkt → List PendPkt
  | kept, msg, [] => kept ++ msg
  | kept, msg, p :: l =>
    if hit p then kept else if p.ends then keepMessages hit (kept ++ msg ++ [p]) [] l else keepMessages hit kept (msg ++ [p]) l

/-- A queue pair keeps some of its pending packets, gives the rest up, with the READs behind them, and draws NAK Remote Access Error: the
controller could not write a packet of the first message that goes (08 R623). -/
def refuseMessage (s : State) (kept : List PendPkt) (die qp psn : Nat) : State :=
  let gone := (waitingOf s die qp).dropWhile fun p => p.read.isSome || kept.contains p
  let s := gone.foldl (fun s p => if p.read.isSome then takeOut s p else releaseFrame (takeOut s p) die p.pool p.buf 6) s
  let s := setQp s { qpOf s die qp with message := none }
  rdmaNak (setFI s qp die 0 Reg.hostQpCfg_error 1) die qp psn 0x62

/-- A WRITE packet touches a sealed byte as it comes: it and what is accepted of its message go (R471). -/
def giveUp (s : State) (kept : List PendPkt) (die qp psn : Nat) : State := bump (refuseMessage s kept die qp psn) die Reg.hostCntSealed

/-- The packets of a list message by message; what is accepted of a message in progress stands last. -/
def messages : List PendPkt → List PendPkt → List (List PendPkt)
  | [], [] => []
  | msg, [] => [msg]
  | msg, p :: l => if p.ends then (msg ++ [p]) :: messages [] l else messages (msg ++ [p]) l

/-! ## Pieces reach HBM (R37, R469, R470, R623) -/

/-- Write pieces, with the bursts that could not be written. -/
def writePieces (s : State) (l : List (Nat × List Byte)) : State × List Nat :=
  l.foldl (fun r x =>
    let w := writeChecked r.1 x.1 x.2
    (w.1, r.2 ++ w.2)) (s, [])

/-- A WRITE packet is in HBM: its buffer is released, and the end of its message owes an ACK (R470, R489). -/
def endPkt (s : State) (p : PendPkt) : State :=
  let s := releaseFrame (takeOut s p) p.die p.pool p.buf 6
  if p.ends then setQp s { qpOf s p.die p.qp with ackPsn := some p.psn, done := some p.psn, peer := some p.peer } else s

/-- The message of a packet whose write the controller did not make draws NAK Remote Access Error (08 R623). -/
def badStaging (s : State) (p : PendPkt) : State :=
  refuseMessage (answerTo s p.die p.qp p.peer) (keepMessages (· == p) [] [] (pendingOf s p.die p.qp)) p.die p.qp p.psn

/-- READ Responses for bytes from a PSN. -/
def readResponses (s : State) (die qp psn : Nat) (bs : List Byte) : State :=
  let mtu := qpMtu s die qp
  let parts := if bs.isEmpty then [[]] else chunks mtu (bs.length + 1) bs
  let last := parts.length - 1
  (withOfs parts).foldl (fun s p =>
    let op := if last = 0 then 0x10 else if p.1 = 0 then 0x0D else if p.1 = last then 0x0F else 0x0E
    rdmaSend s die qp ((psn + p.1) % 2 ^ 24) op (if op = 0x0E then p.2 else aeth 0 ++ p.2) p.2) s

/-- The error state of a queue pair with a NAK: the message in progress ends with what was accepted of it (R468, R473). -/
def failQp (s : State) (die qp psn syndrome : Nat) : State :=
  let s := setQp s { qpOf s die qp with message := none }
  rdmaNak (setFI s qp die 0 Reg.hostQpCfg_error 1) die qp psn syndrome

/-- The bytes of a READ are read and answered; an uncorrectable burst is an error of the responder (log 24). -/
def answerRead (s : State) (die qp psn base len : Nat) : State :=
  let r := readChecked s base len
  match r.2 with
  | none => failQp r.1 die qp psn 0x63
  | some bs => readResponses r.1 die qp psn bs

/-- A READ that waited is answered, to where its packet came from. -/
def answerWaiting (s : State) (p : PendPkt) (len : Nat) : State :=
  answerRead (answerTo (takeOut s p) p.die p.qp p.peer) p.die p.qp p.psn p.base len

/-- What a packet still has to move is moved now, outside a plan in arrival order (R269, R469). -/
def settlePkt (s : State) (p : PendPkt) : State :=
  match p.read with
  | some n => answerWaiting s p n
  | none =>
    let r := writePieces s (((s.host.moves.filter p.owns).map fun m => (m.base, m.bytes)) ++ p.left)
    if r.2.isEmpty then endPkt r.1 p else badStaging r.1 p

/-- Every packet of a queue pair that still waits is moved now. -/
def settleQp (s : State) (die qp : Nat) : State :=
  (waitingOf s die qp).foldl (fun s p => if s.host.packets.contains p then settlePkt s p else s) s

/-- The packets at the front of a queue pair that have no piece left are done. -/
def finishQp (s : State) (die qp : Nat) : State :=
  ((waitingOf s die qp).takeWhile fun p => p.left.isEmpty && !s.host.moves.any p.owns).foldl (fun s p =>
    match p.read with
    | some n => answerWaiting s p n
    | none => endPkt s p) s

/-- RESOURCE of a unit position of a host die's HD link (02 R57). -/
def hdRes (die pos : Nat) (away : Bool) : Nat := (if away then 4 else 3) * 2 ^ 28 + pos * 32 + 20 + die

/-- The tick of an HD link with a STAGE position from `lo` on that is free for 32 more bytes: a position carries 64 (01 R29, R37). -/
def hdTick (s : State) (die : Nat) (away : Bool) : Nat → Nat → Option Nat
  | 0, _ => none
  | fuel + 1, lo =>
    match ((List.range 32).filterMap fun k => slotWhere s (hdRes die k away) (·.use == 9) lo).min? with
    | none => none
    | some o =>
      let n := ((List.range 32).filter fun k => slotWhere s (hdRes die k away) (·.use == 9) o == some o).length
      let t := stepBase s + o
      if (s.host.moves.filter fun m => m.die == die && m.read == away && m.hd == t).length < 2 * n then some t
      else hdTick s die away fuel (o + 1)

/-- The STAGE positions of a piece: after every earlier piece of its queue pair, a WRITE on the HD link first and a READ on the
pseudo-channel first; one that covers its burst in part needs a second position there for the read before it (R37, R469, R470; 08 R270). -/
def placePiece (s : State) (p : PendPkt) (x : Nat × List Byte) : Option StageMove :=
  match stagingRegion s (winBase s p.die p.window) (winLen s p.die p.window) with
  | none => none
  | some g =>
    let lo := ((s.host.moves.filter fun m => m.die == p.die && m.qp == p.qp).map fun m => max m.hd m.pc).foldl max s.mer - stepBase s
    let hd := fun (from' : Nat) => hdTick s p.die p.read.isSome (fullTicks s) from'
    let pc := fun (taken : List Nat) (from' : Nat) => pcTick s (fun r => r.use == 9 && r.arg == g.id) x.1 taken (fullTicks s) from'
    let mk := fun (t u : Nat) (m : Option Nat) => some (⟨p.die, p.qp, p.psn, p.read.isSome, x.1, x.2, t, u, m⟩ : StageMove)
    if p.read.isSome then (pc [] lo).bind fun u => (hd (u - stepBase s)).bind fun t => mk t u none
    else (hd lo).bind fun t => (pc [] (t - stepBase s)).bind fun u =>
      if x.2.length = 32 then mk t u none else (pc [u] (u - stepBase s)).bind fun v => mk t v (some u)

/-- The pieces of a packet take positions, in order, until one finds none in this step; false then. -/
def placePacket (s : State) (p : PendPkt) : State × Bool :=
  let r := p.left.foldl (fun (a : State × List (Nat × List Byte)) x =>
    if !a.2.isEmpty then (a.1, a.2 ++ [x])
    else
      match placePiece a.1 p x with
      | some m => ({ a.1 with host := { a.1.host with moves := a.1.host.moves ++ [m] } }, [])
      | none => (a.1, [x])) (s, [])
  ({ r.1 with host := { r.1.host with packets := r.1.host.packets.map fun q => if q == p then { p with left := r.2 } else q } }, r.2.isEmpty)

/-- The packets of a queue pair take STAGE positions of the step, in PSN order (R37, R470). -/
def placeQp (s : State) (die qp : Nat) : State :=
  ((waitingOf s die qp).foldl (fun (a : State × Bool) p => if a.2 then placePacket a.1 p else a) (s, true)).1

/-- The queue pairs on which something waits. -/
def waitingQps (s : State) : List (Nat × Nat) := (s.host.packets.map fun p => (p.die, p.qp)).dedup

/-- A step begins: what waits takes its positions. -/
def placeHost (s : State) : State := (waitingQps (placeCaps s)).foldl (fun s q => placeQp s q.1 q.2) (placeCaps s)

/-- One piece whose positions have passed is written, if its packet still waits. -/
def landPiece (s : State) (m : StageMove) : State :=
  match s.host.packets.find? (·.owns m) with
  | some p =>
    if m.read then s
    else
      let r := writeChecked s m.base m.bytes
      if r.2.isEmpty then r.1 else badStaging r.1 p
  | none => s

/-- Pieces whose positions lie before `now` have moved; outside a plan everything that waits moves (R37, R269, R470). -/
def landHost (s : State) (now : Nat) : State :=
  let s := landCaps s.host.caps.length s now
  if s.host.packets.isEmpty then s
  else if planRuns s then
    let past := fun (m : StageMove) => decide (max m.hd m.pc < now)
    let due := (s.host.moves.filter past).mergeSort fun a b => decide (a.pc ≤ b.pc)
    let s := { s with host := { s.host with moves := s.host.moves.filter fun m => !past m } }
    let s := due.foldl landPiece s
    (waitingQps s).foldl (fun s q => finishQp s q.1 q.2) s
  else (waitingQps s).foldl (fun s q => settleQp s q.1 q.2) s

/-- Outside a plan what waits on a queue pair moves before a packet that came later is answered, to where that one came from. -/
def settleFirst (s : State) (die qp : Nat) : State :=
  if planRuns s then s
  else
    let t := settleQp s die qp
    setQp t { qpOf t die qp with peer := (qpOf s die qp).peer }

/-- A queue pair enters the error state. Outside a plan what waits is moved first. -/
def qpError (s : State) (die qp psn syndrome : Nat) : State := failQp (settleFirst s die qp) die qp psn syndrome

/-! ## Seals and the start boundary (R471, R473) -/

/-- A message that a test catches goes: each packet that the test catches counts, and the message draws NAK Remote Access Error (R471). -/
def dropMessage (s : State) (hit : PendPkt → Bool) (msg : List PendPkt) : State :=
  let s := msg.foldl (fun s p => releaseFrame (takeOut s p) p.die p.pool p.buf 6) s
  match msg.filter hit with
  | [] => s
  | p :: l => failQp (answerTo (bump s p.die Reg.hostCntSealed (l.length + 1)) p.die p.qp p.peer) p.die p.qp p.psn 0x62

/-- Every message of a queue pair with a packet that a test catches is discarded, and every READ that it catches or that comes behind such a
message; the messages behind it still reach HBM, with no ACK (R471; DEDUCED, log 24). -/
def dropQp (s : State) (hit : PendPkt → Bool) (die qp : Nat) : State :=
  let all := waitingOf s die qp
  if !all.any hit then s
  else
    let bad := (messages [] (pendingOf s die qp)).filter (·.any hit)
    let behind := all.dropWhile fun p => !hit p
    let s := bad.foldl (fun s m => dropMessage s hit m) s
    let s := behind.foldl (fun s p => if p.read.isSome then
      (if hit p then failQp (answerTo (takeOut s p) die qp p.peer) die qp p.psn 0x62 else takeOut s p) else s) s
    { s with host := { s.host with packets := s.host.packets.map fun p =>
      if p.die = die ∧ p.qp = qp ∧ behind.contains p then { p with ends := false } else p } }

/-- Every pending packet that a test catches is discarded with its message. -/
def dropPackets (s : State) (hit : PendPkt → Bool) : State := (waitingQps s).foldl (fun s q => dropQp s hit q.1 q.2) s

/-- At B the packets that touch a seal are discarded (R471). -/
def dropSealed (s : State) : State := dropPackets s fun p => p.read.isNone && sealed s p.base p.data.length

/-- At the start boundary S the packets of windows outside every STAGING region are discarded (R473). -/
def dropUnstaged (s : State) : State := dropPackets s fun p => !winPlaced s p.die p.window

/-! ## WRITE (R467 to R470) -/

/-- The local QPN of a die's queue pair 0 (R467). -/
def qpnBase (die : Nat) : Nat := if die = 0 then 0x10000 else 0x20000

/-- The packet with the index of its queue pair in place of the QPN. -/
def pktAtIndex (p : RdmaPkt) (die : Nat) : RdmaPkt := { p with qp := p.qp - qpnBase die }

/-- The packet names a queue pair of the die (R467). -/
def qpnHere (die : Nat) (p : RdmaPkt) : Bool := decide (qpnBase die ≤ p.qp) && decide (p.qp < qpnBase die + 2048)

/-- Bytes of a packet's frame from DA to FCS beside its RETH and data: 62 over IPv4, 20 more over IPv6, and a tag's 4 (R451, R467, 13
worked example). -/
def frameBytes (p : RdmaPkt) : Nat := 62 + (if p.v6 then 20 else 0) + (if p.tagged then 4 else 0)

/-- The bytes of frame that a WRITE packet occupies: its data padded to words, and 16 more for an RETH (R467, R478). -/
def pktLen (p : RdmaPkt) : Nat :=
  4 * ceilDiv p.data.length 4 + frameBytes p + (match p.pos with
    | .first => 16
    | .only => 16
    | .middle => 0
    | .last => 0)

/-- Where the answers to a packet go: to its station, with its PCP and its source address (R454, R468). -/
def replyAddr (s : State) (die : Nat) (p : RdmaPkt) : ReplyTo :=
  ⟨4 * die + getFI s p.station die 0 Reg.hostStaEntry_port, getFI s p.station die 0 Reg.hostStaEntry_mac,
    getFI s p.station die 0 Reg.hostStaEntry_vid, p.pcp, p.v6, p.ip, 4791⟩

/-- The frame of a packet that has come without one (FRAME_RECEIVE): as much of it as the packet tells. -/
def pktFrame (s : State) (die : Nat) (p : RdmaPkt) (op n : Nat) : List Byte :=
  let own := getFI s 0 (4 * die + getFI s p.station die 0 Reg.hostStaEntry_port) 0 Reg.hostPortMac_mac
  let b := udpFrame s (replyAddr s die p) rocePort 4791 (rocePacket op p.qp p.psn p.data)
  closeFrame ((beBytes 6 own ++ beBytes 6 (getFI s p.station die 0 Reg.hostStaEntry_mac) ++ (bodyOf b).drop 12).take (n - 4))

/-- A packet reaches the responder: in the buffer of its frame, which the local service hands over to `owner`, or, where its frame was
not seen, in a new one; none where it is dropped with code 13 (R450, R473, R482). -/
def takeBuffer (s : State) (die : Nat) (p : RdmaPkt) (op n : Nat) (use : FrameUse) (owner : Nat) : State × Option (Nat × Nat) :=
  let r := takePacket (s.host.locals.length + 1) s die
  match r.2 with
  | some f =>
    let hand := fun (q : FrameBuf) => if q.die = die ∧ q.pool = f.buf.1 ∧ q.index = f.buf.2 then
      { q with mask := (q.mask &&& 0x6F) ||| BitVec.ofNat 7 (2 ^ owner) } else q
    ({ r.1 with host := { r.1.host with bufs := r.1.host.bufs.map hand } }, some f.buf)
  | none =>
    let a := admitFrame r.1 die n use (BitVec.ofNat 7 (2 ^ owner))
    match a.2 with
    | some b => (a.1, some b)
    | none =>
      let port := 4 * die + getFI s p.station die 0 Reg.hostStaEntry_port
      (dropFrame a.1 port (some port) 13 3 s.mer (pktFrame s die p op n), none)

/-- The checks that every request passes before its PSN: 0 goes on, 1 is dropped, 2 is dropped and counted in HOST_CNT_ICRC. -/
def pktGate (s : State) (die : Nat) (p : RdmaPkt) : Nat :=
  if !p.icrcOk then 2
  else if !qpnHere die p || !qpLive s die (p.qp - qpnBase die) then 1
  else if getFI s (p.qp - qpnBase die) die 0 Reg.hostQpCfg_station ≠ p.station then 2
  else 0

/-- Distance of a PSN from the expected one, modulo 2^24. -/
def psnAhead (s : State) (die : Nat) (p : RdmaPkt) : Nat := (p.psn + 2 ^ 24 - qpPsn s die p.qp % 2 ^ 24) % 2 ^ 24

/-- A gap in the PSN sequence draws one NAK PSN Sequence Error (R488). -/
def psnGap (s : State) (die : Nat) (p : RdmaPkt) : State :=
  let q := qpOf s die p.qp
  if q.naked then s else rdmaNak (setQp s { q with naked := true }) die p.qp (qpPsn s die p.qp) 0x60

/-- R_Key, virtual address and bytes that the message has left at a WRITE packet; none where the packet does not fit its message. -/
def pktPlace (s : State) (die : Nat) (p : RdmaPkt) : Option (Nat × Nat × Nat) :=
  let mtu := qpMtu s die p.qp
  let n := p.data.length
  match p.pos, (qpOf s die p.qp).message with
  | .first, none => if n = mtu ∧ mtu < p.len then some (p.rkey, p.va, p.len) else none
  | .only, none => if n ≤ mtu ∧ n = p.len then some (p.rkey, p.va, p.len) else none
  | .middle, some m => if n = mtu ∧ mtu < m.2.2 then some m else none
  | .last, some m => if n = m.2.2 ∧ n ≤ mtu then some m else none
  | _, _ => none

/-- The packet ends its message. -/
def pktEnds (p : RdmaPkt) : Bool :=
  match p.pos with
  | .last => true
  | .only => true
  | .first => false
  | .middle => false

/-- The responder moves EPSN on. A write of the register in the same tick stands (00 R20). -/
def setEpsn (s : State) (die qp psn : Nat) : State :=
  if wroteNow s (regKey qp (pageOf 0xE die) 0x1A0) then s else setFI s qp die 0 Reg.hostQpPsn_epsn psn

/-- A packet that passed every check waits for HBM, in a plan for its STAGE positions; outside a plan it is written in arrival order (R37,
R269, R469, R470). -/
def pktAccept (s : State) (die : Nat) (p : RdmaPkt) (m : Nat × Nat × Nat) (w : Nat) (buf : Nat × Nat) : State :=
  let n := p.data.length
  let s := setEpsn s die p.qp ((qpPsn s die p.qp + 1) % 2 ^ 24)
  let s := setQp s { qpOf s die p.qp with
    message := if pktEnds p then none else some (m.1, m.2.1 + n, m.2.2 - n)
    naked := false }
  let e : PendPkt := ⟨die, p.qp, p.psn, w, winBase s die w + m.2.1, p.data, pktEnds p, buf.1, buf.2,
    if planRuns s then burstPieces (n + 1) (winBase s die w + m.2.1) p.data else [(winBase s die w + m.2.1, p.data)], none, replyAddr s die p⟩
  let s := { s with host := { s.host with packets := s.host.packets ++ [e] } }
  if planRuns s then finishQp (placeQp s die p.qp) die p.qp else settleQp s die p.qp

/-- A WRITE packet with the expected PSN and a buffer; the answer says whether it keeps the buffer. -/
def pktExecute (s : State) (die : Nat) (p : RdmaPkt) (buf : Nat × Nat) : State × Bool :=
  if p.other then (qpError s die p.qp p.psn 0x61, false)
  else
    match pktPlace s die p with
    | none => (qpError s die p.qp p.psn 0x61, false)
    | some m =>
      let n := if p.pos = .first then m.2.2 else p.data.length
      match winGrants s die m.1 m.2.1 n true with
      | none => (qpError s die p.qp p.psn 0x62, false)
      | some w =>
        if sealed s (winBase s die w + m.2.1) p.data.length then
          (giveUp s ((pendingOf s die p.qp).reverse.dropWhile fun e => !e.ends).reverse die p.qp p.psn, false)
        else (pktAccept s die p m w buf, true)

/-- A duplicate WRITE packet is acknowledged as far as whole messages are in HBM (R470). -/
def ackAgain (s : State) (die qp : Nat) : State :=
  match (qpOf s die qp).done with
  | some psn => rdmaAck s die qp psn 0
  | none => s

/-- A WRITE packet that passed the gate, with its queue pair's index in place of the QPN and a buffer; the answer says whether it keeps the
buffer. -/
def writeGated (s : State) (die : Nat) (p : RdmaPkt) (buf : Nat × Nat) : State × Bool :=
  let s := answerTo s die p.qp (replyAddr s die p)
  let s := if p.ce then sendCnp s die p.qp false else s
  let s := if 1 ≤ frameLevel s die buf.1 ∧ getF s (bufInst die) Reg.bufCfg_cnpEn = 1 then sendCnp s die p.qp true else s
  let d := psnAhead s die p
  if d = 0 then pktExecute s die p buf
  else if d < 2 ^ 23 then (psnGap s die p, false)
  else (ackAgain s die p.qp, false)

/-- BTH opcode of a WRITE packet. -/
def writeOp (p : RdmaPkt) : Nat :=
  match p.pos with
  | .first => 0x06
  | .middle => 0x07
  | .last => 0x08
  | .only => 0x0A

/-- The checks of a packet that has a buffer: what fails them is dropped (R467, R468). -/
def gated (s : State) (die : Nat) (p : RdmaPkt) (buf : Nat × Nat) (owner : Nat) (go : State → State × Bool) : State :=
  let s := bump s die Reg.hostCntRdmaPkt
  let free := fun (s : State) => releaseFrame s die buf.1 buf.2 owner
  match pktGate s die p with
  | 0 =>
    let r := go s
    if r.2 then r.1 else free r.1
  | 1 => free s
  | _ => free (bump s die Reg.hostCntIcrc)

/-- An RDMA WRITE packet reaches the responder (R467 to R471, R488). -/
def rdmaWrite (s : State) (die : Nat) (p : RdmaPkt) : State :=
  let middle := !pktEnds p && p.pos != .first || p.pos == .last
  let q := pktAtIndex p die
  let a := takeBuffer s die p (writeOp p) (pktLen p) (.roce (middle && (qpOf s die q.qp).message.isSome)) 6
  match a.2 with
  | none => a.1
  | some buf => gated a.1 die p buf 6 fun s => writeGated s die q buf

/-- The ACK of a message that is in HBM leaves (R470). Outside a plan the first message that is complete moves now. -/
def writeAck (s : State) (die qp : Nat) : State :=
  let l := pendingOf s die qp
  let s := if !planRuns s && (qpOf s die qp).ackPsn.isNone && l.any (·.ends) then
      ((l.takeWhile fun p => !p.ends) ++ (l.find? (·.ends)).toList).foldl settlePkt s else s
  match (qpOf s die qp).ackPsn with
  | some psn => rdmaAck (setQp s { qpOf s die qp with ackPsn := none }) die qp psn 0
  | none => s

/-! ## READ (R467, R469) -/

/-- A READ that passed its PSN check: earlier writes of the queue pair are in HBM first (log 24), and in a plan its bytes move in STAGE
positions (R37, R469). A READ beyond the 16 that may be outstanding is not supported: NAK Invalid Request (R467; DEDUCED, log 24). -/
def readExecute (s : State) (die : Nat) (p : RdmaPkt) (fresh : Bool) : State :=
  if p.other || (qpOf s die p.qp).message.isSome || decide (16 ≤ ((waitingOf s die p.qp).filter (·.read.isSome)).length) then
    qpError s die p.qp p.psn 0x61
  else
    match winGrants s die p.rkey p.va p.len false with
    | none => qpError s die p.qp p.psn 0x62
    | some w =>
      let n := max 1 (ceilDiv p.len (qpMtu s die p.qp))
      let base := winBase s die w + p.va
      let s := if fresh then setEpsn s die p.qp ((p.psn + n) % 2 ^ 24) else s
      let s := setQp s { qpOf s die p.qp with naked := false }
      if planRuns s then
        let bursts := (List.range (ceilDiv (base % 32 + p.len) 32)).map fun k => (burstOf base + 32 * k, ([] : List Byte))
        let e : PendPkt := ⟨die, p.qp, p.psn, w, base, [], false, 0, 0, if p.len = 0 then [] else bursts, some p.len,
          replyAddr s die p⟩
        finishQp (placeQp { s with host := { s.host with packets := s.host.packets ++ [e] } } die p.qp) die p.qp
      else answerRead (settleFirst s die p.qp) die p.qp p.psn base p.len

/-- A READ Request that passed the gate. -/
def readGated (s : State) (die : Nat) (p : RdmaPkt) : State :=
  let s := answerTo s die p.qp (replyAddr s die p)
  let s := if p.ce then sendCnp s die p.qp false else s
  let d := psnAhead s die p
  if d = 0 then readExecute s die p true
  else if d < 2 ^ 23 then psnGap s die p
  else readExecute s die p false

/-- An RDMA READ Request reaches the responder. -/
def rdmaRead (s : State) (die : Nat) (p : RdmaPkt) : State :=
  let a := takeBuffer s die p 0x0C (16 + frameBytes p) (.roce false) 4
  match a.2 with
  | none => a.1
  | some buf => gated a.1 die p buf 4 fun s => (readGated s die (pktAtIndex p die), false)

/-! ## Staging digests (R472) -/

/-- The STAGE record of a finished digest (R433, R472). -/
def stageItem (s : State) (die w : Nat) (d : Digest) : List Byte :=
  let base := winBase s die w
  let len := winLen s die w
  let n := (kvGet s.host.finishes (256 * die + w)).getD 0
  let at' : Nat × Nat :=
    match (if planRuns s then s.pln.active.bind fun p => p.regions.find? fun r => decide (r.base ≤ base) && decide (base + len ≤ r.base + r.size) else none) with
    | some r => (r.id, base - r.base)
    | none => (0xFFFFFFFF, base)
  leBytes 4 (w + 256 * die + n % 2 ^ 23 * 512) ++ leBytes 4 at'.1 ++ leBytes 8 at'.2 ++ leBytes 8 len ++ digestBytes d

/-- Some accepted write of a window is not in HBM yet (R472). -/
def windowBusy (s : State) (die w : Nat) : Bool := s.host.packets.any fun p => p.die == die && p.window == w && p.read.isNone

/-- The window that a die digests now. -/
def digestFront (s : State) (die : Nat) : Option Nat := (s.host.digests.find? fun e => e.1 == die).map (·.2)

/-- The digest at the front of a die's list begins in this tick, once every accepted write of its window is in HBM (R472). -/
def startDigest (s : State) (die : Nat) : State :=
  match digestFront s die with
  | some w =>
    if windowBusy s die w || (kvGet s.host.digestAt die).isSome then s
    else { s with host := { s.host with digestAt := kvPut s.host.digestAt die s.mer } }
  | none => s

/-- The digest of the window at the front of a die's list finishes. -/
def digestFinish (s : State) (die w : Nat) : State :=
  let r := readChecked s (winBase s die w) (winLen s die w)
  let d : Digest × State :=
    match r.2 with
    | some bs => (sha384 bs, r.1)
    | none => drawBits r.1
  let item := stageItem d.2 die w d.1
  let s := setFI d.2 w die 0 Reg.hostWinKey_digesting 0
  let s := { s with host := { s.host with digests := s.host.digests.erase (die, w), digestAt := kvDel s.host.digestAt die } }
  let s := setF (setDigest s die Reg.hostWinDigest_digest d.1) die Reg.hostWinDigestAt_seq (leNat (item.take 4))
  let s := bump s die Reg.hostCntDigests
  { s with ct := { s.ct with stageAux := s.ct.stageAux ++ [(s.mer, auxRecord 2 item)] } }

/-- Windows of no bytes at the front finish at once (R472). -/
def emptyDigests : Nat → State → Nat → State
  | 0, s, _ => s
  | n + 1, s, die =>
    match digestFront s die with
    | some w => if winLen s die w = 0 ∧ windowBusy s die w = false then emptyDigests n (digestFinish s die w) die else startDigest s die
    | none => s

/-- FINISH in HOST_WIN_CMD (R472). -/
def winFinish (s : State) (die w : Nat) : State :=
  if getFI s w die 0 Reg.hostWinKey_closed = 1 then { s with cmdStatus := 8 }
  else
    let s := setFI (setFI { s with cmdStatus := 0 } w die 0 Reg.hostWinKey_closed 1) w die 0 Reg.hostWinKey_digesting 1
    let n := (kvGet s.host.finishes (256 * die + w)).getD 0
    let s := { s with host := { s.host with
      finishes := kvPut s.host.finishes (256 * die + w) (n + 1)
      digests := s.host.digests ++ [(die, w)] } }
    emptyDigests 256 s die

/-- REOPEN in HOST_WIN_CMD (R472). -/
def winReopen (s : State) (die w : Nat) : State :=
  if getFI s w die 0 Reg.hostWinKey_closed = 1 ∧ getFI s w die 0 Reg.hostWinKey_digesting = 0 then
    setFI { s with cmdStatus := 0 } w die 0 Reg.hostWinKey_closed 0
  else { s with cmdStatus := 8 }

/-- The digest in progress finishes, at the earliest in the tick in which its last byte is due at 32 bytes per tick: it cannot while an accepted
write of its window waits. -/
def digestDone (s : State) (die : Nat) : State :=
  let s := startDigest (if planRuns s then s else landHost s s.mer) die
  match digestFront s die, kvGet s.host.digestAt die with
  | some w, some t =>
    if windowBusy s die w || decide (s.mer + 1 < t + ceilDiv (winLen s die w) 32) then s else emptyDigests 256 (digestFinish s die w) die
  | _, _ => s

/-- VALID 0 ends a queue pair: outside a plan what waits moves now; in a plan the accepted WRITE packets still reach HBM in their
positions, with no ACK, and its READs are dropped (R468; log 24). -/
def endQp (s : State) (die qp : Nat) : State :=
  let s := if planRuns s then
      { s with host := { s.host with packets := s.host.packets.filterMap fun p =>
        if p.die = die ∧ p.qp = qp then (if p.read.isSome then none else some { p with ends := false }) else some p } }
    else settleQp s die qp
  setQp s { qpOf s die qp with message := none }

/-- A write of HOST_QP_CFG and HOST_QP_PSN of a queue pair: VALID 0 ends it, and VALID 1 after VALID 0 clears the error state
(R468). -/
def qpWrite (s : State) (die qp : Nat) (cfg : Word) (psn : Nat) : State :=
  let was := getFI s qp die 0 Reg.hostQpCfg_valid
  let set := fun (s : State) (f : Fld) => setFI s qp die 0 f (bits cfg f.lo f.width)
  let s := set (set (set (set s Reg.hostQpCfg_remoteQpn) Reg.hostQpCfg_valid) Reg.hostQpCfg_pmtu) Reg.hostQpCfg_station
  let s := setFI s qp die 0 Reg.hostQpPsn_epsn psn
  if getFI s qp die 0 Reg.hostQpCfg_valid = 0 then endQp s die qp
  else if was = 0 then setQp (setFI s qp die 0 Reg.hostQpCfg_error 0) (.fresh die qp)
  else s

/-! ## The commands -/

/-- Run a command on a host die that is in service. -/
def onHost (s : State) (die : Nat) (t : State) : Host.Outcome State Fault Refusal :=
  if die < 2 then if hostServes s die then settled s (.next t) else .next s else .fault .absentUnit

/-- Run a register command on a host die. -/
def onHostCmd (s : State) (die : Nat) (t : State) : Host.Outcome State Fault Refusal :=
  if die < 2 then whenServes s .hosts (if blockBusy s (pageOf 0xE die) 0 then .next { s with cmdStatus := 9 } else .next t) else noPage s

/-- A WRITE packet (R469). -/
def execRdmaWritePacket (die : Nat) (p : RdmaPkt) (s : State) : Host.Outcome State Fault Refusal := onHost s die (rdmaWrite s die p)

/-- The ACK of a WRITE message (R470). -/
def execRdmaWriteAck (die qp : Nat) (s : State) : Host.Outcome State Fault Refusal := onHost s die (writeAck s die qp)

/-- A READ Request (R467). -/
def execRdmaReadRequest (die : Nat) (p : RdmaPkt) (s : State) : Host.Outcome State Fault Refusal := onHost s die (rdmaRead s die p)

/-- FINISH (R472). -/
def execFinish (die w : Nat) (s : State) : Host.Outcome State Fault Refusal := onHostCmd s die (winFinish s die w)

/-- REOPEN (R472). -/
def execReopen (die w : Nat) (s : State) : Host.Outcome State Fault Refusal := onHostCmd s die (winReopen s die w)

/-- A staging digest finishes (R472). -/
def execStagingDigestDone (die : Nat) (s : State) : Host.Outcome State Fault Refusal := onHost s die (digestDone s die)

/-- A write of the queue pair that HOST_QP_SEL names (R468); a PMTU of 3 draws RANGE (15 R499). -/
def execQpValidWrite (die : Nat) (cfg : Word) (psn : Nat) (s : State) : Host.Outcome State Fault Refusal :=
  onHostCmd s die (if bits cfg Reg.hostQpCfg_pmtu.lo Reg.hostQpCfg_pmtu.width = 3 then { s with cmdStatus := 7 }
    else
      let qp := getF s die Reg.hostQpSel_index
      qpWrite (noteWrote { s with cmdStatus := 0 } (regKey qp (pageOf 0xE die) 0x1A0)) die qp cfg psn)

/-- A write of HOST_POL_BURST of the policer that HOST_POL_SEL names (R455). -/
def execHostPolBurstWrite (die : Nat) (value : Word) (s : State) : Host.Outcome State Fault Refusal :=
  let i := getF s die Reg.hostPolSel_index
  onHostCmd s die (fillPolicer (setFI (setFI (noteNv { s with cmdStatus := 0 }) i die 0 Reg.hostPolBurst_cbs (bits value 0 24)) i die 0
    Reg.hostPolBurst_ebsPbs (bits value 24 24)) die i)

end Sys2Proof.Machine
end

