-- ==== Sys2Proof/Machine/Boundary.lean ====
section
/-! DEFINITION. The step boundary: commit and void, what the page of each unit and Contrail record, sparing, the next execution, hold
intervals, the end of a plan and a plan that follows, and an outcome that is not held (02 R71 to R82; 03 R127 to R129; 04 R160; 05
R199; 06 R226, R234; 07 R249, R251; 08 R283, R288; 09 R317; 17 R559, R560; 20 R614). -/

namespace Sys2Proof.Machine

/-! ## Commit (R77, R127 to R129, R199) -/

/-- OR flags into the sticky flags of a unit's page (R127). -/
def orFlags (s : State) (page : Nat) (f : NumFlags) : State :=
  setReg s 0 page 0x108 (getReg s 0 page 0x108 ||| BitVec.ofNat 64 f.toNat)

/-- A COMMIT sets numeric flags of a page in this tick: a W1C write of the same tick leaves them set (00 R20; R128). -/
def noteFlags (s : State) (page : Nat) (f : NumFlags) : State :=
  let t := tieNow s
  { s with tie := { t with flags := kvPut t.flags page ((kvGet t.flags page).getD 0 ||| BitVec.ofNat 64 f.toNat) } }

/-- The pending flags of every record join its unit's flags and the device summary (R127 to R129). -/
def commitFlags (s : State) : State :=
  let js := s.eng.jobs.filter fun j => decide (j.flags ≠ 0)
  let all := js.foldl (fun f j => f ||| j.flags) (0 : NumFlags)
  if all = 0 then s
  else
    let first := ((js.map (·.unit)).min?).getD 0
    let old := getReg s 0 0x0100 0x188
    let s := if bits old 0 4 = 0 then
        setF (setF s 0 Reg.plnNumsum_firstUnit first) 0 Reg.plnNumsum_firstExec (curExec s % 2 ^ 32)
      else s
    let s := noteFlags (setReg s 0 0x0100 0x188 (getReg s 0 0x0100 0x188 ||| BitVec.ofNat 64 all.toNat)) 0x0100 all
    js.foldl (fun s j => noteFlags (orFlags s (pageOfUnit s j.unit) j.flags) (pageOfUnit s j.unit) j.flags) s

/-- POE_BADIDX and POE_BADIDX_AT of a bad index (R199). -/
def badWords (b : BadIdx) : Word × Word :=
  (BitVec.ofNat 64 (b.index % 2 ^ 32 + b.slot % 2 ^ 16 * 2 ^ 32 + b.pos % 2 ^ 16 * 2 ^ 48),
    BitVec.ofNat 64 (b.seq % 2 ^ 32 + b.batch % 2 ^ 31 * 2 ^ 32 + 2 ^ 63))

/-- A COMMIT offers POE_BADIDX a bad index in this tick: a read of the same tick still finds the earlier contents (R199). -/
def noteBad (s : State) (page : Nat) (b : BadIdx) : State :=
  let t := tieNow s
  if t.bad.any (·.1 == page) then s
  else
    { s with tie := { t with
      bad := (page, getReg s 0 page 0x110, getReg s 0 page 0x118, (badWords b).1, (badWords b).2) :: t.bad } }

/-- The first bad index of a committed step that POE_BADIDX does not hold yet (R199). -/
def commitBadIdx (s : State) : State :=
  s.eng.badIdx.foldl (fun s b =>
    let page := pageOfUnit s b.unit
    let s := noteBad s page b
    if (getReg s 0 page 0x118).getLsbD 63 then s
    else setReg (setReg s 0 page 0x110 (badWords b).1) 0 page 0x118 (badWords b).2) s

/-- Contribution cells of the reduction records (04 registers). -/
def cellCounts (s : State) : List (Nat × Nat) :=
  (stepWork s).filterMap fun w =>
    match w.body with
    | .red _ => some (recPage s w * 4096 + 0x40, (s.eng.arrivals.filter (·.rid == w.rid)).length)
    | _ => none

/-- Everything that a committed step makes visible (R77, 06 R226). -/
def commitStep (s : State) (m : ObarMsg) : State :=
  let counts := (s.eng.jobs.filter fun j => j.released && !j.busErr).flatMap (·.counts)
  let home := if (homeRec? s).isSome then txnCounts s.eng.parts s.eng.partActions m.votes else []
  let s := addCounts (addCounts (addCounts (commitParts s m.votes) counts) (cellCounts s)) home
  commitBadIdx (commitFlags s)

/-! ## Void (R77) -/

/-- Regions that the step's records write on this device, and those that a sink has written in it (R77; 09 R326). Barrier records
count as reduction records. -/
def writtenRegions (s : State) : List Nat :=
  let recs := (stepWork s).filterMap fun w =>
    match w.body with
    | .red r => some r.region
    | .bar r => some r.region
    | .pool r => if r.fabricDest then none else some r.destRegion
    | .mov r => if r.fabricDst then none else some r.dstRegion
    | .home _ => none
  (recs ++ s.eng.sunk).dedup

/-- The contents of those regions are undefined (R77). -/
def voidStep (s : State) : State :=
  (writtenRegions s).foldl (fun s id =>
    match planRegion s id with
    | some r => makeUndef s r.base r.size none
    | none => s) s

/-! ## Lag of the step (R160, R161) -/

/-- BRU_STEP_SLOWEST from the downward slot (R160, R169). -/
def showStepSlowest (s : State) (l : LagSlot) : State :=
  setReg s 0 0x0400 0x170 (BitVec.ofNat 64
    ((if l.none then 0 else l.node % 65536) + (if l.missed then 2 ^ 16 else 0) + (if l.none then 2 ^ 17 else 0) +
      (if l.voided then 2 ^ 18 else 0) + (if l.none then 0 else l.value % 2 ^ 40 * 2 ^ 24)))

/-- The lag entry of every attached member that took part in the step (R158, R161). -/
def countStepLags (s : State) (l : LagSlot) : State :=
  (attached s).foldl (fun s k =>
    let m := stepMember s k
    if m.none then s else countLag s k (m.value - l.earliest) m.missed) s

/-! ## Sparing and recovery (R251; 17 R560) -/

/-- The logical unit that a page serves. -/
def unitOfPage (s : State) (page : Nat) : Nat :=
  let kind := if pageKind page = 2 then 1 else if pageKind page = 5 then 2 else 5
  kind + 16 * (if kind = 5 then 15 else page % 256 / 3) + 256 * unitLogical s page

/-- Pages of the same kind and die. -/
def sisterPages (page : Nat) : List Nat :=
  if pageKind page = 3 then unitPages 5 15 else unitPages (if pageKind page = 2 then 1 else 2) (page % 256 / 3)

/-- A standby of the unit of a page. -/
def standbyOf (s : State) (page : Nat) : Option Nat := (sisterPages page).find? fun p => unitRole s p == 1

/-- Set ROLE and LOGICAL of a unit's page (R165). -/
def setRole (s : State) (page role logical : Nat) : State :=
  let v := getReg s 0 page 0x100
  setReg s 0 page 0x100 (putBits (putBits v 0 2 role) 4 4 logical)

/-- The logical position of a failed unit maps to its standby (17 R560). -/
def spareUnit (s : State) (page : Nat) : State :=
  let pos := unitLogical s page
  match standbyOf s page with
  | some q =>
    let s := setRole (setRole s page 3 0xF) q 0 pos
    { s with eng := { s.eng with spared := true } }
  | none => setRole s page 3 0xF

/-- Sparing at a boundary, or at once outside a plan. -/
def spareUnits (s : State) : State :=
  let l := s.eng.toSpare
  l.foldl spareUnit { s with eng := { s.eng with toSpare := [] } }

/-- No unit has been spared for the execution that comes (12 R430). -/
def clearSpared (s : State) : State := { s with eng := { s.eng with spared := false } }

/-- Stopped Movers recover at a step boundary (R251). -/
def recoverMovers (s : State) : State := [0, 1, 2, 3].foldl (fun s d => if movStopped s d then movRecover s d else s) s

/-! ## Between two executions -/

/-- A vacate, restore or row repair ran in the execution (12 R430). -/
def repairActive (s : State) : Bool :=
  s.pln.repairRan || !s.mem.redirects.isEmpty || s.mem.relocs.any fun r => pcState s r.stack r.pc == 1

/-- PLN_OUTCOME and the counters (R96). -/
def showOutcome (s : State) (v : Verdict) : State :=
  let s := setB s 0 Reg.plnOutcome_commit v.commit
  let s := setF (setF s 0 Reg.plnOutcome_cause v.cause) 0 Reg.plnOutcome_source v.source
  let s := bump s 0 (if v.commit then Reg.plnCntCommit else Reg.plnCntVoid)
  let s := if v.retry then bump s 0 Reg.plnCntRetry else s
  { s with pln := { s.pln with prevOutcome := if v.commit then 1 else 0, prevCause := v.cellCause } }

/-- The engines, the fabric and the reports of the execution that ends are put away; what was reported after the cut belongs to the
next one (R76, R317, R393). -/
def clearStep (s : State) : State :=
  let s := flushStep (stopChannels s)
  { s with
    eng := { s.eng with
      jobs := [], arrivals := [], parts := [], partsDone := false, partActions := 0, badIdx := [], missed := [], badRecs := [], downs := []
      todo := s.eng.todo.filter fun x => x.user == .drain
      sunk := [], due := [], seals := [] }
    fab := { s.fab with obarRx := [], badObar := [], lagNow := [] }
    pln := { s.pln with
      reports := s.pln.nextReports, nextReports := []
      losses := s.pln.losses ++ s.pln.nextLosses, nextLosses := []
      abort := s.pln.nextAbort, nextAbort := false
      cutDone := false, own := none, ups := [], upSent := false, downSent := false, cellsSent := false, obar := none, held := none
      window := false, infoSent := false, repairRan := false, rejoinDone := false } }

/-- A hold interval is put away: what was reported in it, and an ABORT, wait for the execution that follows (R76, R79, R81). -/
def clearHold (s : State) : State :=
  let t := clearStep s
  { t with pln := { t.pln with reports := s.pln.reports ++ s.pln.nextReports, abort := s.pln.abort || s.pln.nextAbort } }

/-- Source ranges of the step's Mover records in STAGING regions are sealed from B on (R249). -/
def sealSources (s : State) : State :=
  let l := (stepWork s).filterMap fun w =>
    match w.body with
    | .mov r =>
      if r.fill || r.fabricSrc || r.len = 0 then none
      else
        match planRegion s r.srcRegion with
        | some g => if g.flags.testBit 0 then some (⟨g.base + r.srcOfs, r.len⟩ : Seal) else none
        | none => none
    | _ => none
  { s with eng := { s.eng with seals := l } }

/-- Losses that are known of join those that the barrier carries, each once (11 R393). -/
def knowLosses (s : State) (l : List Loss) : State :=
  { s with pln := { s.pln with losses := s.pln.losses ++ l.dedup.filter fun x => !s.pln.losses.contains x } }

/-- The current step gives a unit a RUN or RELEASE run. -/
def unitUsed (s : State) (u : Nat) : Bool :=
  match curTable s (engineRes u) with
  | some t => t.runs.any fun r => r.use == 0xB || r.use == 0xC
  | none => false

/-- Port codes of a lane die. -/
def dieCodes (s : State) (die : Nat) : List Nat := (List.range 6).flatMap fun j => codesOf (splitNow s (6 * die + j)) (6 * die + j)

/-- The current step uses a block (R583). -/
def blockUsed (s : State) (page : Nat) : Bool :=
  let kind := pageKind page
  let inst := page % 256
  if kind = 2 ∨ kind = 3 ∨ kind = 5 then
    (unitRole s page == 0 || s.eng.toSpare.contains page) && unitUsed s (unitOfPage s page)
  else if kind = 7 then (List.range 16).any fun k => unitUsed s (4 + 16 * inst + 256 * k)
  else if kind = 6 then (homeRec? s).isSome
  else if kind = 0xC then stepsRun s && (dieCodes s inst).any (stepUses s)
  else false

/-- An execution begins (R72, R85, R95); a port whose neighbour its alternate set foresees and that is lost already is a known loss (11
R393), and a block that is still in reset and that the step uses ends it VOID (06 R230; 18 R583); pending host writes to a sealed range are
discarded (13 R471). -/
def enterStep (s : State) (n : Nat × Nat × Nat) (exec base band alt : Nat) : State :=
  let s := setF (setF s 0 Reg.plnStep_step n.1) 0 Reg.plnStep_attempt n.2.1
  let s := setF (setF s 0 Reg.plnExec_exec exec) 0 Reg.plnStepBase_base base
  let s := setActive (setF (setF s 0 Reg.plnState_band band) 0 Reg.plnState_alt alt) 2
  let s := { s with pln := { s.pln with loops := n.2.2, hold := none, holdNext := none, idleExec := false, starting := false, window := false } }
  let s := setF s 0 Reg.txnStatus_seq (((homeRec? s).map (·.1.seq)).getD 0)
  let s := knowLosses s (lostPorts s)
  let s := if s.pwr.blocks.any fun b => !b.waits && blockUsed s b.page then report s 7 else s
  placeHost (startVacates (dropSealed (sealSources s)))

/-- NOMINAL_ONLY of a run whose first band is known (12 R439). -/
def nominalFlag (band : Nat) : Nat := if band = 0 then 1 else 0

/-- The chains of a device that rejoined start with the first execution that it runs in full (12 R441). -/
def openRejoined (s : State) (exec base : Nat) : State :=
  match s.ct.run, s.pln.active with
  | none, some p => openChains s p base exec (0x40 + nominalFlag (stepBand s))
  | _, _ => s

/-- Ticks of a hold interval: the smallest multiple of 1024 not below the outcome-barrier bound (R81). -/
def holdLen (s : State) : Nat := (s.pln.active.map fun p => ceilDiv (outcomeBound p) 1024 * 1024).getD 1024

/-- A hold interval begins at a tick (R81). PLN_STEP, PLN_EXEC and PLN_STEP_BASE keep what they showed of the VOID execution, because a hold
is none (R95; DESIGN CHOICE, log 98). -/
def beginHold (s : State) (next : Option (Nat × Nat × Nat)) (from' : Nat) : State :=
  let s := joinFlags (setActive s 2) 8
  { s with pln := { s.pln with hold := some (from' + holdLen s), holdNext := next, heldBefore := true } }

/-! ## Plan boundaries (R71, R82; 11 R402) -/

/-- At a plan boundary the two NEXT_DIGEST values of a link are compared (11 R402 reason 10). -/
def checkNext (s : State) (own : Digest) : State :=
  (allPorts s).foldl (fun s c =>
    match (linkOf s c).ident with
    | some i => if 2 ≤ portState s c ∧ i.next ≠ own then quarantine s c 10 else s
    | none => s) s

/-- What the neighbours' IDENT show of their plans moves on with the plan that begins. -/
def moveIdents (s : State) (p : Plan) : State :=
  { s with lanes := { s.lanes with links := s.lanes.links.map fun l =>
    { l with ident := l.ident.map fun i => if i.next = 0 then i else { i with plan := i.next, repro := planRepro p, next := 0 } } } }

/-- The plan ends and no plan follows: IDLE (R82). With no plan active BAND, ALT and PLN_DIGEST read 0, while PLN_STEP, PLN_EXEC and
PLN_STEP_BASE keep their last values (R93; DESIGN CHOICE, log 87). -/
def endPlan (s : State) : State :=
  let s := checkNext s (nextDigest s)
  let s := setActive (setF (setF s 0 Reg.plnState_band 0) 0 Reg.plnState_alt 0) 0
  let s := { s with pln := { s.pln with
    active := none, follow := false, hold := none, holdNext := none, idleExec := false, losses := [], reports := [], abort := false
    heldBefore := false, fwStep := false } }
  startVacates (withdrawWaiting (recheckOthers (setDigest s 0 Reg.plnDigest_digest 0)))

/-- A staged plan begins at a plan boundary; what was reported at or after the cut of the plan's last step, and an ABORT, belong to its first
execution (R76, R79); a firmware handover that waits begins with it (R71; 20 R614). -/
def beginFollow (s : State) (q : Plan) (base band alt : Nat) : State :=
  let s := checkNext s (nextDigest s)
  let s := setStaged { s with pln := { s.pln with
    active := some q, staged := none, follow := false, heldBefore := false, startAt := base } } 0
  let s := setDigest s 0 Reg.plnDigest_digest q.planDigest
  let s := withdrawWaiting (beginLags (moveIdents s q))
  let s := if fwPending s then beginHandover { s with pln := { s.pln with fwStep := true } } else s
  let s := openChains (knowLosses s (unitLosses s q)) q base 0 (nominalFlag band)
  recheckOthers (dropUnstaged (enterStep s (0, 0, 0) 0 base band alt))

/-- What follows a boundary whose verdict is known, at a tick. -/
def goOn (s : State) (v : Verdict) (exec base : Nat) : State :=
  match v.next with
  | some n => if v.hold then beginHold s v.next base else openRejoined (enterStep s n exec base v.band v.alt) exec base
  | none =>
    if v.begins then
      match s.pln.staged with
      | some q => beginFollow s q base v.band v.alt
      | none => endPlan s
    else if s.pln.follow then setCode (endPlan s) 0x20
    else endPlan s

/-! ## STEP_BOUNDARY -/

/-- Neighbours that were lost after OBAR_UP of the start barrier: step 0 reports cause LINK if it uses one of their ports (11 R419). -/
def reportLost (s : State) (l : List Loss) : State :=
  if l.any fun x => x.node == nodeId s && x.kind == 1 && stepUses s (physicalPort s x.unit) then report s 6 else s

/-- The start barrier formed COMMIT: step 0 begins at S (R418). -/
def beginStart (s : State) (p : Plan) (m : ObarMsg) : State :=
  let base := s.pln.startAt
  let late := s.pln.nextLosses
  let s := clearSpared (clearStep (beginLags s))
  let s := openChains { s with pln := { s.pln with refreshBase := base, heldBefore := false } } p base 0 (nominalFlag m.band)
  dropUnstaged (reportLost (enterStep (resumeLinks s) (0, 0, 0) 0 base (min m.band 2) ((coverMsg p m).getD 0)) late)

/-- The boundary of a step whose outcome is held. -/
def endStep (s : State) (v : Verdict) (t : StepRec) (m : ObarMsg) : State :=
  let base := stepEnd s
  let exec := curExec s
  let s := landHost (finishWrites s) base
  let s := if v.commit then commitStep s m else voidStep s
  let s := countStepLags (showStepSlowest (showVotes s m.votes) m.lag) m.lag
  let s := { s with pln := { s.pln with repairRan := repairActive s } }
  let last := v.next.isNone
  let s := ctEntry s ⟨v.commit, if v.commit then 0 else v.cause, v.source, getF s 0 Reg.plnStep_step, getF s 0 Reg.plnStep_attempt,
    t.sign, t.rejoin, last, m.votes⟩
  let s := ctCertificate s t.sign last v.halted
  let s := showOutcome s v
  let s := spareUnits (clearSpared (recoverMovers (clearStep s)))
  goOn (resumeLinks { s with pln := { s.pln with heldBefore := false } }) v (exec + 1) base

/-- STEP_BOUNDARY: S of a start barrier that committed, or the end of a step whose outcome is held. -/
def stepBoundary (s : State) : State :=
  let s := outcomeHeld s
  match s.pln.active, s.pln.held with
  | some p, some m =>
    if s.pln.starting then
      if m.ok && s.pln.cellsSent && decide (s.pln.startAt = s.mer) then beginStart s p m else s
    else if stepsRun s && s.pln.hold.isNone && decide (stepEnd s = s.mer) then
      match curStep s with
      | some t => endStep s (stepVerdict s p t m) t m
      | none => s
    else s
  | _, _ => s

/-- HOLD_INTERVAL_END: the barrier of a hold interval decides what follows it (R81). -/
def holdEnd (s : State) : State :=
  let s := outcomeHeld s
  match s.pln.active, s.pln.held, s.pln.hold with
  | some p, some m, some e =>
    if e = s.mer then
      let v := holdVerdict s p m
      let held := s.pln.heldBefore
      let s := if v.next.isNone then setF (signCert s 2 1) 0 Reg.plnOutcome_cause 0x0A else s
      let s := spareUnits (clearHold s)
      goOn (resumeLinks { s with pln := { s.pln with heldBefore := held } }) v (curExec s + 1) e
    else s
  | _, _, _ => s

/-! ## OUTCOME_LOST (R80; 17 R559) -/

/-- The outcome is not held at E: FATAL, a STOPPED certificate, and the device arms for rejoin by itself. Its step's destinations are
undefined as after a VOID (DEDUCED, log 36). -/
def outcomeLost (s : State) : State :=
  let s := outcomeHeld s
  if barrierOpen s && s.pln.held.isNone && decide (barrierEnd s = s.mer) then
    let s := fault (dropShort s 6) 0x29 0x0100 0 0xFFFF (stepBase s) 0
    let s := if s.pln.hold.isSome then s else voidStep s
    let s := signCert s 3 0
    let s := spareUnits (clearSpared (recoverMovers (clearStep s)))
    let s := resumeLinks { s with pln := { s.pln with
      rejoin := true, startAt := 0, hold := none, holdNext := none, idleExec := false, losses := [], reports := [], abort := false
      heldBefore := false, fwStep := false } }
    setActive s 1
  else s

/-! ## The commands -/

/-- The boundary of a step (R77). -/
def execStepBoundary (s : State) : Host.Outcome State Fault Refusal :=
  whenRuns s .core (.next (stepBoundary s))

/-- The end of a hold interval (R81). -/
def execHoldIntervalEnd (s : State) : Host.Outcome State Fault Refusal :=
  whenRuns s .core (.next (holdEnd s))

/-- An outcome that is not held (R80). -/
def execOutcomeLost (s : State) : Host.Outcome State Fault Refusal :=
  whenRuns s .core (.next (outcomeLost s))

end Sys2Proof.Machine
end

