-- ==== Sys2Proof/Machine/HostPorts.lean ====
section
/-! DEFINITION. Frames through the host ports: reception, dequeue, and the links (13 R447, R450 to R460, R473; 18 R579). -/

namespace Sys2Proof.Machine

/-- The RoCEv2 payload of a frame: BTH opcode and destination QPN, where the frame is long enough. -/
def bthOf (f : List Byte) : Nat × Nat :=
  let u := (payloadOf f).drop ((if etherType f = 0x86DD then 40 else 20) + 8)
  (netNat u 0 1, netNat u 5 3)

/-- What a local frame needs a buffer for (R488): opcodes 0x07 Middle and 0x08 Last of a message in progress pass at level 3. -/
def localUse (s : State) (die : Nat) (v : HostService) (f : List Byte) : FrameUse :=
  match v with
  | .roce =>
    let b := bthOf f
    .roce ((b.1 == 0x07 || b.1 == 0x08) && (qpOf s die (b.2 - qpnBase die)).message.isSome)
  | .arp _ _ _ => .local
  | .neighbour _ _ => .local
  | .control => .local

/-- A local frame: a buffer, then its service. ARP and Neighbour Solicitation are answered at once, on the same port with the frame's VID and
PCP; a RoCEv2 packet waits for the responder, and a frame of the control channel crosses to SD0 (R454, R460, R466). -/
def localFrame (s : State) (port : Nat) (f : List Byte) (vid colour : Nat) : State :=
  let die := hostDie port
  match serviceOf s die f with
  | none => dropFrame s port (some port) 9 colour s.mer f
  | some v =>
    let a := admitFrame s die f.length (localUse s die v f) 0x10
    match a.2 with
    | none => dropFrame a.1 port (some port) 13 colour s.mer f
    | some buf =>
      let s := capFrame a.1 1 port 0 colour s.mer f (some buf)
      match v with
      | .roce => { s with host := { s.host with locals := s.host.locals ++ [⟨port, true, colour, s.mer, f, buf, []⟩] } }
      | .control => crossControl s ⟨port, false, colour, s.mer, f, buf, []⟩
      | .arp _ _ _ => answerNow s v buf
      | .neighbour _ _ => answerNow s v buf
where
  /-- The reply of a service that answers at once. -/
  answerNow (s : State) (v : HostService) (buf : Nat × Nat) : State :=
    let s := releaseFrame s (hostDie port) buf.1 buf.2 4
    match replyFrame s port v with
    | some r => forwardFrame s port none r vid (pcpOf f) 0 none
    | none => s

/-- A frame that passed checks 1 to 5 (R452 to R456). -/
def admitStation (s : State) (port : Nat) (f : List Byte) : State :=
  let die := hostDie port
  let vid := vidOf s port f
  let sa := netNat f 6 6
  match stationOf s port vid sa with
  | none => dropFrame (noteStranger s port vid sa) port (some port) 6 3 s.mer f
  | some i =>
    let c := police s die (getFI s i die 0 Reg.hostStaAttr_policer) f.length
    if c.2 = 2 then dropFrame c.1 port (some port) 7 2 s.mer f
    else
      match destOf s port vid i f with
      | .local => localFrame c.1 port f vid c.2
      | .port p => forwardFrame c.1 p (some port) f vid (pcpOf f) c.2 none
      | .drop code => dropFrame c.1 port (some port) code c.2 s.mer f

/-- The uncorrectable codewords of a port are counted and raised (17 R552). -/
def fecError (s : State) (port : Nat) : State :=
  fault (bump s port Reg.hostCntFecUncorr) 0x39 (pageOf 0xF port) port 0xFFFF 0 1

/-- A frame on a host port in service (R447, R450). -/
def receiveFrame (s : State) (port : Nat) (f : List Byte) (fec : FecResult) : State :=
  let s := bump (bump s port Reg.hostCntRxframes) port Reg.hostCntRxbytes f.length
  let s := bump s port Reg.hostCntFecCorr fec.corrected
  let s := if fec.bad then fecError s port else s
  let code := formCode s port f fec.bad
  if code ≠ 0 then dropFrame s port (some port) code 3 s.mer f else admitStation s port f

/-- A frame on H0 or H4 in Dusk or Sleep: ARP, Neighbour Solicitation and the control channel, and nothing else (18 R579, R584). -/
def duskFrame (s : State) (port : Nat) (f : List Byte) (fec : FecResult) : State :=
  let v := formCode s port f fec.bad
  if v ≠ 0 then s
  else
    match serviceOf s (hostDie port) f with
    | none => s
    | some v =>
      match replyFrame s port v with
      | some r => emit s (.frame s.mer port (egressForm s port (vidOf s port f) (pcpOf f) r))
      | none => s

/-- A port can take its link up: enabled, its logic running, with HREF present (R447, 19 R606). -/
def canLink (s : State) (port : Nat) : Bool :=
  portServes s port && !s.pwr.hrefAbsent && getF s port Reg.hostPortCfg_enable == 1 && decide (getF s port Reg.hostPortCfg_phy ≤ 2)

/-- The link of a host port comes up; only PHY 1 and 2 negotiate (R447, R474). -/
def linkUp (s : State) (port : Nat) : State :=
  if canLink s port then
    let an := getF s port Reg.hostPortCfg_phy != 0 && getF s port Reg.hostPortCfg_an == 1
    setB (setB (setB s port Reg.hostPortStatus_link true) port Reg.hostPortStatus_aligned true) port Reg.hostPortStatus_anDone an
  else s

/-- The link of a host port goes down: the frames queued for it are discarded with code 12 (R473). -/
def linkLost (s : State) (port : Nat) : State :=
  let s := setB (setB (setB s port Reg.hostPortStatus_link false) port Reg.hostPortStatus_aligned false) port Reg.hostPortStatus_anDone false
  discardQueues s port

/-! ## The commands -/

/-- A frame arrives (R450). -/
def execFrameReceive (port : Nat) (f : List Byte) (fec : FecResult) (s : State) : Host.Outcome State Fault Refusal :=
  if port < 8 then
    if hostLink s port then
      if hostServes s (hostDie port) then settled s (.next (receiveFrame s port f fec))
      else if portServes s port then settled s (.next (duskFrame s port f fec))
      else .next s
    else .next s
  else .fault .absentUnit

/-- A choice of a port's scheduler (R457). -/
def execFrameDequeue (port : Nat) (s : State) : Host.Outcome State Fault Refusal :=
  if port < 8 then settled s (.next (dequeueFrame s port)) else .fault .absentUnit

/-- A host link goes down (R473). -/
def execHostLinkDown (port : Nat) (s : State) : Host.Outcome State Fault Refusal :=
  if port < 8 then if portServes s port then settled s (.next (linkLost s port)) else .next s else .fault .absentUnit

/-- A host link comes up (R447). -/
def execHostLinkUp (port : Nat) (s : State) : Host.Outcome State Fault Refusal :=
  if port < 8 then settled s (.next (linkUp s port)) else .fault .absentUnit

end Sys2Proof.Machine
end

