-- ==== Sys2Proof/Machine/Blocks.lean ====
section
/-! DEFINITION. Block resets: what may be reset, the idle request, the reset itself and the release (18 R582, R583, R588, and the
reset rules of each block's chapter). -/

namespace Sys2Proof.Machine

/-! ## Register pages under a reset (00 R15, R16; 18 R588) -/

/-- ROLE, LOGICAL and the FAILED marks: the sparing state, which every reset keeps (04 R165, 05 R197, 17 R566). -/
def isMark (f : Fld) : Bool :=
  [Reg.rdeStatus_role, Reg.rdeStatus_logical, Reg.bruStatus_role, Reg.bruStatus_logical, Reg.poeStatus_role, Reg.poeStatus_logical,
    Reg.movStatus_failed, Reg.txnStatus_hfail].contains f

/-- What a block or pin reset keeps of the registers. -/
def survivesReset (f : Fld) : Bool := decide (f.keep ≠ .none) || isMark f

/-- What a power-on keeps: NV fields and marks. -/
def survivesPower (f : Fld) : Bool := decide (f.keep = .nv) || isMark f

/-- A register after a reset: each field keeps its contents or takes its power-on value. -/
def resetWord (kind off : Nat) (v : Word) (keeps : Fld → Bool) : Word :=
  (fieldsAt kind off).foldl (fun a f => a ||| (if keeps f then v &&& f.mask else BitVec.ofNat 64 (f.reset <<< f.lo))) 0

/-- Every register of the pages that a test picks after a reset; held counter values of those pages go. -/
def resetRegs (s : State) (pick : Nat → Bool) (keeps : Fld → Bool) : State :=
  { s with
    regs := s.regs.filterMap fun kv =>
      let page := kv.1 / 4096 % 65536
      if pick page then
        let w := resetWord (pageKind page) (kv.1 % 4096) kv.2 keeps
        if w = keyReset kv.1 then none else some (kv.1, w)
      else some kv
    ctl := { s.ctl with
      frozen := s.ctl.frozen.filter fun kv => !pick (kv.1 / 4096 % 65536)
      frozenLags := if pick 0x0400 then none else s.ctl.frozenLags } }

/-! ## Pages of the grade (15 R516) -/

/-- A page is present on the grade. -/
def pagePresent (s : State) (page : Nat) : Bool :=
  let kind := pageKind page
  let inst := page % 256
  let n := match kind with
    | 2 => 12
    | 3 => 5
    | 5 => 12
    | 7 => 4
    | 9 => 20
    | 0xB => Config.ports s.mfg.grade
    | 0xC => Config.laneDies s.mfg.grade
    | 0xE => 2
    | 0xF => 8
    | 0x10 => 3
    | _ => if kind ≤ 0x15 then 1 else 0
  decide (inst < n) && (kind != 9 || fitsStack s inst)

/-- A page that the directory lists now: in Dusk only those of SD0 (R517). -/
def pageListed (s : State) (page : Nat) : Bool :=
  pagePresent s page && (s.pwr.phase != .dusk || [0x0000, 0x1100, 0x1200, 0x1300, 0x1400].contains page)

/-- The part of the device that holds a page (15 R516; 18 R579, R584). -/
def pageDomain (page : Nat) : Domain :=
  match pageKind page with
  | 0 | 0x11 | 0x12 | 0x13 | 0x14 | 0x15 | 0xD => .service
  | 0xE | 0xF => .hosts
  | 0x10 => if page % 256 = 0 then .core else .hosts
  | 0xB | 0xC => .lanes
  | 2 | 5 | 7 | 9 => .memory
  | _ => .core

/-- Pages that a block reset of a page puts in reset (R583). -/
def resetCovers (blk page : Nat) : Bool :=
  blk == page || (pageKind blk == 0xC && pageKind page == 0xB && page % 256 / 6 == blk % 256) ||
    (pageKind blk == 0xE && pageKind page == 0xF && page % 256 / 4 == blk % 256) ||
    (pageKind blk == 0xE && page == pageOf 0x10 (bufInst (blk % 256)))

/-- A block is held in reset and answers nothing (15 R506; 17 R566). -/
def pageHeld (s : State) (page : Nat) : Bool := s.pwr.blocks.any fun b => b.held && b.unit == 0 && resetCovers b.page page

/-- A block answers an access. -/
def pageServes (s : State) (page : Nat) : Bool := runs s (pageDomain page) && !pageHeld s page

/-- RESETTABLE of a page (R511, R583). -/
def resettable (page : Nat) : Bool := [2, 3, 5, 6, 7, 0xC, 0xE].contains (pageKind page)

/-! ## The idle request (R582 step 1, R583) -/

/-- A block reset of the unit that serves logical barrier unit 0 is refused while no barrier unit stands by and a plan runs (R583). -/
def barrierHeld (s : State) (page : Nat) : Bool :=
  pageKind page == 3 && unitRole s page == 0 && unitLogical s page == 0 && planRuns s && (standbyOf s page).isNone

/-- Pages that the access in progress names (15 R495). -/
def accessPages (s : State) : List Nat :=
  match s.ctl.access, s.ctl.requests with
  | some _, r :: _ =>
    match r.msg with
    | .read _ l => l.map fun e => e.addr / 4096 % 65536
    | .write _ l => l.map fun e => e.addr / 4096 % 65536
    | _ => []
  | _, _ => []

/-- A block reset is in progress or waits. -/
def blockAsked (s : State) (page unit : Nat) : Bool :=
  s.pwr.blocks.any fun b => b.page == page && (b.unit == 0 || b.unit == unit)

/-- The idle request goes out: the block takes no new work and STATUS reads IDLE; a step that uses it is VOID with cause RESET. -/
def sendIdle (s : State) (page unit : Nat) : State :=
  let s := if blockUsed s page then report s 7 else s
  let s := if unit = 0 then setH s page Reg.status_state 1 else s
  let rest := s.pwr.blocks.filter fun b => !(b.page == page && b.unit == unit)
  { s with pwr := { s.pwr with blocks := rest ++ [⟨page, unit, false, false, s.mer, false⟩] } }

/-- A block reset begins, after the access in progress where it names the block (15 R506). -/
def beginBlock (s : State) (page unit : Nat) : State :=
  if blockAsked s page unit then s
  else if (accessPages s).contains page then
    { s with pwr := { s.pwr with blocks := s.pwr.blocks ++ [⟨page, unit, true, false, s.mer, false⟩] } }
  else sendIdle s page unit

/-- Block resets that waited for an access begin (15 R506). -/
def sendIdles (s : State) : State := (s.pwr.blocks.filter (·.waits)).foldl (fun s b => sendIdle s b.page b.unit) s

/-- BLOCK_RESET or RST_REQ (R582, R583, R590). -/
def blockCmd (s : State) (page unit : Nat) : State :=
  if !resettable page ∨ (if page = 0x0600 then 4 < unit else unit ≠ 0) then { s with cmdStatus := 7 }
  else if barrierHeld s page || blockAsked s page unit then { s with cmdStatus := 8 }
  else beginBlock { s with cmdStatus := 0 } page unit

/-! ## The reset of each block (R583) -/

/-- The records that run on some units deliver nothing. -/
def dropJobs (s : State) (gone : Job → Bool) : State :=
  dropTodo { s with eng := { s.eng with jobs := s.eng.jobs.filter fun j => !gone j } } fun
    | .record u seq => s.eng.jobs.any fun j => gone j && j.unit == u && j.seq == seq
    | _ => false

/-- The Mover's channels stop; the destinations of its transfers are undefined (07 R258). -/
def resetMover (s : State) (die : Nat) : State :=
  dropMovJobs (dropJobs s fun j => j.unit % 16 == 4 && j.unit / 16 % 16 == die) die fun _ => true

/-- Home agents stop; `die` names one, none all. The idle request of the coordinator completes the writes of the commit stage, which is
empty then (06 R235; 18 R582; DEDUCED, log 91). -/
def resetHomes (s : State) (die : Option Nat) : State :=
  let s := dropJobs s fun j => j.unit % 16 == 3 && (match die with
    | some d => j.unit / 16 % 16 == d
    | none => true)
  match die with
  | some _ => s
  | none =>
    let s := drainStage s
    { s with eng := { s.eng with parts := [], partsDone := false, partActions := 0 } }

/-- A port of a reset lane die falls to electrical idle and starts afresh; in a plan it is a lost port (09 R355, 10 R387). -/
def resetPort (s : State) (code : Nat) : State :=
  let s := if planRuns s && portState s code == 4 then addLoss s ⟨nodeId s, 1, logicalPort s code⟩ else s
  setLink (linkDown s code) { Link.fresh code with idleUntil := some (s.mer + 4096), since := s.mer }

/-- A lane die (09 R355, 10 R387, 14 R489). -/
def resetLaneDie (s : State) (die : Nat) : State :=
  let codes := dieCodes s die
  let t := codes.foldl resetPort s
  let t := { t with
    fab := { t.fab with egress := t.fab.egress.filter fun e => !codes.contains e.code }
    lanes := { t.lanes with
      losses := t.lanes.losses.filter fun x => x.die != die
      reqs := t.lanes.reqs.filter fun r => portNo r.port / 6 != die
      lastIndex := t.lanes.lastIndex.filter fun x => x.1 / 64 != die
      codeAt := t.lanes.codeAt.filter fun x => x.1 / 64 != die
      rxIdent := t.lanes.rxIdent.filter fun x => x.1 / 64 != die
      rxTrain := t.lanes.rxTrain.filter fun x => x.1 / 64 != die
      rxAt := t.lanes.rxAt.filter fun x => x.1 / 64 != die
      subs := t.lanes.subs.filter fun x => x.die != die
      tx := t.lanes.tx.filter fun x => x.1 / 64 != die
      remap := t.lanes.remap.filter fun x => portNo x.1 / 6 != die } }
  let t := poolNote (poolFreed s t)
  resetRegs t (fun p => p == pageOf 0xC die || (pageKind p == 0xB && p % 256 / 6 == die)) survivesReset

/-- A host die: its pages, frame pools, queues, sessions, queue pairs and windows (13 R476, 14 R489, R491). -/
def resetHostDie (s : State) (die : Nat) : State :=
  let h := s.host
  let s := { s with
    host := { h with
      ports := h.ports.filter fun p => hostDie p.port != die
      policers := h.policers.filter fun p => p.die != die
      pools := h.pools.filter fun p => p.die != die
      bufs := h.bufs.filter fun b => b.die != die
      packets := h.packets.filter fun p => p.die != die
      moves := h.moves.filter fun m => m.die != die
      caps := h.caps.filter fun c => c.die != die
      qps := h.qps.filter fun q => q.die != die
      digests := h.digests.filter fun d => d.1 != die
      digestAt := h.digestAt.filter fun d => d.1 != die
      locals := h.locals.filter fun f => hostDie f.port != die
      ctlUse := h.ctlUse.filter fun x => x.1 != 20 + die
      finishes := h.finishes.filter fun f => f.1 / 256 != die
      samples := if sampleDie s = some die then [] else h.samples }
    ctl := { s.ctl with sessions := s.ctl.sessions.filter fun x => x.id / 4 != die } }
  let s := dropRequests s fun id => id / 4 == die
  resetRegs s (fun p => p == pageOf 0xE die || p == pageOf 0x10 (bufInst die) || (pageKind p == 0xF && p % 256 / 4 == die)) survivesReset

/-- The block itself. -/
def resetBlock (s : State) (page unit : Nat) : State :=
  let kind := pageKind page
  let inst := page % 256
  if kind = 0xC then resetLaneDie s inst
  else if kind = 0xE then resetHostDie s inst
  else if kind = 6 then
    if unit = 0 then resetRegs (resetHomes s none) (· == page) survivesReset else resetHomes s (some (unit - 1))
  else if kind = 7 then resetRegs (resetMover s inst) (· == page) survivesReset
  else
    let u := unitOfPage s page
    let mine := unitRole s page == 0 || s.eng.toSpare.contains page
    resetRegs (if mine then dropJobs s fun j => j.unit == u else s) (· == page) survivesReset

/-! ## Steps 2 to 4 (R582) -/

/-- Replace a block reset. -/
def putBlock (s : State) (b c : BlockReset) : State :=
  { s with pwr := { s.pwr with blocks := s.pwr.blocks.map fun x => if x = b then c else x } }

/-- RST_BLOCK records the block reset (R590). -/
def noteBlock (s : State) (page unit : Nat) (late : Bool) : State :=
  let s := bump (setF (setF s 0 Reg.rstBlock_page page) 0 Reg.rstBlock_unit unit) 0 Reg.rstCntBlock
  let s := setF (setB (setB s 0 Reg.rstBlock_timeout late) 0 Reg.rstBlock_valid true) 0 Reg.rstBlock_exec (execTag s)
  if late then bump s 0 Reg.rstCntIdleTo else s

/-- STATUS of a page that the whole block's reset shows. -/
def showBlock (s : State) (page unit v : Nat) : State := if unit = 0 then setH s page Reg.status_state v else s

/-- The block is held in reset. -/
def holdBlock (s : State) (b : BlockReset) (late : Bool) : State :=
  let s := noteBlock s b.page b.unit late
  showBlock (putBlock (resetBlock s b.page b.unit) b { b with held := true, since := s.mer }) b.page b.unit 2

/-- The block reports idle, or IDLE_TO × 64 ticks have passed and RST_IDLE is raised (R582). -/
def blockIdle (s : State) (page unit : Nat) (idle : Bool) : State :=
  match s.pwr.blocks.find? fun b => b.page == page && b.unit == unit && !b.waits && !b.held with
  | none => s
  | some b =>
    if idle then holdBlock s b false
    else if b.since + getF s 0 Reg.rstCfg_idleTo * 64 ≤ s.mer then
      holdBlock (fault s 0x50 0x1400 page 0xFFFF 0 (s.mer - b.since)) b true
    else s

/-- 64 ticks in reset have passed: the clocked and the self-timed part are released (R582). A unit with a FAILED mark reads FAILED. -/
def blockRelease (s : State) (page unit : Nat) : State :=
  match s.pwr.blocks.find? fun b => b.page == page && b.unit == unit && b.held && !b.forever with
  | none => s
  | some b =>
    if b.since + 64 ≤ s.mer then
      let s := { s with pwr := { s.pwr with blocks := s.pwr.blocks.filter (· != b) } }
      let failed := [2, 3, 5].contains (pageKind page) && unitRole s page == 3
      showBlock s page unit (if failed then 3 else 0)
    else s

/-! ## The commands -/

/-- BLOCK_RESET in CTRL, or RST_REQ (R582). -/
def execBlockReset (page unit : Nat) (s : State) : Host.Outcome State Fault Refusal :=
  if pagePresent s page then whenServes s .core (.next (blockCmd s page unit)) else noPage s

/-- The block is idle, or has not become idle in time (R582). -/
def execBlockIdle (page unit : Nat) (idle : Bool) (s : State) : Host.Outcome State Fault Refusal :=
  if pagePresent s page then whenRuns s .core (.next (blockIdle s page unit idle)) else .fault .absentUnit

/-- The block is released (R582). -/
def execBlockResetRelease (page unit : Nat) (s : State) : Host.Outcome State Fault Refusal :=
  if pagePresent s page then whenRuns s .core (.next (blockRelease s page unit)) else .fault .absentUnit

end Sys2Proof.Machine
end

