-- ==== Sys2Proof/Machine/Faults.lean ====
section
/-! DEFINITION. The fault collector: the catalogue, classes and escalation, counting and lasting sources, the log, FAULTSTATE, and
what a lasting source or a FATAL kind does to the hardware (17 R550 to R568; 08 R273, R281, R285; 10 R380, R382). -/

namespace Sys2Proof.Machine

/-! ## The catalogue (R552) -/

/-- Native class of a kind: 0 CORRECTED, 1 CONTAINED, 2 FATAL; a FLASH message says whether a write failed. -/
def nativeClass (m : FaultMsg) : Nat :=
  if [0x15, 0x29, 0x49, 0x51].contains m.kind then 2
  else if [0x01, 0x10, 0x20, 0x21, 0x22, 0x30, 0x39, 0x40, 0x41, 0x48].contains m.kind then 0
  else if m.kind = 0x42 then (if m.failed then 1 else 0)
  else 1

/-- How many faults in a window make a source lasting: none for "Never", and for a lane whose recovery decides (R377, R379). An
over-current makes a phase lasting at once. -/
def lastingCount (s : State) (m : FaultMsg) : Option Nat :=
  let kind := m.kind
  if kind = 0x48 ∧ m.failed = true then some 1
  else if [0x01, 0x10, 0x20, 0x39, 0x48].contains kind then some (getF s 0 Reg.fltCfg_limit)
  else if [0x02, 0x0B, 0x28, 0x42].contains kind then some 2
  else if [0x03, 0x11, 0x12, 0x13, 0x14, 0x15, 0x23, 0x24, 0x29, 0x31, 0x38, 0x49, 0x51].contains kind then some 1
  else none

/-- Page kinds that send a kind. -/
def faultPages (kind : Nat) : List Nat :=
  match kind with
  | 0x01 | 0x02 => [2, 5, 3, 7, 6, 0xA]
  | 0x03 => [2, 5, 3, 7, 6]
  | 0x04 => [2, 3]
  | 0x05 => [2]
  | 0x06 | 0x07 => [5]
  | 0x08 => [6]
  | 0x09 => [7]
  | 0x0A => [0xB]
  | 0x0B => [0xC, 8, 0xE, 0x11]
  | 0x10 | 0x11 | 0x12 | 0x13 | 0x14 | 0x15 | 0x16 => [9]
  | 0x20 | 0x21 | 0x22 | 0x23 | 0x24 => [0xC]
  | 0x28 => [0xD]
  | 0x29 => [1]
  | 0x30 | 0x31 => [0x10]
  | 0x38 => [0xE]
  | 0x39 => [0xF]
  | 0x40 | 0x41 => [0x12]
  | 0x42 => [0x11]
  | 0x48 | 0x49 => [0x15]
  | 0x50 => [0x14]
  | 0x51 => [0x13]
  | _ => []

/-- A block sends only kinds that the catalogue lists for its page, and none while it is in reset (R552, R566). -/
def maySend (s : State) (m : FaultMsg) : Bool :=
  (faultPages m.kind).contains (pageKind m.page) && pagePresent s m.page && !pageHeld s m.page

/-! ## Sparing (R560) -/

/-- Active positions that failed and find no standby report a loss (R560 step 4). -/
def reportUnspared (s : State) : State :=
  s.eng.toSpare.foldl (fun s page =>
    let sisters := s.eng.toSpare.filter fun q => (sisterPages page).contains q
    let ready := ((sisterPages page).filter fun q => unitRole s q == 1).length
    if ready ≤ (sisters.idxOf page) && planRuns s then addLoss s ⟨nodeId s, 3, unitOfPage s page⟩ else s) s

/-- A record of the step runs on a unit that a predicate picks and its result has not been released: one that has not started yet too
(R560 step 2; 05 R194). -/
def holdsResultOf (s : State) (ours : Nat → Bool) : Bool :=
  let work := (stepWork s).flatMap fun w =>
    (match w.body with
     | .home _ => homeUnits s w.seq
     | _ => [recUnit s w]).map fun u => (u, w.seq)
  (work.any fun k => ours k.1 && !(s.eng.jobs.any fun j => j.unit == k.1 && j.seq == k.2 && j.released)) ||
    s.eng.jobs.any fun j => ours j.unit && !j.released

/-- The same for one unit. -/
def holdsResult (s : State) (u : Nat) : Bool := holdsResultOf s (· == u)

/-- A Mover (kind 4) or home agent (kind 3) of a memory die. -/
def singleUnit (kind die u : Nat) : Bool := u % 16 == kind && u / 16 % 16 == die

/-- A reduction engine, pool engine or barrier unit fails (R560). `void` is false for SLACK_LOW and for a standby. -/
def failUnit (s : State) (page : Nat) (void : Bool) : State :=
  let role := unitRole s page
  if role = 3 then s
  else
    let u := unitOfPage s page
    let s := noteNvWrite s (.role page role (unitLogical s page))
    let s := setH (setRole s page 3 (unitLogical s page)) page Reg.status_state 3
    if role = 0 then
      let s := if void && holdsResult s u then report s 4 else s
      let s := reportUnspared { s with eng := { s.eng with toSpare := s.eng.toSpare ++ [page] } }
      if stepsRun s then s else spareUnits s
    else reportUnspared (setRole s page 3 0xF)

/-- A Mover or a home agent fails: steps 1 and 4 of R560. -/
def failSingle (s : State) (kind die : Nat) (void : Bool) : State :=
  let s := if void && holdsResultOf s (singleUnit kind die) then report s 4 else s
  let s := noteNvWrite s (if kind = 4 then .mover die else .homes (getF s 0 Reg.txnStatus_hfail))
  let s := if kind = 4 then setH (setF s die Reg.movStatus_failed 1) (pageOf 7 die) Reg.status_state 3
    else setF s 0 Reg.txnStatus_hfail (getF s 0 Reg.txnStatus_hfail ||| 2 ^ die)
  if planRuns s then addLoss s ⟨nodeId s, 3, kind + 16 * die⟩ else s

/-- A lasting ENG_CHECK, LATE or SLACK_LOW of a page; units that never have a standby only report SLACK_LOW. -/
def failSource (s : State) (m : FaultMsg) : State :=
  let void := m.kind != 1
  match pageKind m.page with
  | 2 | 3 | 5 => failUnit s m.page void
  | 7 => if void then failSingle s 4 (m.page % 256) true else s
  | 6 => if void then failSingle s 3 (m.sub / 16 % 4) true else s
  | _ => s

/-! ## What stops a part of the device (R558) -/

/-- The six ports of a lane die are lost, each by R382; the reason that the fault carries is a free value. -/
def loseLaneDie (s : State) (die : Nat) : State :=
  (dieCodes s die).foldl (fun s c =>
    let f := drawNat s
    linkDown (losePort (laneFault f.2 0x24 die c f.1) c) c) s

/-- The host die is held in reset. -/
def holdHostDie (s : State) (die : Nat) : State :=
  let page := pageOf 0xE die
  let s := { s with pwr := { s.pwr with
    blocks := s.pwr.blocks.filter (fun b => b.page != page) ++ [⟨page, 0, false, true, s.mer, true⟩] } }
  setH (resetHostDie s die) page Reg.status_state 2

/-- The plan in the active bank is gone, and the device does not arm for rejoin. -/
def dropPlan (s : State) : State :=
  let s := clearStep s
  let s := { s with pln := { s.pln with
    active := none, follow := false, hold := none, holdNext := none, idleExec := false, starting := false, rejoin := false
    losses := [], reports := [], abort := false, heldBefore := false, fwStep := false } }
  setActive (setF (setF s 0 Reg.plnState_band 0) 0 Reg.plnState_alt 0) 0

/-- OUTCOME_LOST of a device that stops while a plan runs (R558, R559). -/
def stopPlan (s : State) : State :=
  if planRuns s then
    let s := fault s 0x29 0x0100 0 0xFFFF (stepBase s) 0
    let s := if stepsRun s && s.pln.hold.isNone then voidStep s else s
    dropPlan (signCert s 3 0)
  else s

/-- Every fabric transmitter falls to electrical idle. -/
def idleLinks (s : State) : State := (allPorts s).foldl (fun s c => setLink (linkDown s c) (Link.fresh c)) s

/-- The device stops: only SD0 and the control channel stay in service. -/
def deviceStops (s : State) : State :=
  if s.flt.stopped then s
  else
    let t := idleLinks (stopPlan s)
    { t with flt := { t.flt with stopped := true } }

/-! ## Reactions to a lasting source (R552, R558, R560, R561) -/

/-- A phase of a rail is shed; PWR_CNT_SHED counts it (19 R597). -/
def shedPhase (s : State) (rail phase : Nat) : State :=
  if s.pwr.shed.contains (rail, phase) then s
  else bump { s with pwr := { s.pwr with shed := s.pwr.shed ++ [(rail, phase)] } } 0 Reg.pwrCntShed

/-- A lane is replaced: the logical lane that it carries takes a spare, and an idle spare is marked FAILED (10 R380). -/
def replaceLane (s : State) (die lane : Nat) : State :=
  match carried s die lane with
  | some (code, l) => requestSpare s code l
  | none => if 48 ≤ lane ∧ lane < 50 then failSpare s die (lane - 48) else s

/-- What a lasting source starts. -/
def lastingReaction (s : State) (m : FaultMsg) : State :=
  let inst := m.page % 256
  match m.kind with
  | 0x01 | 0x02 | 0x03 => failSource s m
  | 0x0B =>
    match pageKind m.page with
    | 0xC => loseLaneDie s inst
    | 0xE => holdHostDie s inst
    | _ => deviceStops s
  | 0x11 => rowRepair s inst m.sub m.addr
  | 0x20 => replaceLane s inst m.sub
  | 0x38 => beginBlock s m.page 0
  | 0x42 => if s.fw.badFlash.contains m.sub then s else { s with fw := { s.fw with badFlash := s.fw.badFlash ++ [m.sub] } }
  | 0x48 => shedPhase s (m.sub % 16) (m.sub / 16)
  | 0x49 | 0x51 => deviceStops s
  | _ => s

/-- A lasting pin: LAST_PIN, and a vacate with pin repair (08 R281). -/
def pinLasting (s : State) (stack sub pin : Nat) : State :=
  let pc := sub / 2 ^ 20 % 32
  askVacate (setFI s pc stack 0 Reg.memPcDetail_lastPin pin) stack pc false

/-! ## Counting (R557, R624) -/

/-- The counting keys of a message, N still zero. -/
def countKeys (m : FaultMsg) : List CountEntry :=
  let key : CountEntry := ⟨m.page, m.sub, m.node, m.kind, 0, m.time, 0⟩
  if m.kind = 0x10 then
    key :: ((List.range 36).filter fun b => m.detail.testBit b).map fun b =>
      { key with sub := m.sub / 2 ^ 20 * 2 ^ 20, pin := b + 1 }
  else [key]

/-- Two entries count one key. -/
def sameKey (a b : CountEntry) : Bool :=
  a.page == b.page && a.sub == b.sub && a.node == b.node && a.kind == b.kind && a.pin == b.pin

/-- An entry after a fault. -/
def countUp (s : State) (e : CountEntry) (m : FaultMsg) : CountEntry :=
  if e.n = 0 ∨ e.start + 2 ^ getF s 0 Reg.fltCfg_windowExp ≤ m.time then { e with start := m.time, n := 1 + m.merged }
  else { e with n := e.n + 1 + m.merged }

/-- With 4096 entries in use the one with the oldest window start gives way. -/
def makeRoom (l : List CountEntry) : List CountEntry :=
  if l.length < 4096 then l
  else
    match (l.map (·.start)).min? with
    | some t => l.eraseP fun e => e.start == t
    | none => l

/-- A key counts a fault; true if the source is lasting now, and N is cleared then. Input from a node never makes a unit lasting. -/
def countKey (s : State) (key : CountEntry) (m : FaultMsg) : State × Bool :=
  let old := s.flt.counts.find? (sameKey key)
  let e := countUp s (old.getD key) m
  let lasting := decide (m.node = 0xFFFF) && (match lastingCount s m with
    | some n => decide (n ≤ e.n)
    | none => false)
  let e := if lasting then { e with n := 0 } else e
  let l := match old with
    | some _ => s.flt.counts.map fun x => if sameKey key x then e else x
    | none => makeRoom s.flt.counts ++ [e]
  ({ s with flt := { s.flt with counts := l } }, lasting)

/-- Count a message on each of its keys; the keys that are lasting now. -/
def countAll (s : State) (m : FaultMsg) : State × List CountEntry :=
  (countKeys m).foldl (fun a key =>
    let r := countKey a.1 key m
    (r.1, if r.2 then a.2 ++ [key] else a.2)) (s, [])

/-! ## The log (R550, R564, R565) -/

/-- Raised class of a record is CORRECTED, CONTAINED or FATAL and it is unacknowledged. -/
def unacked (s : State) (raised : Nat) : List FaultRec := s.flt.log.filter fun r => !r.acked && r.raised == raised

/-- A record is lost (R564). -/
def loseRecord (s : State) : State := setF (bump s 0 Reg.fltCntLost) 0 Reg.fltState_overflow 1

/-- FLT_LOG_FIRST (R567). -/
def showFirst (s : State) : State :=
  setF s 0 Reg.fltLogFirst_first ((s.flt.log.head?.map (·.seq)).getD (getF s 0 Reg.fltLogNext_next))

/-- A record joins the log under the next number. -/
def appendRecord (s : State) (r : FaultRec) (rest : List FaultRec) : State :=
  let n := getF s 0 Reg.fltLogNext_next
  showFirst (setF { s with flt := { s.flt with log := rest ++ [{ r with seq := n }] } } 0 Reg.fltLogNext_next (n + 1))

/-- Store a record in the log of 4096 (R564). -/
def storeRecord (s : State) (r : FaultRec) : State :=
  let l := s.flt.log
  if l.length < 4096 then appendRecord s r l
  else
    match l.find? (·.acked) with
    | some v => appendRecord s r (l.filter (·.seq != v.seq))
    | none =>
      if r.raised = 0 then loseRecord s
      else
        match l.find? (·.raised == 0) with
        | some v => loseRecord (appendRecord s r (l.filter (·.seq != v.seq)))
        | none => loseRecord s

/-- The 48 bytes of a record (R550). -/
def recordBytes (r : FaultRec) : List Byte :=
  let m := r.msg
  let cls := r.native + r.raised * 4 + (if r.escalated then 16 else 0) + (if r.lasting then 32 else 0) + (if r.acked then 64 else 0)
  leBytes 8 r.seq ++ leBytes 8 m.time ++ leBytes 2 m.page ++ leBytes 2 m.kind ++ leBytes 1 cls ++ leBytes 1 m.merged ++
    leBytes 2 m.node ++ leBytes 4 m.sub ++ leBytes 4 m.exec ++ leBytes 8 m.addr ++ leBytes 8 m.detail

/-! ## FAULTSTATE (R554, R555) -/

/-- Cause FATAL for the first step whose outcome barrier has not yet taken this device's OK bit (R554). -/
def reportFatal (s : State) : State :=
  if stepsRun s then report s 8
  else if s.pln.starting then { s with pln := { s.pln with nextReports := s.pln.nextReports ++ [⟨8, nodeId s, s.mer⟩] } }
  else s

/-- A FATAL record joins another that is unacknowledged. -/
def enterFaultState (s : State) : State :=
  let s := setF s 0 Reg.fltState_faultstate 1
  if getF s 0 Reg.plnState_staged = 0 then s
  else
    let s := emptyStaged { s with pln := { s.pln with loading := none } }
    if planRuns s then s else withdrawWaiting (recheckPorts s)

/-! ## Handling a message (R551, R553, R554) -/

/-- An unacknowledged record of the same source has the same native class (R553). -/
def escalates (s : State) (m : FaultMsg) : Bool :=
  decide (nativeClass m < 2) && s.flt.log.any fun r => !r.acked && sameSource r.msg m && r.native == nativeClass m

/-- The counter of a raised class. -/
def raisedCounter (raised : Nat) : Fld := if raised = 0 then Reg.fltCntCorr else if raised = 1 then Reg.fltCntCont else Reg.fltCntFatal

/-- Reactions for every key that has become lasting: MEM_CE counts rows and pins, every other kind its source. -/
def react (s : State) (m : FaultMsg) (keys : List CountEntry) : State :=
  keys.foldl (fun s k =>
    if m.kind = 0x10 then
      if k.pin = 0 then rowRepair s (m.page % 256) m.sub m.addr else pinLasting s (m.page % 256) m.sub (k.pin - 1)
    else lastingReaction s m) s

/-- The collector judges a message, counts it, stores its record and starts its reaction. -/
def judge (s : State) (m : FaultMsg) : State :=
  let native := nativeClass m
  let esc := escalates s m
  let raised := if esc then native + 1 else native
  let another := !(unacked s 2).isEmpty
  let s := bump (bump s 0 Reg.fltCntMsg) 0 (raisedCounter raised)
  let s := if esc then bump s 0 Reg.fltCntEsc else s
  let r := countAll s m
  let s := bump r.1 0 Reg.fltCntLasting r.2.length
  let acked := decide (raised = 0) && getF s 0 Reg.fltCfg_autoack == 1
  let s := storeRecord s ⟨0, m, native, raised, esc, !r.2.isEmpty, acked⟩
  let s := if raised = 2 then reportFatal s else s
  let s := if raised = 2 && another then enterFaultState s else s
  react s m r.2

/-- A message is handled before another: by TIME, then PAGE, then SUB (R551). -/
def msgBefore (a b : FaultMsg) : Bool :=
  if a.time ≠ b.time then decide (a.time < b.time)
  else if a.page ≠ b.page then decide (a.page < b.page)
  else decide (a.sub < b.sub)

/-- The message that the collector handles next. -/
def firstMsg : List FaultMsg → Option FaultMsg
  | [] => none
  | m :: l =>
    match firstMsg l with
    | some n => if msgBefore n m then some n else some m
    | none => some m

/-- The collector handles one waiting message. -/
def handleFault (s : State) : State :=
  match firstMsg s.flt.queue with
  | none => s
  | some m => judge { s with flt := { s.flt with queue := s.flt.queue.erase m } } m

/-- Messages that 64 ticks have passed are handled (R551). -/
def handleDue : Nat → State → State
  | 0, s => s
  | n + 1, s =>
    match firstMsg s.flt.queue with
    | some m => if m.time + 64 ≤ s.mer then handleDue n (handleFault s) else s
    | none => s

/-! ## A block detects a fault (R552) -/

/-- The cause that the detecting block reports. -/
def detectCause (s : State) (m : FaultMsg) : Option Nat :=
  if m.kind = 2 then some 1
  else if m.kind = 3 then
    match pageKind m.page with
    | 7 => if holdsResultOf s (singleUnit 4 (m.page % 256)) then some 4 else none
    | 6 => if holdsResultOf s (singleUnit 3 (m.sub / 16 % 4)) then some 4 else none
    | _ => if unitRole s m.page == 0 && holdsResult s (unitOfPage s m.page) then some 4 else none
  else if (4 ≤ m.kind ∧ m.kind ≤ 0xB) ∨ m.kind = 0x11 ∨ m.kind = 0x14 then some 4
  else if m.kind = 0x16 then some 5
  else if m.kind = 0x28 then some 6
  else none

/-- A burst of HBM with three or more damaged pin-symbols that the decoder does not correct (08 R271, R272). -/
def markUe (s : State) (a : Nat) : State :=
  if s.mem.ue.contains (burstOf a) then s else { s with mem := { s.mem with ue := s.mem.ue ++ [burstOf a] } }

/-- Pin-symbols that a mask of MEM_CE names: 0 to 31 data, 32 to 35 check pins (R273; 17 R552, R624). -/
def damagedPins (detail : Nat) : Nat := ((List.range 64).filter detail.testBit).length

/-- A corrected burst has one or two damaged symbols among its 36: the decoder corrects every such pattern and no other (R271). A burst
that lies within two symbols of another codeword is reported the same way (R272). -/
def ceFits (m : FaultMsg) : Bool := decide (1 ≤ damagedPins m.detail) && decide (damagedPins m.detail ≤ 2) && decide (m.detail < 2 ^ 36)

/-- A corrected burst may be a miscorrected one: three or more of its symbols are damaged, it lies within two symbols of another codeword, and
the fault names those (R272). Which it is, is a free choice, made once: the decoder is a fixed function, so that a burst whose symbols
have not changed since is handled the same way. Reads of a miscorrected one return the other codeword's data, free bytes that stay the same
until a write replaces the burst, and nothing else reports it (log 90). -/
def miscorrect (s : State) (a pins : Nat) : State :=
  if s.mem.judged.any fun x => x.1 == burstOf a && x.2.1 == pins then s
  else
    let d := drawBool s
    let s := { d.2 with mem := { d.2.mem with judged := (burstOf a, pins, d.1) :: d.2.mem.judged } }
    if d.1 && decide (a < capacity s) then makeUndef s (burstOf a) 32 none else s

/-- What the detecting block counts and logs itself. -/
def detectNote (s : State) (m : FaultMsg) : State :=
  let inst := m.page % 256
  if m.kind = 1 then bump (noteSlack s m.sub m.detail) 0 Reg.plnCntSlacklow
  else if m.kind = 2 then (if pageKind m.page = 0xA then lateCrossing (noteSlack s m.sub 0) m.sub else noteSlack s m.sub 0)
  else if m.kind = 0x10 then miscorrect (bump (bump s 0 Reg.memCntCe) inst Reg.memStkCntCe) m.addr m.detail
  else if m.kind = 0x11 then
    let s := bump (bump s 0 Reg.memCntUe) inst Reg.memStkCntUe
    if m.addr < capacity s then logUe (markUe s m.addr) m.addr false else s
  else s

/-- A BUF_OWNER message: of a host die either a frame pool took a buffer without the FREE marker, and abandons its list, or a bad release came;
which, and whether the buffer was already free, are free choices. A bad release is counted and logged, of the cell pool on the cell
page (14 R484, R490). -/
def bufOwner (s : State) (m : FaultMsg) : State :=
  let inst := m.page % 256
  if m.kind = 0x31 ∧ m.sub ≤ 3 ∧ (m.sub = 0 ↔ inst = 0) then
    let d := drawBool s
    if d.1 && inst != 0 then
      let die := inst - 1
      let p := framePoolOf d.2 die m.sub
      let s := setFramePool d.2 { p with broken := true }
      if getF s 0 Reg.fltCfg_autoreset = 1 then beginBlock s (pageOf 0xE die) 0 else s
    else
      let f := drawBool d.2
      let s := bump f.2 inst (if inst = 0 then Reg.cellBufCntBadrel else Reg.bufCntBadrel)
      noteBadRelease s inst m.sub (m.addr % 2 ^ 17) (m.detail % 128) f.1
  else s

/-- A block detects a fault in this tick and sends its message. MEM_CE names one or two pins (08 R271); whether the access of a die-link
error was a write, which MOV_BUSERR shows, is a free choice (07 R257). -/
def detect (s : State) (m : FaultMsg) : State :=
  if !maySend s m || (m.kind == 0x10 && !ceFits m) then s
  else if m.kind = 9 then
    let d := drawBool s
    movBusErr d.2 (m.page % 256) m.addr d.1
  else
    let s := match detectCause s m with
      | some c => report s c
      | none => s
    let s := bufOwner (detectNote s m) m
    enqueueFault s { m with
      time := s.mer, merged := 0, exec := execTag s, node := m.node % 2 ^ 16, sub := m.sub % 2 ^ 32, addr := m.addr % 2 ^ 64
      detail := m.detail % 2 ^ 64 }

/-- FAULT_MESSAGE: a message of the outside world is detected first; then the collector handles one that waits. -/
def faultMessage (s : State) (msg : Option FaultMsg) : State :=
  match msg with
  | some m => handleFault (if runs s .core || 0x1100 ≤ m.page then detect s m else s)
  | none => handleFault s

/-! ## Acknowledgement and commands (R555, R564, R565) -/

/-- Records with one acknowledged. -/
def ackSeq (s : State) (seq : Nat) : State :=
  { s with flt := { s.flt with log := s.flt.log.map fun r => if r.seq = seq then { r with acked := true } else r } }

/-- FLT_ACK acknowledges the oldest unacknowledged record of each chosen class of a block. -/
def ackPage (s : State) (page : Nat) (mask : BitVec 3) : State :=
  [0, 1, 2].foldl (fun s c =>
    if mask.getLsbD c then
      match s.flt.log.find? fun r => !r.acked && r.msg.page == page && r.raised == c with
      | some r => ackSeq s r.seq
      | none => s
    else s) s

/-- CLEAR of FLT_CMD ends FAULTSTATE; with a FATAL record unacknowledged it draws STATE. -/
def clearCmd (s : State) : State :=
  if (unacked s 2).isEmpty then setF { s with cmdStatus := 0 } 0 Reg.fltState_faultstate 0 else { s with cmdStatus := 8 }

/-- A write of FLT_SEL copies a record into FLT_REC0 to FLT_REC5; a SEQ that is not held copies zeros. -/
def selRecord (s : State) (seq : Nat) : State :=
  let s := setF { s with cmdStatus := 0 } 0 Reg.fltSel_seq seq
  let bs := match s.flt.log.find? (·.seq == seq) with
    | some r => recordBytes r
    | none => []
  (List.range 6).foldl (fun s n => setFI s 0 0 n Reg.fltRec_rec (natAt bs (8 * n) 8)) s

/-- A standby engine's self-check, 2^30 ticks after the one before it: one that fails raises ENG_CHECK and becomes FAILED without any VOID. The
first is due 2^30 ticks after a reset (DEDUCED, log 32). -/
def selfCheck (s : State) (page : Nat) (pass : Bool) : State :=
  if unitRole s page = 1 ∧ ((kvGet s.eng.checked page).getD 0) + 2 ^ 30 ≤ s.mer then
    let s := { s with eng := { s.eng with checked := kvPut s.eng.checked page s.mer } }
    if pass then s else fault s 3 page (unitOfPage s page) 0xFFFF 0 0
  else s

/-! ## The commands -/

/-- FAULT_MESSAGE (R553). -/
def execFaultMessage (msg : Option FaultMsg) (s : State) : Host.Outcome State Fault Refusal :=
  whenRuns s .service (.next (faultMessage s msg))

/-- The self-check of a standby (R560). -/
def execStandbySelfCheck (page : Nat) (pass : Bool) (s : State) : Host.Outcome State Fault Refusal :=
  if pagePresent s page && [2, 3, 5].contains (pageKind page) then whenRuns s .core (.next (selfCheck s page pass)) else .fault .absentUnit

/-- CLEAR (R555). -/
def execClear (s : State) : Host.Outcome State Fault Refusal :=
  whenServes s .service (.next (clearCmd s))

/-- A write of FLT_ACK of a page (R565). -/
def execFltAckWrite (page : Nat) (mask : BitVec 3) (s : State) : Host.Outcome State Fault Refusal :=
  whenServes s .service (.next (if pageListed s page then ackPage { s with cmdStatus := 0 } page mask else { s with cmdStatus := 2 }))

/-- A write of FLT_ACK_SEQ (R565). -/
def execFltAckSeqWrite (seq : Word) (s : State) : Host.Outcome State Fault Refusal :=
  whenServes s .service (.next (ackSeq { s with cmdStatus := 0 } seq.toNat))

/-- A write of FLT_SEL (R564). -/
def execFltSelWrite (seq : Word) (s : State) : Host.Outcome State Fault Refusal :=
  whenServes s .service (.next (selRecord s seq.toNat))

end Sys2Proof.Machine
end

