-- ==== Sys2Proof/Machine/Security.lean ====
section
/-! DEFINITION. Firmware images and slots, owner records, IMAGE uploads, attestation, and the commands of SEC_FW_CMD and SEC_FW_ACT
(16 R525 to R549; 20 R612, R613). -/

namespace Sys2Proof.Machine

/-! ## Flash (R537; 17 R561; 20 R616) -/

/-- SD0 no longer writes a flash device. -/
def flashBad (s : State) (dev : Nat) : Bool := s.fw.badFlash.contains dev

/-- A flash device is written: the sectors that this erases are a free number. -/
def flashWrite (s : State) (dev : Nat) : State :=
  if flashBad s dev then s
  else
    let f := drawNat s
    bumpLife (noteNv f.2) (6 + dev) f.1

/-- Both copies of a record are written (R528). -/
def flashBoth (s : State) : State := flashWrite (flashWrite s 0) 1

/-! ## Firmware images (R535, R536) -/


/-- The first trailer block, Utenal's, and the second, the owner's. -/
def fwTrailer (img : List Byte) (second : Bool) : List Byte := slice img (img.length - (if second then 128 else 256)) 128

/-- FW_DIGEST of an image (R535). -/
def fwDigestOf (img : List Byte) : Digest := sha384 (img.take (img.length - 256))

/-- SVN of an image. -/
def fwSvn (img : List Byte) : Nat := natAt img 0x10 4

/-- Format and limits of an image. -/
def fwFormat (img : List Byte) : Bool :=
  decide (320 ≤ img.length) && decide (img.length ≤ 64 * 1048576) && natAt img 0 4 == 0x57465455 && natAt img 4 2 == 1 &&
    natAt img 6 2 == 0x40 && natAt img 8 8 == img.length && decide (1 ≤ fwSvn img) && zeros img 0x17 1 && zeros img 0x28 24 &&
    zeros (fwTrailer img false) 112 16 && zeros (fwTrailer img true) 112 16

/-- Grade and stepping of the device lie within the image's. -/
def fwFits (s : State) (img : List Byte) : Bool :=
  (natAt img 0x14 1).testBit (s.mfg.grade - 1) && decide (natAt img 0x15 1 ≤ s.mfg.stepping) && decide (s.mfg.stepping ≤ natAt img 0x16 1)

/-- A trailer block verifies with a key that its KEY_ID names among some public keys. -/
def signedBy (keys : List (List Byte)) (digest : Digest) (t : List Byte) : Bool :=
  match keys.find? fun k => keyIdOf k == BitVec.ofNat 128 (natAt t 0 16) with
  | some k => trailerOk k digest t
  | none => false

/-- Public keys of a role in the owner record. -/
def roleKeys (s : State) (role : Nat) : List (List Byte) :=
  match s.owner with
  | some o => (o.keys.filter (·.role == role)).map (·.pub)
  | none => []

/-- The owner record asks for co-signed firmware. -/
def needsCosign (s : State) : Bool :=
  match s.owner with
  | some o => o.cosign
  | none => false

/-- The checks of R536 in their order: 0, or the REASON of R539. -/
def fwCheck (s : State) (img : List Byte) : Nat :=
  if !fwFormat img then 1
  else if !fwFits s img then 5
  else if !signedBy [Config.fwKey 0, Config.fwKey 1] (fwDigestOf img) (fwTrailer img false) then 3
  else if needsCosign s && !signedBy (roleKeys s 3) (fwDigestOf img) (fwTrailer img true) then 3
  else if fwSvn img < getF s 0 Reg.secSvn_svn then 4
  else 0

/-- SEC_FW_STATE of a slot: 0 EMPTY, 1 VALID, 2 INVALID, 3 RECEIVING. -/
def slotState (s : State) (slot : Nat) : Nat := getF s 0 (if slot = 0 then Reg.secFwState_slotA else Reg.secFwState_slotB)

/-- Set it. -/
def setSlot (s : State) (slot st : Nat) (image : Option FwSlot) : State :=
  let s := setF s 0 (if slot = 0 then Reg.secFwState_slotA else Reg.secFwState_slotB) st
  if slot = 0 then { s with fw := { s.fw with slotA := image } } else { s with fw := { s.fw with slotB := image } }

/-- The image of a slot passes R536 as the boot ROM applies it. The image that Utenal ships, whose bytes no rule gives, passes unless
the owner asks for a co-signature, which no shipped image carries. A slot on a failed flash device is unavailable (17 R561). -/
def slotBoots (s : State) (slot : Nat) : Bool :=
  match fwSlot s slot with
  | some f =>
    slotState s slot == 1 && !flashBad s slot &&
      (if f.image.isEmpty then !needsCosign s && decide (getF s 0 Reg.secSvn_svn ≤ f.svn) else fwCheck s f.image == 0)
  | none => false

/-- Nothing runs in Dusk. -/
def inDusk (s : State) : Bool := s.pwr.phase == .dusk

/-- The slot that an upload writes: the one that is not running, in Dusk the one that ACTIVE does not name (R539; 18 R580). -/
def uploadSlot (s : State) : Nat := if inDusk s then 1 - getF s 0 Reg.secFwState_active else otherSlot s

/-! ## Owner records (R530 to R533) -/

/-- A key entry of 128 bytes. -/
def keyEntry (l : List Byte) : KeyEntry := ⟨natAt l 0 1, BitVec.ofNat 8 (natAt l 1 1), slice l 16 97⟩

/-- The key entries of a record. -/
def ownerKeys (l : List Byte) : List KeyEntry := (recsOf 128 (natAt l 0xE 1) (l.drop 96)).map keyEntry

/-- The owner record in its bytes. -/
def ownerOf (l : List Byte) : Owner :=
  ⟨natAt l 8 4, natAt l 0xC 2, (natAt l 6 2).testBit 0, natAt l 0x10 8, ownerKeys l, l⟩

/-- RELEASE of a record. -/
def ownerRelease (l : List Byte) : Bool := (natAt l 6 2).testBit 1

/-- A key entry meets R530: an uncompressed point of P-384, PRIV only for OPERATOR, reserved bytes zero. -/
def keyEntryOk (l : List Byte) : Bool :=
  let k := keyEntry l
  decide (1 ≤ k.role) && decide (k.role ≤ 5) && (if k.role = 4 then decide (k.priv.toNat < 32) else decide (k.priv = 0)) &&
    zeros l 2 14 && zeros l 113 15 && natAt l 16 1 == 4 && onCurve (beNat (slice l 17 48)) (beNat (slice l 65 48))

/-- How many entries of a role. -/
def roleCount (keys : List KeyEntry) (role : Nat) : Nat := (keys.filter (·.role == role)).length

/-- The key lists of R530 and R533. -/
def ownerKeysOk (l : List Byte) : Bool :=
  let keys := ownerKeys l
  ((recsOf 128 (natAt l 0xE 1) (l.drop 96)).all keyEntryOk) && (keys.head?.map (·.role)) == some 1 && roleCount keys 1 == 1 &&
    decide ((keys.map (·.pub)).Nodup) &&
    (if ownerRelease l then keys.length == 1
     else
      decide (3 ≤ keys.length) && decide (keys.length ≤ 23) && decide (1 ≤ roleCount keys 2) && decide (roleCount keys 2 ≤ 4) &&
        decide (roleCount keys 3 ≤ 2) && ((ownerOf l).cosign → decide (1 ≤ roleCount keys 3)) && decide (1 ≤ roleCount keys 4) &&
        decide (roleCount keys 4 ≤ 8) && decide (roleCount keys 5 ≤ 8))

/-- Every check of R530 that needs no key. -/
def ownerFormat (l : List Byte) : Bool :=
  let n := natAt l 0xE 1
  decide (352 ≤ l.length) && decide (l.length = 96 + 128 * n + 128) && natAt l 0 4 == 0x524F5455 && natAt l 4 2 == 1 &&
    decide (natAt l 6 2 < 4) && decide (1 ≤ natAt l 8 4) && decide (1 ≤ natAt l 0xC 2) && decide (natAt l 0xC 2 ≤ 0xEFFF) &&
    zeros l 0xF 1 && zeros l 0x58 8 && zeros l (l.length - 16) 16 && ownerKeysOk l

/-- Public key that must sign a record: its own entry 0 on a first enrolment, the owner root key in force otherwise (R531). -/
def ownerSigner (s : State) (l : List Byte) : List (List Byte) :=
  match s.owner with
  | some o => (o.keys.head?.map (·.pub)).toList
  | none => ((ownerKeys l).head?.map (·.pub)).toList

/-- The checks of R530, R531 and R532, in that order: 0, or the REASON of R539. -/
def ownerCheck (s : State) (l : List Byte) : Nat :=
  let owned := s.owner.isSome
  if !ownerFormat l then 1
  else if digestAt l 0x18 ≠ s.mfg.identity then 5
  else if (if owned then !zeros l 0x48 16 else decide (sha384 (slice l 0x48 16) ≠ s.mfg.transferDigest)) then 5
  else if !signedBy (ownerSigner s l) (sha384 (l.take (l.length - 128))) (l.drop (l.length - 128)) then 3
  else if natAt l 8 4 ≤ getF s 0 Reg.secState_epoch then 4
  else if planRuns s then 2
  else 0

/-- The OPERATOR entry of an anchor in the record in force. -/
def operatorOf (s : State) (anchor : Option (BitVec 128)) : Option KeyEntry :=
  match anchor with
  | some a => enrolledKey s 4 a
  | none => none

/-- Sessions whose anchor the record no longer lists close, and the others take its PRIV bits (R532, R543). -/
def recheckSessions (s : State) : State :=
  let keep := s.ctl.sessions.filterMap fun x => (operatorOf s x.anchor).map fun k => { x with priv := k.priv }
  let s := { s with ctl := { s.ctl with sessions := keep } }
  dropRequests s fun id => !keep.any (·.id == id)

/-- An accepted record is in force: the epoch counter, SEC_STATE, DEVREC_DIGEST and the staged bank (R532, R533, R548). Sessions
close once the response is sent. -/
def ownerAccept (s : State) (l : List Byte) : State :=
  let release := ownerRelease l
  let s := noteNvWrite s (.owner s.owner (getF s 0 Reg.secState_epoch))
  let s := flashBoth { s with owner := if release then none else some (ownerOf l) }
  let s := if release then s else setF s 0 Reg.secState_epoch (natAt l 8 4)
  let s := setB (setB s 0 Reg.secState_owned (!release)) 0 Reg.secState_cosign (needsCosign s)
  match s.pln.staged with
  | some p => if (enrolledKey s 2 p.keyId).isSome then s else emptyStaged s
  | none => s

/-! ## IMAGE (R539) -/

/-- Status of a REASON. -/
def reasonStatus (reason : Nat) : Nat :=
  match reason with
  | 0 => 0
  | 1 => 1
  | 2 => 8
  | 4 => 7
  | _ => 5

/-- An object has been received whole: a firmware image is VALID or INVALID, an owner record is accepted or refused. -/
def uploadDone (s : State) (u : Upload) : State × Nat :=
  let s := { s with fw := { s.fw with upload := none } }
  if u.obj = 1 then
    let slot := uploadSlot s
    let r := fwCheck s u.data
    if r = 0 then (setSlot s slot 1 (some ⟨u.data, fwDigestOf u.data, fwSvn u.data⟩), 0)
    else (bump (setSlot s slot 2 none) 0 Reg.secCntImageBad, r)
  else
    let r := ownerCheck s u.data
    if r = 0 then (ownerAccept s u.data, 0) else if r = 2 then (s, 2) else (bump s 0 Reg.secCntImageBad, r)

/-- Longest object: 64 MiB, or a record of 23 keys. -/
def objectMax (obj : Nat) : Nat := if obj = 1 then 64 * 1048576 else 96 + 23 * 128 + 128

/-- The flash device that an object of this kind needs is no longer written (17 R561). -/
def uploadRefused (s : State) (obj : Nat) : Bool :=
  if obj = 2 then flashBad s 0 else flashBad s (uploadSlot s)

/-- A chunk of an upload: the REASON of R539. -/
def imageChunk (s : State) (session obj chunk total : Nat) (data : List Byte) : State × Nat :=
  if uploadRefused s obj then (s, 2)
  else if chunk = 0 then
    if s.fw.upload.isSome then (s, 2)
    else if total = 0 ∨ objectMax obj < total ∨ total < data.length then (s, 1)
    else
      let s := if obj = 1 then setSlot (flashWrite s (uploadSlot s)) (uploadSlot s) 3 none else s
      let u : Upload := ⟨session, obj, total, 1, data⟩
      if data.length = total then uploadDone s u else ({ s with fw := { s.fw with upload := some u } }, 0)
  else
    match s.fw.upload with
    | none => (s, 2)
    | some u =>
      if u.session ≠ session ∨ u.obj ≠ obj ∨ u.next ≠ chunk then (s, 2)
      else if total ≠ 0 ∨ u.total < u.data.length + data.length then (s, 1)
      else
        let u := { u with next := chunk + 1, data := u.data ++ data }
        if u.data.length = u.total then uploadDone s u else ({ s with fw := { s.fw with upload := some u } }, 0)

/-- An upload is abandoned: a firmware slot becomes INVALID (R539, R547). -/
def dropUpload (s : State) : State :=
  match s.fw.upload with
  | some u =>
    let t := { s with fw := { s.fw with upload := none } }
    if u.obj = 1 then setSlot t (uploadSlot t) 2 none else t
  | none => s

/-- A session closes: its upload is abandoned (R539). -/
def closeSession (s : State) (id : Nat) : State :=
  let s := { s with ctl := { s.ctl with sessions := s.ctl.sessions.filter (·.id != id) } }
  let s := dropRequests s fun n => n == id
  match s.fw.upload with
  | some u => if u.session = id then dropUpload s else s
  | none => s

/-! ## Attestation (R541, R542) -/

/-- Bytes 0x000 to 0x19F of the report. -/
def reportBody (s : State) (nonce : BitVec 128) : List Byte :=
  let p := if planRuns s then s.pln.active else none
  leBytes 4 0x52415455 ++ leBytes 2 1 ++ leBytes 1 (if inDusk s then 1 else 0) ++ leBytes 1 (if s.owner.isSome then 1 else 0) ++
    leBytes 2 (nodeId s) ++ leBytes 1 s.mfg.grade ++ leBytes 1 s.mfg.stepping ++ leBytes 4 (getF s 0 Reg.secSvn_svn) ++
    leBytes 4 (getF s 0 Reg.secState_epoch) ++ leBytes 1 (getF s 0 Reg.plnState_active) ++ leBytes 3 0 ++ leBytes 8 (capacity s) ++
    leBytes 8 s.mer ++ leBytes 16 nonce.toNat ++ digestBytes (runningFw s) ++ digestBytes (devrecOf s) ++
    digestBytes ((p.map (·.planDigest)).getD 0) ++ digestBytes ((p.map planRepro).getD 0) ++ digestBytes (timingDigest s) ++
    digestBytes ((s.pln.staged.map (·.planDigest)).getD 0) ++ digestBytes s.mfg.identity ++ leBytes 24 0

/-- The report of 512 bytes, signed with AK (R526, R541). -/
def attestReport (s : State) (nonce : BitVec 128) : List Byte × State :=
  let body := reportBody s nonce
  let a := akSign s body
  (body ++ a.1, bump a.2 0 Reg.secCntAttest)

/-- A part of the attestation chain; none beyond its end. -/
def attestPart (s : State) (part : Nat) : Option (List Byte) :=
  let chain := chainBytes s
  if chain.length ≤ 1024 * part then none else some (slice chain (1024 * part) 1024)

/-! ## SEC_FW_CMD and SEC_FW_ACT (R538, R547; 20 R612, R613) -/

/-- ADVANCE (R538); refused while the replay-protected region cannot be written (17 R561). -/
def advanceCmd (s : State) : State :=
  if flashBad s 0 then { s with cmdStatus := 8 }
  else
    let s := noteNvWrite { s with cmdStatus := 0 } (.svn (getF s 0 Reg.secSvn_svn))
    setF s 0 Reg.secSvn_svn (max (getF s 0 Reg.secSvn_svn) (getF s 0 Reg.secSvn_runSvn))

/-- SELECT (R547). -/
def selectCmd (s : State) (slot : Nat) : State :=
  if slotState s slot = 1 then setF (noteNv { s with cmdStatus := 0 }) 0 Reg.secFwState_active slot else { s with cmdStatus := 8 }

/-- ERASE (R547): the running slot is refused; an upload into the slot is abandoned. -/
def eraseCmd (s : State) (slot : Nat) : State :=
  if (!inDusk s && slot == getF s 0 Reg.secState_bootSlot) || flashBad s slot then { s with cmdStatus := 8 }
  else
    let mine := (s.fw.upload.any fun u => u.obj == 1) && slot == uploadSlot s
    let s := if mine then { s with fw := { s.fw with upload := none } } else s
    setSlot (flashWrite { s with cmdStatus := 0 } slot) slot 0 none

/-- A write that sets PENDING (20 R612). -/
def pendingCmd (s : State) : State :=
  let staged := getF s 0 Reg.plnState_staged
  if slotState s (otherSlot s) ≠ 1 ∨ staged = 1 ∨ staged = 2 then { s with cmdStatus := 8 }
  else notePending (setF { s with cmdStatus := 0 } 0 Reg.secFwAct_pending 1)

/-! ## The commands -/

/-- ADVANCE (R538). -/
def execAdvance (s : State) : Host.Outcome State Fault Refusal :=
  whenServes s .service (.next (advanceCmd s))

/-- SELECT (R547). -/
def execSelect (slot : Nat) (s : State) : Host.Outcome State Fault Refusal :=
  if slot < 2 then whenServes s .service (.next (selectCmd s slot)) else .fault .absentUnit

/-- ERASE (R547). -/
def execErase (slot : Nat) (s : State) : Host.Outcome State Fault Refusal :=
  if slot < 2 then whenServes s .service (.next (eraseCmd s slot)) else .fault .absentUnit

/-- PENDING (20 R612). -/
def execPending (s : State) : Host.Outcome State Fault Refusal :=
  whenServes s .service (.next (pendingCmd s))

end Sys2Proof.Machine
end

