-- ==== Sys2Proof/Machine/Power.lean ====
section
/-! DEFINITION. Resets and starts, retention, Dusk, the power states, the module power controller with its rails, inputs and SMBus, the
lifetime counters, and a firmware handover's end (18 R569 to R592; 19 R593 to R611; 20 R614 to R616; 12 R437; 06 R228). -/

namespace Sys2Proof.Machine

/-! ## Lifetime counters (20 R616) -/

/-- A lifetime counter. -/
def lifeOf (s : State) (i : Nat) : Nat := getFI s i 0 0 Reg.pwrLife_value

/-- SD1 writes the lifetime counters to NV. -/
def saveLife (s : State) : State :=
  { s with pwr := { s.pwr with saved := (List.range 12).map fun i => (i, lifeOf s i), savedAt := s.pwr.ref } }

/-- What was not written is lost with the power. -/
def restoreLife (s : State) : State :=
  (List.range 12).foldl (fun s i => setFI s i 0 0 Reg.pwrLife_value ((kvGet s.pwr.saved i).getD 0)) s

/-- One tick of a part of a second of 640,000,000 ticks: the new part, and whether a second is full. -/
def tickPart (on : Bool) (n : Nat) : Nat × Nat := if on then (if n + 1 = 640000000 then (0, 1) else (n + 1, 0)) else (n, 0)

/-- Some stack stands in a band or above. -/
def anyBand (s : State) (band : Nat) : Bool := (fittedStacks s).any fun k => decide (band ≤ getF s k Reg.memStkStatus_band)

/-- The time that RUN_TIME, WARM_TIME and HOT_TIME count in a tick. -/
def countTime (s : State) : State :=
  let on := s.pwr.phase != .off
  let a := tickPart on s.pwr.parts.1
  let b := tickPart (on && anyBand s 1) s.pwr.parts.2.1
  let c := tickPart (on && anyBand s 2) s.pwr.parts.2.2
  let s := { s with pwr := { s.pwr with parts := (a.1, b.1, c.1) } }
  let up := fun (i n : Nat) (s : State) => if n = 0 then s else bumpLife s i n
  up 4 c.2 (up 3 b.2 (up 0 a.2 s))

/-- The Meridian counter, or SD0's own tick count in Dusk, runs (R579, R588). -/
def merRuns (s : State) : Bool := s.pwr.phase == .service || s.pwr.phase == .dusk

/-- One tick passes: its burst positions serve the accesses that wait, host staging whose positions have passed is in HBM, and what cells on
their way bring about as they reach their consumers takes place. -/
def tick (s : State) : State :=
  let s := judgeWrites (if runs s .memory then serveTick s else s)
  let s := countTime s
  let s := { s with mer := if merRuns s then (s.mer + 1) % 2 ^ 64 else s.mer, pwr := { s.pwr with ref := s.pwr.ref + 1 } }
  let s := landControl (landHost s s.mer) s.mer
  let s := landHome (landDue (startDigest (startDigest s 0) 1))
  if runs s .service then handleDue s.flt.queue.length s else s

/-- LIFETIME_SAVE every 2^36 ticks. -/
def lifetimeSave (s : State) : State :=
  if s.pwr.phase == .service && decide (s.pwr.savedAt + 2 ^ 36 ≤ s.pwr.ref) then saveLife s else s

/-! ## Failed starts (R578) -/

/-- The failed-start count. -/
def failCount (s : State) : Nat := getF s 0 Reg.rstStatus_failed

/-- A reason enters the log, the newest in RST_START_LOG0. -/
def logReason (s : State) (reason detail : Nat) : State :=
  let s := setReg s 0 0x1400 0x120 (getReg s 0 0x1400 0x118)
  let s := setReg s 0 0x1400 0x118 (getReg s 0 0x1400 0x110)
  let elapsed := min ((s.pwr.ref - s.pwr.began) / 1024) (2 ^ 31 - 1)
  let s := setReg s 0 0x1400 0x110 (BitVec.ofNat 64 (reason % 256 + detail % 256 * 2 ^ 8 + 2 ^ 16 + elapsed * 2 ^ 17))
  noteNv (setF s 0 Reg.rstStatus_reason reason)

/-- A start has failed; it waits for a reset. -/
def failStartup (s : State) (reason detail : Nat) : State :=
  let s := logReason (bump s 0 Reg.rstCntFailstart) reason detail
  { s with pwr := { s.pwr with phase := .failed } }

/-! ## Retention (R577) -/

/-- RETAIN. -/
def retainMode (s : State) : Nat := getF s 0 Reg.rstCfg_retain

/-- A byte lies in a list of ranges. -/
def inRanges (l : List (Nat × Nat)) (a : Nat) : Bool := l.any fun r => decide (r.1 ≤ a) && decide (a < r.1 + r.2)

/-- The part of an undefined set that lies in a range. -/
def Undef.within (u : Undef) (r : Nat × Nat) : Option Undef :=
  let lo := max u.base r.1
  let hi := min (u.base + u.len) (r.1 + r.2)
  if lo < hi then some { u with base := lo, len := hi - lo } else none

/-- Every byte outside some ranges is scrubbed to zero. -/
def scrubOutside (s : State) (l : List (Nat × Nat)) : State :=
  { s with mem := { s.mem with
    hbm := s.mem.hbm.filter fun c => inRanges l c.1
    undef := s.mem.undef.flatMap fun u => l.filterMap u.within
    ue := s.mem.ue.filter (inRanges l) } }

/-- What a pin reset leaves of HBM. -/
def applyRetain (s : State) : State :=
  match retainMode s with
  | 1 => s
  | 2 => scrubOutside s s.mem.retained
  | _ => scrubOutside s []

/-- A word still in a commit stage holds its old or its committed value, chosen for each word (06 R228). -/
def cutStage (s : State) : State :=
  s.eng.stage.foldl (fun s kw =>
    let d := drawBool s
    if d.1 then drainWord d.2 kw
    else
      let t := d.2
      { t with eng := { t.eng with stage := kvDel t.eng.stage kw.1 } }) s

/-! ## A reset (R570, R588) -/

/-- The collector handles every message that waits. -/
def flushFaults : Nat → State → State
  | 0, s => s
  | n + 1, s => flushFaults n (handleFault s)

/-- STATUS of the units that carry a FAILED mark shows FAILED. -/
def showFailed (s : State) : State :=
  ((List.range 12).map (pageOf 2) ++ (List.range 5).map (pageOf 3) ++ (List.range 12).map (pageOf 5)).foldl (fun s p =>
    if unitRole s p = 3 then setH s p Reg.status_state 3 else s)
    ((List.range 4).foldl (fun s d => if getF s d Reg.movStatus_failed = 1 then setH s (pageOf 7 d) Reg.status_state 3 else s) s)

/-- What no reset keeps: plans, records, queues, links, sessions and host state. -/
def dropVolatile (s : State) : State :=
  { s with
    pln := .reset, eng := .reset, fab := .reset, lanes := .reset, sync := .reset, ctl := .reset, host := .reset
    ct := { s.ct with signReq := false, stageAux := [] }
    flt := { s.flt with queue := [], counts := [], stopped := false }
    mem := { s.mem with waiting := [], retireWait := [], refresh := [], refreshAt := none }
    pwr := { s.pwr with blocks := [], waitCmd := none, changeAt := none } }

/-- What a reset does to the device in its phases of service and Dusk, its registers included. -/
def clearDevice (s : State) : State :=
  let s := flushFaults s.flt.queue.length s
  let s := spareUnits s
  let s := if stepsRun s && s.pln.hold.isNone then voidStep s else s
  let s := [0, 1, 2, 3].foldl (fun s d => dropMovJobs s d fun _ => true) s
  let s := applyRetain (dropUpload (cutStage s))
  let s := withdrawWaiting { s with pln := { s.pln with active := none, staged := none } }
  showFailed (resetRegs (dropVolatile s) (fun _ => true) survivesReset)

/-- The flash interface finishes a pulse that is in progress; a write takes at most 384,000 ticks (R572). -/
def catchPulse (s : State) : State :=
  match s.pwr.flashAt with
  | some t =>
    if s.mer < t + 384000 then
      let d := drawBool s
      let t := d.2
      { t with pwr := { t.pwr with pulse := d.1 } }
    else s
  | none => s

/-- A write of NV is undone: the reset found it untouched. -/
def undoWrite (s : State) (was : NvWas) : State :=
  match was with
  | .owner o epoch =>
    let s := setF { s with owner := o } 0 Reg.secState_epoch epoch
    setB (setB s 0 Reg.secState_owned o.isSome) 0 Reg.secState_cosign (needsCosign s)
  | .svn v => setF s 0 Reg.secSvn_svn v
  | .role page role logical => setRole s page role logical
  | .mover die => setF s die Reg.movStatus_failed 0
  | .homes mask => setF s 0 Reg.txnStatus_hfail mask

/-- Each write of NV that a reset finds in progress is whole or untouched: a free choice, the last write first (R572; 16 R532, R547). -/
def cutWrites (s : State) : State :=
  let l := s.fw.writes.filter fun x => decide (s.mer < x.1 + 384000)
  l.foldl (fun s x =>
    let d := drawBool s
    if d.1 then d.2 else undoWrite d.2 x.2) { s with fw := { s.fw with writes := [] } }

/-- A reset arrives: every domain but the refresh keepers and a flash pulse enters reset. A start that it cuts short has failed, and a scrub
that it cuts short is owed again (R578, R589). -/
def enterReset (s : State) (cause : Nat) : State :=
  let kept := s.pwr.phase != .dusk && decide (retainMode s ≠ 0)
  let s := if s.pwr.phase = .starting then failStartup s 8 0 else s
  let s := clearDevice (cutWrites (catchPulse s))
  let s := setF (setB s 0 Reg.rstStatus_retained kept) 0 Reg.rstStatus_hold 0
  let scrub := s.pwr.scrub || decide (retainMode s ≠ 1)
  { s with pwr := { s.pwr with phase := .held, cause := cause, freed := none, scrub := scrub } }

/-! ## A start (R575, R576, R578, R579) -/

/-- Everything in the stacks is lost (R579, R588). -/
def loseStacks (s : State) : State :=
  let s := forgetAll s
  { s with mem := { s.mem with ue := [], dead := [], relocs := [], redirects := [], rowWait := [] } }

/-- Dusk: SD0 alone runs, and no firmware. SD0 keeps its own tick count, whose first value no rule gives: a free value (R579; log 63). -/
def enterDusk (s : State) : State :=
  let s := setDigest (setF (setF s 0 Reg.rstStatus_dusk 1) 0 Reg.secSvn_runSvn 0) 0 Reg.secFwdig_digest 0
  let s := loseStacks (bump s 0 Reg.rstCntDusk)
  let d := drawNat s
  { d.2 with mer := d.1 % 2 ^ 64, pwr := { d.2.pwr with phase := .dusk, scrub := false } }

/-- SD0 is released, and the boot ROM raises the failed-start count, or enters Dusk. -/
def startDevice (s : State) : State :=
  let s := setF (setF s 0 Reg.rstStatus_cause s.pwr.cause) 0 Reg.rstStatus_dusk 0
  let s := { s with pwr := { s.pwr with phase := .starting, began := s.pwr.ref, freed := none } }
  if failCount s = 3 then enterDusk s
  else if flashBad s 0 && flashBad s 1 then enterDusk (failStartup s 7 0)
  else noteNv (setF s 0 Reg.rstStatus_failed (failCount s + 1))

/-- The start begins once the pin is free, FREF is present and the flash interface rests (R570, R572, 19 R606). -/
def tryStart (s : State) : State :=
  if s.pwr.phase == .held && !s.pwr.pin && !s.pwr.frefAbsent && !s.pwr.pulse then startDevice s else s

/-- A slot boots: what the boot ROM shows of it (16 R537, R548). -/
def bootSlot (s : State) (slot : Nat) (fallback : Bool) : State :=
  match fwSlot s slot with
  | none => s
  | some f =>
    let s := setB (setF s 0 Reg.secState_bootSlot slot) 0 Reg.secState_fallback fallback
    let s := if fallback then bump s 0 Reg.secCntFallback else s
    setDigest (setF (setF s 0 Reg.secSvn_runSvn f.svn) 0 Reg.secFwAct_done 0) 0 Reg.secFwdig_digest f.digest

/-- An INTERRUPTED certificate closes the chains that a reset found open (12 R437). -/
def closeChains (s : State) : State := if s.ct.run.isSome then signCert s 4 0 else s

/-- The pages of each kind of engine on each memory die, and of the barrier units, with the DUMAP bit of the first of them and how
many of them are active (01 R25 to R27; 16 R527). -/
def unitGroups : List (List Nat × Nat × Nat) :=
  ((List.range 4).map fun d => (unitPages 1 d, 3 * d, 2)) ++ ((List.range 4).map fun d => (unitPages 2 d, 12 + 3 * d, 2)) ++
    [(unitPages 5 15, 24, 4)]

/-- The units of a group take ROLE and LOGICAL from the device record, once: a disabled unit is DISABLED, and the others that carry no
FAILED mark are active in rising physical order (01 R27, log 33). -/
def assignGroup (s : State) (g : List Nat × Nat × Nat) : State :=
  let dis := (g.1.zipIdx.filter fun x => s.mfg.dumap.getLsbD (g.2.1 + x.2)).map (·.1)
  if dis.all fun p => unitRole s p == 2 then s
  else
    let good := g.1.filter fun p => !dis.contains p && unitRole s p != 3
    let s := dis.foldl (fun s p => setRole s p 2 0xF) s
    good.zipIdx.foldl (fun s x => if x.2 < g.2.2 then setRole s x.1 0 x.2 else setRole s x.1 1 0xF) s

/-- ROLE and LOGICAL as the device record and the sparing state give them (04, 05: after a reset). -/
def assignUnits (s : State) : State := unitGroups.foldl assignGroup s

/-- The start has succeeded: the count is cleared and READY rises. Meridian has run since SD1's release. -/
def startSucceeds (s : State) : State :=
  let s := setF (assignUnits s) 0 Reg.rstStatus_failed 0
  let d := drawNat s
  let now := d.1 % (s.pwr.ref - s.pwr.began + 1)
  let s := d.2
  let s := { s with mer := now, pwr := { s.pwr with phase := .service, flashAt := some now } }
  closeChains { s with sync := { s.sync with heardAt := now }, pln := { s.pln with refreshBase := now } }

/-- A block is held in reset until a device reset and shows FAILED. -/
def holdFailed (s : State) (page : Nat) : State :=
  setH { s with pwr := { s.pwr with blocks := s.pwr.blocks ++ [⟨page, 0, false, true, s.mer, true⟩] } } page Reg.status_state 3

/-- A memory die, lane die or host die that fails its own checks enters service as FAILED: the units of a memory die are marked, and a lane
die or host die is held in reset (R576; DEDUCED, log 62). -/
def dieFails (s : State) (die : Nat) : State :=
  if 1 ≤ die ∧ die ≤ 4 then
    let pages := (List.range 3).flatMap fun k => [pageOf 2 (3 * (die - 1) + k), pageOf 5 (3 * (die - 1) + k)]
    failSingle (failSingle (pages.foldl (fun s p => failUnit s p false) s) 4 (die - 1) false) 3 (die - 1) false
  else if 0x10 ≤ die ∧ die < 0x10 + Config.laneDies s.mfg.grade then holdFailed s (pageOf 0xC (die - 0x10))
  else if die = 0x20 ∨ die = 0x21 then holdFailed s (pageOf 0xE (die - 0x20))
  else s

/-- The start sequence ends with a result: 0, or the reason of its failure. A seed that does not give IK_PUB fails it (16 R522). With result
0, `detail` is the code of a die that failed its own checks, 0 for none. -/
def startSequence (s : State) (result detail : Nat) : State :=
  if s.pwr.phase ≠ .starting then s
  else if result = 0 then
    let a := getF s 0 Reg.secFwState_active
    if s.pwr.scrub || decide (s.pwr.began + 2 ^ 32 < s.pwr.ref) then s
    else if !seedMatches s.mfg then failStartup s 1 0
    else if slotBoots s a then dieFails (startSucceeds (bootSlot s a false)) detail
    else if slotBoots s (1 - a) then dieFails (startSucceeds (bootSlot s (1 - a) true)) detail
    else failStartup s 3 0
  else if result = 7 then enterDusk (failStartup s 7 0)
  else if [1, 2, 3, 5, 6].contains result then failStartup s result (if result = 5 then detail else 0)
  else s

/-- The start is not finished 2^32 ticks after the release of SD0. -/
def startTimeout (s : State) : State :=
  if s.pwr.phase == .starting && decide (s.pwr.began + 2 ^ 32 ≤ s.pwr.ref) then failStartup s 4 0 else s

/-- A block that did not acknowledge its release is marked FAILED (R576). -/
def ackFails (s : State) (page unit : Nat) : State :=
  match pageKind page with
  | 2 | 3 | 5 => failUnit s page false
  | 7 => failSingle s 4 (page % 256) false
  | 6 => if unit = 0 then s else failSingle s 3 (unit - 1) false
  | _ => s

/-- A self-timed domain does not acknowledge within 4096 ticks: on the CD the start fails, on a memory die the engine is FAILED. -/
def ackTimeout (s : State) (page : Nat) : State :=
  if s.pwr.phase = .starting then
    match pageKind page with
    | 3 | 6 | 0xA => failStartup s 5 0
    | _ => ackFails s page 0
  else
    match s.pwr.blocks.find? fun b => b.page == page && b.held && !b.forever && decide (b.since + 4160 ≤ s.mer) with
    | some b =>
      let s := { s with pwr := { s.pwr with blocks := s.pwr.blocks.filter (· != b) } }
      ackFails (showBlock s page b.unit 3) page b.unit
    | none => s

/-- The scrub is done. -/
def scrubDone (s : State) : State :=
  if s.pwr.phase = .starting then { s with pwr := { s.pwr with scrub := false } } else s

/-! ## MOD_RESET_N and RST_CMD (R570 to R572, R581, R587) -/

/-- Rails of the sequence, none started: VSTBY alone. -/
def railsOff : List Nat := [1, 0, 0, 0, 0, 0, 0, 0, 0]

/-- The rail sequence begins with VSV. -/
def beginRails (s : State) : State :=
  { s with pwr := { s.pwr with phase := .rails, rails := railsOff, rail := 1, railAt := s.pwr.ref, railTry := 0, retryAt := none } }

/-- A pin reset counts (20 R616). -/
def countPin (s : State) : State := bumpLife (bump s 0 Reg.rstCntPin) 2 1

/-- MOD_RESET_N is asserted; of a pulse between 100 ns and 1 µs a free choice decides. -/
def assertPin (s : State) (long : Bool) : State :=
  let d := if long then (true, s) else drawBool s
  if !d.1 then d.2
  else
    let s := d.2
    let s := { s with pwr := { s.pwr with pin := true } }
    match s.pwr.phase with
    | .off | .rails | .held => s
    | .starting | .failed | .service | .dusk => countPin (enterReset s 1)

/-- MOD_RESET_N is released: the end of a pulse in Off starts the rails, once the input is good (R587; 19 R593). -/
def releasePin (s : State) : State :=
  if !s.pwr.pin then s
  else
    let s := { s with pwr := { s.pwr with pin := false } }
    match s.pwr.phase with
    | .off => if s.pwr.vin && s.pwr.vinGood then beginRails s else { s with pwr := { s.pwr with vin := false } }
    | .held => tryStart { s with pwr := { s.pwr with freed := some s.pwr.ref } }
    | .rails | .starting | .failed | .service | .dusk => s

/-- The flash pulse ends; HOLD shows by how much it delayed the release. -/
def interlockEnd (s : State) : State :=
  if !s.pwr.pulse then s
  else
    let late := match s.pwr.freed with
      | some t => min (s.pwr.ref - t) (2 ^ 19 - 1)
      | none => 0
    tryStart (setF { s with pwr := { s.pwr with pulse := false } } 0 Reg.rstStatus_hold late)

/-- RESET acts as a pin reset of 1 µs. -/
def resetNow (s : State) (cause : Nat) : State :=
  let s := countPin (enterReset s cause)
  tryStart { s with pwr := { s.pwr with freed := some s.pwr.ref } }

/-- RESET in RST_CMD. -/
def resetCmd (s : State) : State := resetNow { s with cmdStatus := 0 } 1

/-- EXIT_DUSK clears the failed-start count and then acts as RESET. -/
def exitDuskCmd (s : State) : State :=
  let cause := if inDusk s then 3 else 1
  resetNow (noteNv (setF { s with cmdStatus := 0 } 0 Reg.rstStatus_failed 0)) cause

/-- ENTER_DUSK sets the count to 3. -/
def enterDuskCmd (s : State) : State :=
  if planRuns s then { s with cmdStatus := 8 }
  else logReason (setF { s with cmdStatus := 0 } 0 Reg.rstStatus_failed 3) 9 0

/-! ## Off and power-on (R569, R587; 19 R593 to R596) -/

/-- The controller takes the module to Off and records the cause; MFR_STATUS keeps the condition. A start that this cuts short has failed
(18 R578; DEDUCED, log 62). -/
def enterOff (s : State) (event : Nat) (mfr : BitVec 5) : State :=
  if s.pwr.phase = .off then s
  else
    let s := if s.pwr.phase = .starting then failStartup s 8 0 else s
    let s := restoreLife (cutWrites s)
    { s with pwr := { s.pwr with
      phase := .off, rails := railsOff, rail := 9, retryAt := none, pulse := false, cause := 2, event := some event
      mfr := s.pwr.mfr ||| mfr } }

/-- A stack's pseudo-channel that was lost or being vacated trains afresh: whether it succeeds is a free choice; a second one that fails
in a stack cannot be relocated (08 R281, R292, R296). -/
def trainAfresh (s : State) : State :=
  let l := (s.mem.relocs.map fun r => (r.stack, r.pc)) ++ s.mem.dead
  l.dedup.foldl (fun s q =>
    let d := drawBool s
    if d.1 then d.2
    else if stackHasLost d.2 q.1 then fault (killPc d.2 q.1 q.2) 0x15 (pageOf 9 q.1) (q.2 * 2 ^ 20) 0xFFFF 0 0
    else setReloc d.2 ⟨q.1, q.2, relocMap d.2 q.1 q.2, false, segments, false, false, false, true⟩)
    { s with mem := { s.mem with relocs := [], dead := [], redirects := [], rowWait := [], retained := [] } }

/-- Every rail is in regulation: the power-on resets every domain, the refresh keepers included. -/
def powerOn (s : State) : State :=
  if s.pwr.phase == .rails && (s.pwr.rails.drop 1).all (· == 1) then
    let s := dropVolatile (dropUpload s)
    let s := trainAfresh (scrubOutside { s with ct := .reset, flt := .reset } [])
    let s := resetRegs s (fun _ => true) survivesPower
    let s := bumpLife (showFailed s) 1 1
    let t := { s with pwr := { s.pwr with
      phase := .held, rail := 9, mfr := 0, shed := [], scrub := true, pulse := false, freed := none, parts := (0, 0, 0)
      savedAt := s.pwr.ref } }
    tryStart t
  else s

/-- The input falls below 40 V: VIN_UV; below 38 V for more than 200 µs the module goes to Off. -/
def vinLow (s : State) (mv : Nat) (lasting : Bool) : State :=
  if 40000 ≤ mv then s
  else
    let s := if s.pwr.phase == .service && s.pwr.vinGood then bump s 0 Reg.pwrCntVinlow else s
    let s := { s with pwr := { s.pwr with mfr := s.pwr.mfr ||| 1, vinGood := false } }
    if mv < 38000 ∧ lasting then
      let s := enterOff s 1 1
      { s with pwr := { s.pwr with vin := false, event := if mv = 0 then none else s.pwr.event } }
    else s

/-- The input stands above 62 V for more than 200 µs. -/
def vinHigh (s : State) (mv : Nat) : State :=
  if mv ≤ 62000 then s
  else
    let s := enterOff s 2 2
    { s with pwr := { s.pwr with vin := false, vinGood := false } }

/-- The input has stood between 41 and 60 V for 10 ms after it had left that range; in Off this starts the rails where the input had been
removed, or a pulse on MOD_RESET_N waits for it. -/
def vinStable (s : State) (mv : Nat) : State :=
  if mv < 41000 ∨ 60000 < mv ∨ (s.pwr.vin && s.pwr.vinGood) then s
  else
    let t := { s with pwr := { s.pwr with vin := true, vinGood := true } }
    if s.pwr.phase = .off ∧ s.pwr.vin = false then beginRails t else t

/-- A rail of the sequence is in regulation after 1 ms. -/
def railUp (s : State) (rail : Nat) : State :=
  if s.pwr.phase == .rails && rail == s.pwr.rail && decide (rail < 9) && decide (s.pwr.railAt + 640000 ≤ s.pwr.ref) then
    { s with pwr := { s.pwr with rails := s.pwr.rails.set rail 1, rail := rail + 1, railAt := s.pwr.ref } }
  else s

/-- A rail is not in regulation within 2 ms: once more after 1 s, and then Off with cause SEQUENCE. -/
def railLate (s : State) (rail : Nat) : State :=
  if s.pwr.phase == .rails && rail == s.pwr.rail && decide (rail < 9) && decide (s.pwr.railAt + 1280000 ≤ s.pwr.ref) then
    if s.pwr.railTry = 0 then
      { s with pwr := { s.pwr with rails := railsOff, rail := 9, railTry := 1, retryAt := some (s.pwr.ref + 640000000) } }
    else enterOff s 4 16
  else s

/-- The second attempt begins. -/
def railRetry (s : State) : State :=
  match s.pwr.retryAt with
  | some t =>
    if s.pwr.phase == .rails && decide (t ≤ s.pwr.ref) then
      { s with pwr := { s.pwr with rail := 1, railAt := s.pwr.ref, retryAt := none } }
    else s
  | none => s

/-! ## Rails and temperature in service (19 R595, R597, R600) -/

/-- Phases fitted on a rail. -/
def railFitted (rail : Nat) : Nat := [2, 2, 2, 9, 7, 5, 2, 7, 7].getD rail 0

/-- Nominal voltage of a rail in mV. -/
def railNominal (rail : Nat) : Nat := [3300, 800, 800, 750, 750, 850, 1800, 1100, 400].getD rail 0

/-- The rails are up. -/
def powered (s : State) : Bool := s.pwr.phase != .off && s.pwr.phase != .rails

/-- A phase reports a fault: an over-current sheds it at once. SUB is rail + 16 × phase (17 R552; DESIGN CHOICE, log 99). -/
def phaseFault (s : State) (rail phase mA : Nat) (excess : Bool) : State :=
  if !powered s then s
  else
    let s := if excess then shedPhase s rail phase else s
    enqueueFault s ⟨s.mer, 0x1500, 0x48, 0, 0xFFFF, rail + 16 * phase, execTag s, 0, mA, excess⟩

/-- A rail has left ±5 % of nominal for more than 64 ticks: in service the device stops, and a start fails. -/
def railLost (s : State) (rail mv : Nat) : State :=
  let n := railNominal rail
  if !powered s ∨ (95 * n ≤ 100 * mv ∧ 100 * mv ≤ 105 * n) then s
  else
    let s := { s with pwr := { s.pwr with rails := s.pwr.rails.set rail 2 } }
    if s.pwr.phase = .starting then failStartup s 6 0
    else if s.pwr.phase = .service then fault s 0x49 0x1500 rail 0xFFFF 0 mv
    else s

/-- A logic die reads a temperature; at 115 °C the module goes to Off. -/
def dieTemp (s : State) (temp : Nat) : State :=
  if !powered s then s
  else
    let s := setFI s 10 0 0 Reg.pwrLife_value (max (lifeOf s 10) temp)
    if 115 ≤ temp then enterOff s 3 4 else s

/-! ## Reference clocks (19 R606) -/

/-- FREF is absent: the device is held in reset as by the pin. -/
def frefGone (s : State) : State :=
  let s := { s with pwr := { s.pwr with frefAbsent := true } }
  let s := if s.pwr.phase = .off then s else { s with pwr := { s.pwr with event := some 6, mfr := s.pwr.mfr ||| 8 } }
  match s.pwr.phase with
  | .off | .rails | .held => s
  | .starting | .failed | .service | .dusk => enterReset s 1

/-- FREF has been present for 1 ms. -/
def frefBack (s : State) : State := tryStart { s with pwr := { s.pwr with frefAbsent := false } }

/-- HREF is absent: every host port loses its link. -/
def hrefGone (s : State) : State :=
  (List.range 8).foldl (fun s p => if hostLink s p then linkLost s p else s) { s with pwr := { s.pwr with hrefAbsent := true } }

/-- HREF returns. -/
def hrefBack (s : State) : State := { s with pwr := { s.pwr with hrefAbsent := false } }

/-! ## Power states (18 R584 to R588) -/

/-- A change begins: CHANGING, TARGET, and the lifetime counters are written (20 R616). -/
def beginChange (s : State) (target : Nat) : State :=
  let s := saveLife s
  let s := setF (setF s 0 Reg.pwrState_changing 1) 0 Reg.pwrState_target target
  { s with pwr := { s.pwr with changeAt := some s.mer, waitCmd := none } }

/-- PWR_CMD: accepted only while the active plan state is IDLE, the staged state is not LOADING and no change is in progress; it waits
for a commit stage that is not empty (06 R227). -/
def powerCmd (s : State) (target : Nat) : State :=
  if planRuns s || getF s 0 Reg.plnState_staged == 1 || getF s 0 Reg.pwrState_changing == 1 then { s with cmdStatus := 8 }
  else if s.eng.stage.isEmpty then beginChange { s with cmdStatus := 0 } target
  else { s with cmdStatus := 0, pwr := { s.pwr with waitCmd := some target } }

/-- Outside the execution of steps the commit stage has drained, and a waiting PWR_CMD takes effect (06 R227). While a plan waits for its
start, none does. -/
def stageEmpty (s : State) : State :=
  if stepsRun s then s
  else
    let s := drainStage s
    match if planRuns s then none else s.pwr.waitCmd with
    | some t => beginChange s t
    | none => s

/-- Substitutions and RETIRED marks of every lane are cleared (10 R387). -/
def clearSpares (s : State) : State :=
  (List.range (Config.laneDies s.mfg.grade)).foldl (fun s d =>
    let s := setReg s 0 (pageOf 0xC d) 0x110 0
    (List.range 50).foldl (fun s l => setLane s d l Reg.laneStat_stage 0) s) s

/-- Every stack is in self-refresh. -/
def holdStacks (s : State) : State := (fittedStacks s).foldl (fun s k => setF s k Reg.memStkStatus_selfref 1) s

/-- The lane dies are powered down and every stack is in self-refresh. -/
def enterLow (s : State) : State :=
  let s := holdStacks (clearSpares (idleLinks s))
  { s with lanes := .reset, sync := { s.sync with set := false, good := 0 } }

/-- The stacks leave self-refresh, but for those at Critical. -/
def leaveLow (s : State) : State :=
  (fittedStacks s).foldl (fun s k => if getF s k Reg.memStkStatus_band = 3 then s else setF s k Reg.memStkStatus_selfref 0) s

/-- Sessions on another port than H0 or H4 close. -/
def closeOthers (s : State) : State :=
  (s.ctl.sessions.filter fun x => x.peer.port % 4 != 0).foldl (fun s x => closeSession s x.id) s

/-- Sleep: the staged bank empties, and the host dies keep only the port logic of H0 and H4. -/
def enterSleep (s : State) : State := closeOthers { emptyStaged s with host := .reset }

/-- On waking from Sleep every page but those of SD0 and SD1 shows its power values, and H0 and H4 their links (R588). -/
def wake (s : State) : State :=
  let up := [0, 4].filter (hostLink s)
  let s := showFailed (resetRegs s (fun p => pageDomain p != .service) survivesReset)
  up.foldl linkUp s

/-- A change of power state completes (R584, R591). -/
def stateEntered (s : State) : State :=
  if getF s 0 Reg.pwrState_changing ≠ 1 then s
  else
    let old := powerState s
    let new := getF s 0 Reg.pwrState_target
    if new = 4 then enterOff s 5 0
    else
      let s := bump (setF (setF s 0 Reg.pwrState_state new) 0 Reg.pwrState_changing 0) 0 Reg.pwrCntTrans
      let s := { s with pwr := { s.pwr with changeAt := none } }
      let s := if old ≤ 1 && 2 ≤ new then enterLow s else s
      let s := if new = 3 && old ≠ 3 then enterSleep s else s
      let s := if old = 3 && new ≠ 3 then wake s else s
      if 2 ≤ old && new ≤ 1 then leaveLow s else if old = 3 && new = 2 then holdStacks s else s

/-! ## SMBus (19 R608) -/

/-- READY (R574). -/
def ready (s : State) : Bool :=
  s.pwr.phase == .service && !s.flt.stopped && decide (powerState s ≤ 1) &&
    !(getF s 0 Reg.pwrState_changing == 1 && decide (2 ≤ getF s 0 Reg.pwrState_target))

/-- MFR_STATUS. -/
def mfrStatus (s : State) : Nat :=
  (if (s.pwr.rails.drop 1).all (· == 1) then 1 else 0) + (if ready s then 2 else 0) + (if s.pwr.shed.isEmpty then 0 else 4) +
    s.pwr.mfr.toNat * 8 + (s.pwr.event.getD 0) * 256

/-- The controller has power. -/
def smbusServes (s : State) : Bool := s.pwr.vin || s.pwr.event.isSome

/-- The word that a Read Word answers; none is not acknowledged. Measured values are free; a die or a stack without power is no
source yet and reads zero (R610). -/
def smbusRead (s : State) (code : Nat) : State :=
  if !smbusServes s then s
  else if code = 0xD0 then emit s (.smbus (some (mfrStatus s)))
  else if [0x88, 0x89, 0x97, 0x8D].contains code then
    let d := drawNat s
    emit d.2 (.smbus (some (d.1 % 65536)))
  else if code = 0x8E then
    let d := drawNat s
    emit d.2 (.smbus (some (if powered s then d.1 % 65536 else 0)))
  else if code = 0x8F then emit s (.smbus (some (if powered s then getF s 0 Reg.memBand_temp else 0)))
  else emit s (.smbus none)

/-- A write is acknowledged up to its command code; no data byte is, and nothing changes. -/
def smbusWrite (s : State) (data : List Byte) : State := if smbusServes s && !data.isEmpty then emit s (.smbus none) else s

/-! ## The end of a firmware handover (20 R614, R615) -/

/-- The new firmware takes over: what SEC shows of it, and a rejoin that waited for it. -/
def handoverDone (s : State) : State :=
  match s.pln.handover with
  | none => s
  | some t =>
    let slot := getF s 0 Reg.secFwState_active
    if t + 2 ^ 21 < s.mer ∨ slotBoots s slot = false then s
    else
      let s := clearPending (setF (bootSlot s slot false) 0 Reg.secFwAct_done 1)
      let s := bumpLife s 11 1
      let s := { s with pln := { s.pln with handover := none }, fw := { s.fw with prevSlot := none } }
      if planRuns s then s else armNow s 0

/-- The new firmware has not taken over: ACTIVE names the previous slot, and SD0 acts as RESET. -/
def handoverTimeout (s : State) : State :=
  match s.pln.handover with
  | none => s
  | some t =>
    if s.mer < t + 2 ^ 21 then s
    else
      let s := setF s 0 Reg.secFwState_active (s.fw.prevSlot.getD (getF s 0 Reg.secState_bootSlot))
      resetNow { s with fw := { s.fw with prevSlot := none } } 1

/-! ## The commands -/

/-- Meanings that the module power controller or the reset controller carries out in every phase. -/
def always (s t : State) : Host.Outcome State Fault Refusal := settled s (.next t)

/-- The commit stage is empty (06 R227). -/
def execCommitStageEmpty (s : State) : Host.Outcome State Fault Refusal :=
  whenRuns s .service (.next (stageEmpty s))

/-- RESET (R571). -/
def execReset (s : State) : Host.Outcome State Fault Refusal := whenServes s .service (.next (resetCmd s))

/-- EXIT_DUSK (R581). -/
def execExitDusk (s : State) : Host.Outcome State Fault Refusal := whenServes s .service (.next (exitDuskCmd s))

/-- ENTER_DUSK (R578, R581). -/
def execEnterDusk (s : State) : Host.Outcome State Fault Refusal := whenServes s .service (.next (enterDuskCmd s))

/-- MOD_RESET_N is asserted (R570). -/
def execModResetNAssert (long : Bool) (s : State) : Host.Outcome State Fault Refusal := always s (assertPin s long)

/-- MOD_RESET_N is released (R572). -/
def execModResetNRelease (s : State) : Host.Outcome State Fault Refusal := always s (releasePin s)

/-- The flash interlock ends (R572). -/
def execFlashInterlockEnd (s : State) : Host.Outcome State Fault Refusal := always s (interlockEnd s)

/-- A power-on (R569). -/
def execPowerOn (s : State) : Host.Outcome State Fault Refusal := always s (powerOn s)

/-- The start sequence (R575). -/
def execStartSequence (result detail : Nat) (s : State) : Host.Outcome State Fault Refusal := always s (startSequence s result detail)

/-- A self-timed acknowledge is missing (R575). -/
def execSelfTimedAckTimeout (page : Nat) (s : State) : Host.Outcome State Fault Refusal :=
  if pagePresent s page then always s (ackTimeout s page) else .fault .absentUnit

/-- A start times out (R576). -/
def execStartTimeout (s : State) : Host.Outcome State Fault Refusal := always s (startTimeout s)

/-- The scrub is done (R577). -/
def execScrubDone (s : State) : Host.Outcome State Fault Refusal := always s (scrubDone s)

/-- PWR_CMD TARGET 0 (R585). -/
def execPwrCmdRun (s : State) : Host.Outcome State Fault Refusal := whenServes s .service (.next (powerCmd s 0))

/-- PWR_CMD TARGET 1 (R585). -/
def execPwrCmdQuiet (s : State) : Host.Outcome State Fault Refusal := whenServes s .service (.next (powerCmd s 1))

/-- PWR_CMD TARGET 2 (R585). -/
def execPwrCmdStandby (s : State) : Host.Outcome State Fault Refusal := whenServes s .service (.next (powerCmd s 2))

/-- PWR_CMD TARGET 3 (R585). -/
def execPwrCmdSleep (s : State) : Host.Outcome State Fault Refusal := whenServes s .service (.next (powerCmd s 3))

/-- PWR_CMD TARGET 4 (R585). -/
def execPwrCmdOff (s : State) : Host.Outcome State Fault Refusal := whenServes s .service (.next (powerCmd s 4))

/-- A power-state change completes (R584). -/
def execPowerStateEntered (s : State) : Host.Outcome State Fault Refusal := whenRuns s .service (.next (stateEntered s))

/-- Input undervoltage (19 R593). -/
def execVinUndervoltage (mv : Nat) (lasting : Bool) (s : State) : Host.Outcome State Fault Refusal := always s (vinLow s mv lasting)

/-- Input overvoltage (19 R593). -/
def execVinOvervoltage (mv : Nat) (s : State) : Host.Outcome State Fault Refusal := always s (vinHigh s mv)

/-- The input is stable (19 R593). -/
def execVinStable (mv : Nat) (s : State) : Host.Outcome State Fault Refusal := always s (vinStable s mv)

/-- A rail is in regulation (19 R596). -/
def execRailInRegulation (rail : Nat) (s : State) : Host.Outcome State Fault Refusal := always s (railUp s rail)

/-- A rail is late (19 R596). -/
def execRailSequenceTimeout (rail : Nat) (s : State) : Host.Outcome State Fault Refusal := always s (railLate s rail)

/-- The second attempt of the rail sequence (19 R596). -/
def execRailSequenceRetry (s : State) : Host.Outcome State Fault Refusal := always s (railRetry s)

/-- A phase reports a fault (19 R597). -/
def execPwrPhase (rail phase mA : Nat) (excess : Bool) (s : State) : Host.Outcome State Fault Refusal :=
  if phase < railFitted rail then always s (phaseFault s rail phase mA excess) else .fault .absentUnit

/-- A rail leaves its range (19 R597). -/
def execPwrRail (rail mv : Nat) (s : State) : Host.Outcome State Fault Refusal :=
  if rail < 9 then always s (railLost s rail mv) else .fault .absentUnit

/-- A die temperature (19 R600). -/
def execOvertemp (_die temp : Nat) (s : State) : Host.Outcome State Fault Refusal := always s (dieTemp s temp)

/-- FREF is lost (19 R606). -/
def execFrefLoss (s : State) : Host.Outcome State Fault Refusal := always s (frefGone s)

/-- FREF returns (19 R606). -/
def execFrefReturn (s : State) : Host.Outcome State Fault Refusal := always s (frefBack s)

/-- HREF is lost (19 R606). -/
def execHrefLoss (s : State) : Host.Outcome State Fault Refusal := always s (hrefGone s)

/-- HREF returns (19 R606). -/
def execHrefReturn (s : State) : Host.Outcome State Fault Refusal := always s (hrefBack s)

/-- A Read Word on the SMBus (19 R608). -/
def execSmbusReadWord (code : Nat) (s : State) : Host.Outcome State Fault Refusal := always s (smbusRead s code)

/-- A write on the SMBus (19 R608). -/
def execSmbusWrite (_code : Nat) (data : List Byte) (s : State) : Host.Outcome State Fault Refusal := always s (smbusWrite s data)

/-- The lifetime counters are saved (20 R616). -/
def execLifetimeSave (s : State) : Host.Outcome State Fault Refusal := whenRuns s .service (.next (lifetimeSave s))

/-- The new firmware takes over (20 R614). -/
def execFwHandoverDone (s : State) : Host.Outcome State Fault Refusal := whenRuns s .service (.next (handoverDone s))

/-- The handover times out (20 R615). -/
def execFwHandoverTimeout (s : State) : Host.Outcome State Fault Refusal := whenRuns s .service (.next (handoverTimeout s))

end Sys2Proof.Machine
end

