-- ==== Sys2Proof/Machine/Views.lean ====
section
/-! DEFINITION. The registers as the control channel sees them: which registers stand on a page, the selectors, what a read returns,
what it clears, and the counter values that FREEZE holds (00 R17 to R19; 15 R510 to R517, and the register tables of every chapter). -/

namespace Sys2Proof.Machine

/-! ## Where registers stand (15 R514) -/

/-- NCOUNT of a page: the counters of its kind; the cell pool's page holds four (14 R490). -/
def counterCount (page : Nat) : Nat :=
  let n := ((kindFields (pageKind page)).filter fun f => decide (0x40 ≤ f.off) && decide (f.off < 0x100)).length
  if page = 0x1000 then n - 1 else n

/-- A counter stands at an offset. -/
def isCounter (page off : Nat) : Bool :=
  decide (0x40 ≤ off) && decide (off < 0x40 + 8 * counterCount page) && decide (off % 8 = 0)

/-- A register stands at an offset. -/
def regStands (page off : Nat) : Bool :=
  if off < 0x100 && decide (0x40 ≤ off) then isCounter page off else !(fieldsAt (pageKind page) off).isEmpty

/-- Fields of a register of a page: the cell pool's page reserves those of the host dies (14 R490). -/
def regFields (page off : Nat) : List Fld :=
  (fieldsAt (pageKind page) off).filter fun f =>
    !(page == 0x1000 && ([Reg.bufCfg_cnpEn, Reg.bufLevel_levelS, Reg.bufLevel_levelM, Reg.bufLevel_levelL].contains f || f.off == 0x110)) &&
      !(page != 0x1000 && f == Reg.bufLevel_levelC)

/-! ## Selectors (15 R500, R518) -/

/-- The selector registers: those whose name ends in _SEL. -/
def isSelector (page off : Nat) : Bool :=
  [(0x4, 0x108), (0x9, 0x110), (0xC, 0x118), (0xE, 0x120), (0xE, 0x138), (0xE, 0x190), (0xE, 0x1A8), (0x13, 0x128), (0x15, 0x118),
    (0x15, 0x138)].contains (pageKind page, off)

/-- The selector field that governs a register of a kind, and whether the register holds a copy that the selector's write made. -/
def selectorOf (kind off : Nat) : Option (Fld × Bool) :=
  match kind with
  | 0x4 => if 0x110 ≤ off ∧ off ≤ 0x168 then some (Reg.bruLagSel_index, true) else none
  | 0x9 => if off = 0x118 then some (Reg.memPcSel_pc, false) else none
  | 0xC => if 0x120 ≤ off ∧ off ≤ 0x140 then some (Reg.laneSel_lane, false) else none
  | 0xE =>
    if off = 0x128 ∨ off = 0x130 then some (Reg.hostStaSel_index, false)
    else if off = 0x140 ∨ off = 0x148 then some (Reg.hostPolSel_index, false)
    else if off = 0x198 ∨ off = 0x1A0 then some (Reg.hostQpSel_index, false)
    else if 0x1B0 ≤ off ∧ off ≤ 0x1C0 then some (Reg.hostWinSel_index, false)
    else none
  | 0x13 => if 0x130 ≤ off ∧ off ≤ 0x158 then some (Reg.fltSel_seq, true) else none
  | 0x15 =>
    if off = 0x120 then some (Reg.pwrRailSel_rail, false)
    else if off = 0x140 then some (Reg.pwrLifeSel_index, false)
    else none
  | _ => none

/-- The index at which a register's contents stand: that of its selector, 0 without one and for a copy. -/
def selIdx (s : State) (page off : Nat) : Nat :=
  match selectorOf (pageKind page) off with
  | some (f, false) => getF s (page % 256) f
  | _ => 0

/-- What tells two samples of one address apart: the selector's contents. -/
def selKey (s : State) (page off : Nat) : Nat :=
  match selectorOf (pageKind page) off with
  | some (f, _) => getF s (page % 256) f
  | none => 0

/-! ## The common header (15 R511) -/

/-- The die code of a page (15 R516). -/
def pageDie (page : Nat) : Nat :=
  let inst := page % 256
  match pageKind page with
  | 0x0 => 0x30
  | 0x2 => 1 + inst / 3
  | 0x5 => 1 + inst / 3
  | 0x7 => 1 + inst
  | 0x9 => 1 + inst / 5
  | 0xB => 0x10 + inst / 6
  | 0xC => 0x10 + inst
  | 0xD => 0x31
  | 0xE => 0x20 + inst
  | 0xF => 0x20 + inst / 4
  | 0x10 => if inst = 0 then 0 else 0x1F + inst
  | 0x11 => 0x30
  | 0x12 => 0x30
  | 0x13 => 0x30
  | 0x14 => 0x30
  | 0x15 => 0x31
  | _ => 0

/-- MAJOR of every page; MINOR is 0, for which the manual states no value. -/
def pageMajor : Nat := 1

/-- The block sends fault messages (17 R552). -/
def sendsFaults (page : Nat) : Bool :=
  (List.range 0x52).any fun k => (faultPages k).contains (pageKind page)

/-- A RESOURCE of the plan belongs to a page's block (02 R57). -/
def resourceOn (s : State) (r page : Nat) : Bool :=
  let kind := pageKind page
  let inst := page % 256
  let bus := r / 2 ^ 28
  if bus = 1 ∨ bus = 2 then
    let p := portNo (physicalPort s (r % 512))
    kind == 0xA || page == 0x1000 || (kind == 0xB && inst == p) || (kind == 0xC && inst == p / 6)
  else if bus = 3 ∨ bus = 4 then
    let link := r % 32
    (kind == 0xC && inst == link) || (kind == 0xE && inst + 20 == link)
  else if bus = 5 then kind == 8 || (kind == 9 && inst == r / 32 % 32)
  else if bus = 6 then
    (kind == 4 && r % 16 == 5) || (unitPage s (r % 4096)) == some page
  else false

/-- The active plan gives the block work or slots. -/
def inPlan (s : State) (page : Nat) : Bool :=
  planRuns s &&
    (match s.pln.active with
     | some p =>
       pageKind page == 1 || (p.tables.any fun t => resourceOn s t.resource page) ||
         p.work.any fun w => resourceOn s (engineRes (mappedUnit s w.unit)) page
     | none => false)

/-- Unacknowledged records of a block by raised class. -/
def unackedOf (s : State) (page raised : Nat) : Nat := ((unacked s raised).filter fun r => r.msg.page == page).length

/-- FLT_SUM. -/
def faultSum (s : State) (page : Nat) : Nat :=
  let n := fun c => unackedOf s page c
  let one := fun c => if n c = 0 then 0 else 1
  one 0 + 2 * one 1 + 4 * one 2 + 256 * min 0xFFFF (n 0 + n 1 + n 2)

/-! ## The page directory (15 R515 to R517) -/

/-- Every page number that some grade uses, ascending. -/
def allPages : List Nat :=
  (List.range 0x16).flatMap fun k =>
    let n := match k with
      | 0x2 => 12
      | 0x3 => 5
      | 0x5 => 12
      | 0x7 => 4
      | 0x9 => 20
      | 0xB => 96
      | 0xC => 16
      | 0xE => 2
      | 0xF => 8
      | 0x10 => 3
      | _ => 1
    (List.range n).map (pageOf k)

/-- The directory. -/
def directory (s : State) : List Nat := allPages.filter (pageListed s)

/-- Contents of a directory register. -/
def dirView (s : State) (off : Nat) : Nat :=
  if off = 0x100 then
    (directory s).length + s.mfg.grade * 2 ^ 16 + s.mfg.stepping * 2 ^ 24 + (if inDusk s then 2 ^ 32 else 0)
  else if off = 0x108 then capacity s
  else
    match (directory s)[(off - 0x110) / 8]? with
    | some p => p + pageDie p * 2 ^ 16 + pageMajor * 2 ^ 24
    | none => 0

/-! ## Registers whose contents follow from the state -/

/-- ALERT_N is asserted (17 R556). -/
def alert (s : State) : Bool :=
  !(unacked s 1).isEmpty || !(unacked s 2).isEmpty || faultState s || getF s 0 Reg.fltState_overflow == 1

/-- FLT_STATE. -/
def fltStateView (s : State) : Nat :=
  getF s 0 Reg.fltState_faultstate + (if alert s then 2 else 0) + 4 * getF s 0 Reg.fltState_overflow +
    2 ^ 16 * min 0xFFFF (unacked s 1).length + 2 ^ 32 * min 0xFFFF (unacked s 2).length

/-- MEM_PC_STATE of a stack. -/
def pcStateView (s : State) (stack : Nat) : Nat :=
  (List.range 32).foldl (fun a pc => a + pcState s stack pc * 4 ^ pc) 0

/-- MEM_PC_DETAIL of a pseudo-channel. -/
def pcDetailView (s : State) (stack pc : Nat) : Nat :=
  let rows := fun level => (s.mem.rowFix.filter fun f => f.stack == stack && f.pc == pc && f.level == level).length
  let r := relocOf s stack pc
  rows 2 + rows 3 * 2 ^ 7 + (r.map (·.copied)).getD 0 * 2 ^ 14 + (if r.any (·.restoring) then 2 ^ 25 else 0) +
    getFI s pc stack 0 Reg.memPcDetail_lastPin * 2 ^ 26

/-- Free cells of the cell pool (09 R353). -/
def cellsFree (s : State) : Nat := poolSize - poolUse s

/-- The port code that a port's page describes: the whole port, or half a. -/
def pageCode (s : State) (p : Nat) : Nat := if splitNow s p then 256 + p else p

/-- UP of a port (09 R352). -/
def portUpView (s : State) (p : Nat) : Nat :=
  match s.pln.active with
  | some q => if planRuns s && (codesOf (splitNow s p) p).any (fun c => planUp q (logicalPort s c)) then 8 else 0
  | none => 0

/-- BUF_FREE of a host die (14 R490). -/
def bufFreeView (s : State) (die : Nat) : Nat :=
  let free := fun pool => framePoolSize pool - framesUsed s die pool
  free 1 + free 2 * 2 ^ 14 + free 3 * 2 ^ 26 + (if [1, 2, 3].any (fun p => (framePoolOf s die p).broken) then 2 ^ 36 else 0)

/-- PWR_RAIL of a rail with its measured voltage and current. -/
def railView (s : State) (rail volt curr : Nat) : Nat :=
  if 9 ≤ rail then 0
  else
    let shed := (s.pwr.shed.filter (·.1 == rail)).length
    volt % 65536 + curr % 65536 * 2 ^ 16 + railFitted rail * 2 ^ 32 + (railFitted rail - shed) * 2 ^ 36 +
      s.pwr.rails.getD rail 0 * 2 ^ 40

/-- Die codes of the logic dies of the grade. -/
def logicDies (s : State) : List Nat :=
  [0, 1, 2, 3, 4, 0x20, 0x21, 0x30, 0x31] ++ (List.range (Config.laneDies s.mfg.grade)).map (0x10 + ·)

/-- A register of the module's sensors: measured values are free (19 R611). -/
def sensorView (s : State) (off : Nat) : Option (Nat × State) :=
  if off = 0x110 then
    let d := drawNat s
    some (d.1 % 2 ^ 48, d.2)
  else if off = 0x120 then
    let d := drawNat s
    some (railView s (getF s 0 Reg.pwrRailSel_rail) d.1 (d.1 / 65536), d.2)
  else if off = 0x128 then
    let d := drawNat s
    let l := logicDies s
    some (l.getD (d.1 % l.length) 0 + d.1 / 256 % 2 ^ 24 * 2 ^ 8, d.2)
  else none

/-- A digest as six registers. -/
def digestWord (d : Digest) (n : Nat) : Nat := (d.toNat >>> (64 * n)) % 2 ^ 64

/-- SEQ and STATE of the record that the unit of a page runs (04 R165; 05 R182, R197): a reduction engine's or a barrier unit's record
ends with its RELEASE tick, a pool engine's with its last result. One that has just been marked FAILED runs its record on to the
boundary (R194; 17 R560). -/
def unitView (s : State) (page : Nat) : Nat :=
  let u := unitOfPage s page
  if unitRole s page ≠ 0 ∧ s.eng.toSpare.contains page = false then 0
  else
    match s.eng.jobs.find? fun j => j.unit == u && (!j.released || (u % 16 == 2 && j.state == 5)) with
    | some j => j.seq % 2 ^ 32 * 2 ^ 8 + (if u % 16 = 2 then j.state % 8 * 2 ^ 40 else 0)
    | none => 0

/-- LOGICAL of a port page: what a remap has written, else the port's own number while it is in service (11 R420). -/
def logicalView (s : State) (inst stored : Nat) : Nat :=
  if s.lanes.remap.any fun y => portNo y.1 == inst then stored
  else if (codesOf (splitNow s inst) inst).any fun c => portState s c == 4 then inst else 0

/-- MER_SYNC: STATE, and beside a time parent the port that leads to it (11 R413, R421). -/
def merView (s : State) (stored : Nat) : Nat :=
  let port := if (timeParentNode s).isSome then (timeParent s).getD 0 else 0
  merState s + stored % 8 / 4 * 4 + port * 8 + stored / 2 ^ 12 * 2 ^ 12

/-- What a register shows beyond the fields that stand in it. -/
def liveView (s : State) (page off stored : Nat) : Nat :=
  let inst := page % 256
  match pageKind page with
  | 0x0 => dirView s off
  | 0x2 => if off = 0x100 then stored + unitView s page else stored
  | 0x3 => if off = 0x100 then stored + unitView s page else stored
  | 0x5 => if off = 0x100 then stored + unitView s page else stored
  | 0x4 => if off = 0x100 then s.fab.lags.length else stored
  | 0x6 => if off = 0x100 then stored + s.eng.stage.length * 2 ^ 40 else stored
  | 0x8 => if off = 0x108 then stored + capacity s else stored
  | 0x9 =>
    if off = 0x108 then pcStateView s inst
    else if off = 0x118 then pcDetailView s inst (getF s inst Reg.memPcSel_pc)
    else stored
  | 0xA => if off = 0x100 then stored / 2 ^ 18 * 2 ^ 18 + cellsFree s else stored
  | 0xB =>
    if off = 0x100 then stored + portUpView s inst
    else if off = 0x108 then
      stored % 2 ^ 17 + logicalView s inst (stored / 2 ^ 17 % 2 ^ 7) * 2 ^ 17 + stored / 2 ^ 24 % 2 ^ 8 * 2 ^ 24 +
        ((foreseen s (logicalPort s (pageCode s inst))).getD 0xFFFF) * 2 ^ 32
    else stored
  | 0xC => if 0x120 ≤ off ∧ off ≤ 0x140 ∧ 50 ≤ getF s inst Reg.laneSel_lane then 0 else stored
  | 0xD => if off = 0x100 then s.mer else if off = 0x108 then merView s stored else stored
  | 0x10 => if off = 0x110 then (if inst = 0 then 0 else bufFreeView s (inst - 1)) else stored
  | 0x11 =>
    if 0x128 ≤ off ∧ off ≤ 0x150 then digestWord s.mfg.identity ((off - 0x128) / 8)
    else if 0x188 ≤ off ∧ off ≤ 0x1B0 then digestWord (devrecOf s) ((off - 0x188) / 8)
    else stored
  | 0x13 => if off = 0x108 then fltStateView s else stored
  | 0x15 =>
    if off = 0x130 then (match s.pwr.event with
      | some c => c + 8
      | none => 0)
    else if off = 0x140 ∧ 12 ≤ getF s 0 Reg.pwrLifeSel_index then 0
    else stored
  | _ => stored

/-- A register of the common header. -/
def headerView (s : State) (page off : Nat) : Nat :=
  if off = 0 then page + pageDie page * 2 ^ 16
  else if off = 4 then pageMajor * 256
  else if off = 8 then
    counterCount page + (if resettable page then 32 else 0) + (if sendsFaults page then 64 else 0)
  else if off = 0x18 then getH s page Reg.status_state + (if inPlan s page then 4 else 0)
  else if off = 0x20 then faultSum s page
  else if off = 0x30 then getH s page Reg.cntFreeze_freeze
  else 0

/-- Bits of a register that a field stands on; the others are reserved and read as zero (00 R18). -/
def regMask (page off : Nat) : Word := (regFields page off).foldl (fun a f => a ||| f.mask) 0

/-- Bits of a register's RC fields. -/
def rcMask (page off : Nat) : Word := ((regFields page off).filter fun f => f.acc == .rc).foldl (fun a f => a ||| f.mask) 0

/-- The RC fields show the values that FREEZE holds (00 R19; 15 R512). -/
def heldRc (s : State) (idx page off : Nat) (v : Word) : Word :=
  match kvGet s.ctl.frozen (regKey idx page off) with
  | some h => (v &&& ~~~(rcMask page off)) ||| (h &&& rcMask page off)
  | none => v

/-- POE_BADIDX and POE_BADIDX_AT as a read finds them: where a COMMIT of this tick offers them a bad index, the earlier contents (05
R199). -/
def badView (s : State) (page off : Nat) (v : Word) : Word :=
  match (tieNow s).bad.find? (·.1 == page) with
  | some b => if off = 0x110 then b.2.1 else if off = 0x118 then b.2.2.1 else v
  | none => v

/-- The contents that a read returns (00 R17 to R19; 15 R501, R512), and the state with the free values that it drew. -/
def readReg (s : State) (page off : Nat) : Word × State :=
  if off < 0x40 then (BitVec.ofNat 64 (headerView s page off), s)
  else if off < 0x100 then
    match kvGet s.ctl.frozen (regKey 0 page off) with
    | some v => (v, s)
    | none => (getReg s 0 page off, s)
  else
    let idx := selIdx s page off
    let stored := (if pageKind page = 5 then badView s page off else id) (getReg s idx page off)
    match (if pageKind page = 0x15 then sensorView s off else none) with
    | some r => (BitVec.ofNat 64 r.1, r.2)
    | none => (heldRc s idx page off (BitVec.ofNat 64 (liveView s page off stored.toNat) &&& regMask page off), s)

/-! ## What a read clears (00 R17) -/

/-- The cleared value of an RC field: zero but for SLACK and LOW (02 R98, 09 R353). -/
def clearedValue (s : State) (f : Fld) : Nat :=
  if f = Reg.plnSlackMin_slack then 0xFF else if f = Reg.fabPool_low then cellsFree s else 0

/-- The live lag entry behind the copy in the lag registers (04 R170). -/
def clearLag (s : State) (off : Nat) : State :=
  let node := getF s 0 Reg.bruLagNode_node
  let s := { s with ctl := { s.ctl with frozenLags := s.ctl.frozenLags.map fun l => l.map fun e => if e.node = node then clearOne off e else e } }
  onLag s node (clearOne off)
where
  /-- The entry with the fields of a register cleared. -/
  clearOne (off : Nat) (e : LagEntry) : LagEntry :=
    if off = 0x110 then { e with misses := 0 }
    else if off = 0x120 then { e with max := 0 }
    else if off = 0x128 then { e with stale := 0, late := 0 }
    else if 0x130 ≤ off ∧ off ≤ 0x168 then
      let n := 2 * ((off - 0x130) / 8)
      { e with bins := (e.bins.set n 0).set (n + 1) 0 }
    else e

/-- The RC fields of a register take their cleared values, and so do the values that FREEZE holds of them (00 R19; 15 R512). -/
def clearRc (s : State) (page off : Nat) : State :=
  let rc := (regFields page off).filter fun f => f.acc == .rc
  if rc.isEmpty then s
  else
    let idx := selIdx s page off
    let clear := fun (w : Word) => rc.foldl (fun w f => putBits w f.lo f.width (clearedValue s f)) w
    let t := setReg s idx page off (clear (getReg s idx page off))
    let t := match kvGet t.ctl.frozen (regKey idx page off) with
      | some h => { t with ctl := { t.ctl with frozen := kvPut t.ctl.frozen (regKey idx page off) (clear h) } }
      | none => t
    match pageKind page with
    | 0x4 => if off ≤ 0x168 then clearLag t off else t
    | _ => t

/-! ## CNT_FREEZE (15 R512) -/

/-- Keys of a page's counters: its counter block, and every register with an RC field, behind every index of its selector (00 R19). The
lag registers are copies, whose entries are held instead. -/
def freezeKeys (page : Nat) : List Nat :=
  let block := (List.range (counterCount page)).map fun n => regKey 0 page (0x40 + 8 * n)
  let rc := (((kindFields (pageKind page)).filter fun f => f.acc == .rc && !(pageKind page == 4 && decide (f.off ≤ 0x168))).map (·.off)).dedup
  block ++ rc.flatMap fun off =>
    (List.range (if (selectorOf (pageKind page) off).isSome then 50 else 1)).map fun i => regKey i page off

/-- FREEZE of a page: the counters' values of this tick are held, or reads are live again. An RC read of the same tick finds and leaves the
same whether it comes before the freeze or after it (00 R19). -/
def freezePage (s : State) (page : Nat) (on : Bool) : State :=
  let was := getH s page Reg.cntFreeze_freeze
  let s := setH s page Reg.cntFreeze_freeze (if on then 1 else 0)
  if on && was == 0 then
    let t := (freezeKeys page).foldl (fun s k =>
      { s with ctl := { s.ctl with frozen := kvPut s.ctl.frozen k (getReg s (k / 4096 / 65536) page (k % 4096)) } }) s
    if page = 0x0400 then { t with ctl := { t.ctl with frozenLags := some s.fab.lags } } else t
  else if !on then
    { s with ctl := { s.ctl with
      frozen := s.ctl.frozen.filter fun kv => kv.1 / 4096 % 65536 != page
      frozenLags := if page = 0x0400 then none else s.ctl.frozenLags } }
  else s

/-! ## BRU_LAG_SEL (04 R169, R170) -/

/-- The entry that an index selects, as the registers from 0x110 to 0x168 lay it out. -/
def lagWords (e : LagEntry) : List Nat :=
  [e.node + e.misses % 2 ^ 32 * 2 ^ 16, e.last % 2 ^ 40, e.max % 2 ^ 40, e.stale % 2 ^ 32 + e.late % 2 ^ 32 * 2 ^ 32] ++
    (List.range 8).map fun n => e.bins.getD (2 * n) 0 % 2 ^ 32 + e.bins.getD (2 * n + 1) 0 % 2 ^ 32 * 2 ^ 32

/-- A write of BRU_LAG_SEL copies the selected entry, as FREEZE holds it where it does; an index beyond the entries copies zeros. -/
def lagSelect (s : State) (index : Nat) : State :=
  let s := setF { s with cmdStatus := 0 } 0 Reg.bruLagSel_index index
  let l := (s.ctl.frozenLags.getD s.fab.lags).mergeSort fun a b => decide (a.node ≤ b.node)
  let ws := match l[index]? with
    | some e => lagWords e
    | none => List.replicate 12 0
  (List.range 12).foldl (fun s n => setReg s 0 0x0400 (0x110 + 8 * n) (BitVec.ofNat 64 (ws.getD n 0))) s

end Sys2Proof.Machine
end

