-- ==== Sys2Proof/Machine/Access.lean ====
section
/-! DEFINITION. Register accesses: the checks of an entry, the range of every field, write entries and the commands behind them, and the
execution of READ and WRITE messages (00 R17 to R20; 15 R499 to R507; 16 R544). -/

namespace Sys2Proof.Machine

/-! ## Checks before any block is asked (15 R499, R501 step 1, R503 step 1; 16 R544) -/

/-- Page and offset of an ADDR (15 R500). -/
def addrPage (addr : Nat) : Nat := addr / 4096 % 65536
def addrOff (addr : Nat) : Nat := addr % 4096

/-- The privilege bit that a write of a page needs (16 R530, R544). -/
def writePriv (page : Nat) : Nat :=
  match pageKind page with
  | 0x1 => 2
  | 0x11 => 4
  | 0x12 => 3
  | _ => 1

/-- A register of 32 bits. -/
def narrow (off : Nat) : Bool := decide (off < 8)

/-- Where an address names no register: NOPAGE or NOREG, else 0. -/
def placeStatus (s : State) (page off : Nat) : Nat :=
  if !pageListed s page then 2 else if !regStands page off then 3 else 0

/-- The status of a READ entry, codes 0x01 to 0x05. -/
def readStatus (s : State) (priv : BitVec 8) (e : ReadEntry) : Nat :=
  let p := placeStatus s (addrPage e.addr) (addrOff e.addr)
  if 2 ^ 28 ≤ e.addr ∨ 2 ≤ e.flags ∨ (e.flags = 0 ∧ e.value ≠ 0) then 1
  else if e.flags = 1 ∧ p = 0 ∧ isSelector (addrPage e.addr) (addrOff e.addr) = false then 1
  else if p ≠ 0 then p
  else if !priv.getLsbD 0 then 5
  else 0

/-- The status of a WRITE entry; `twice` says that an earlier entry names its register. -/
def writeStatus (s : State) (priv : BitVec 8) (twice : Bool) (e : WriteEntry) : Nat :=
  let p := placeStatus s (addrPage e.addr) (addrOff e.addr)
  if 2 ^ 28 ≤ e.addr ∨ e.zero ≠ 0 ∨ (narrow (addrOff e.addr) = true ∧ 2 ^ 32 ≤ e.mask.toNat) then 1
  else if p ≠ 0 then p
  else if twice then 4
  else if !priv.getLsbD (writePriv (addrPage e.addr)) then 5
  else 0

/-- Statuses of the entries of a WRITE in order. -/
def writeStatuses (s : State) (priv : BitVec 8) : List Nat → List WriteEntry → List Nat
  | _, [] => []
  | seen, e :: l => writeStatus s priv (seen.contains e.addr) e :: writeStatuses s priv (e.addr :: seen) l

/-- The lowest status other than OK and the first entry that carries it; OK with INDEX 0xFFFF if there is none (15 R496, R499). -/
def worst (l : List Nat) : Nat × Nat :=
  match (l.filter (· ≠ 0)).min? with
  | some c => (c, l.idxOf c)
  | none => (0, 0xFFFF)

/-! ## Ranges of fields (15 R499, R503 step 2, R518) -/

/-- A field that a mask touches meets a condition on its new value. -/
def fieldMeets (mask new : Word) (f : Fld) (ok : Nat → Bool) : Bool := (mask &&& f.mask) == 0 || ok (bits new f.lo f.width)

/-- The new contents of a register lie within the ranges that its table or rule gives. -/
def inRange (s : State) (page off : Nat) (mask new : Word) : Bool :=
  let m := fieldMeets mask new
  match pageKind page, off with
  | 0x1, 0x118 => m Reg.plnStartAt_start fun v => decide (v % 1024 = 0)
  | 0x8, 0x100 => m Reg.memSplit_nearUnits fun v => decide (v ≤ splitMax s)
  | 0xC, 0x118 => m Reg.laneSel_lane fun v => decide (v ≤ 49)
  | 0xE, 0x100 => m Reg.hostCfg_ageExp fun v => v == 0 || (decide (14 ≤ v) && decide (v ≤ 30))
  | 0xE, 0x138 => m Reg.hostPolSel_index fun v => decide (1 ≤ v)
  | 0xE, 0x158 => m Reg.hostCapBase_base fun v => decide (v % 4096 = 0)
  | 0xE, 0x160 => m Reg.hostCapSize_size fun v => decide (v % 4096 = 0) && decide (4096 ≤ v) && decide (v ≤ 2 ^ 32)
  | 0xE, 0x178 => m Reg.hostCapCtrl_sampleExp fun v => decide (v ≤ 20)
  | 0xE, 0x198 => m Reg.hostQpCfg_pmtu fun v => decide (v ≤ 2)
  | 0xF, 0x100 =>
    m Reg.hostPortCfg_phy (fun v => decide (v ≤ 2)) && m Reg.hostPortCfg_maxFrame (fun v => decide (1518 ≤ v) && decide (v ≤ 9728)) &&
      m Reg.hostPortCfg_pvid fun v => decide (1 ≤ v) && decide (v ≤ 4094)
  | 0x12, 0x120 => m Reg.secCtAck_ack fun v => decide (getF s 0 Reg.secCtFirst_first ≤ v) && decide (v ≤ getF s 0 Reg.secCtNext_next)
  | 0x13, 0x100 =>
    m Reg.fltCfg_windowExp (fun v => decide (20 ≤ v) && decide (v ≤ 40)) && m Reg.fltCfg_limit fun v => decide (2 ≤ v)
  | 0x14, 0x100 => m Reg.rstCfg_retain (fun v => decide (v ≤ 2)) && m Reg.rstCfg_idleTo fun v => decide (1 ≤ v)
  | 0x14, 0x130 =>
    let target := bits new 0 16
    let unit := bits new 16 4
    (mask &&& (Reg.rstReq_page.mask ||| Reg.rstReq_unit.mask)) == 0 ||
      (resettable target && pagePresent s target && (if target = 0x0600 then decide (unit ≤ 4) else unit == 0))
  | 0x15, 0x108 => m Reg.pwrCmd_target fun v => decide (v ≤ 4)
  | 0x15, 0x118 => m Reg.pwrRailSel_rail fun v => decide (v ≤ 8)
  | _, _ => true

/-! ## The contents that a write leaves (00 R17; 15 R502) -/

/-- A field after a masked write of its register. -/
def writtenField (f : Fld) (old mask value : Word) : Word :=
  match f.acc with
  | .rw | .rwl => ((old &&& ~~~mask) ||| (value &&& mask)) &&& f.mask
  | .w1c => (old &&& ~~~(value &&& mask)) &&& f.mask
  | .ro | .rc => old &&& f.mask
  | .wo => value &&& mask &&& f.mask

/-- A register after a masked write, a WO field showing what was written. -/
def writtenWord (page off : Nat) (old mask value : Word) : Word :=
  (regFields page off).foldl (fun a f => a ||| writtenField f old mask value) 0

/-- The mask covers some bit of a field of one of some access types. -/
def touches (page off : Nat) (mask : Word) (kinds : List Access) : Bool :=
  (regFields page off).any fun f => kinds.contains f.acc && (mask &&& f.mask) != 0

/-- A register takes new contents; its WO fields keep nothing, and a change of an NV field is stored in NV (00 R16). -/
def storeReg (s : State) (page off : Nat) (new : Word) : State :=
  let idx := selIdx s page off
  let old := getReg s idx page off
  let kept := (regFields page off).foldl (fun a f => if f.acc = .wo then a else a ||| (new &&& f.mask)) 0
  let nv := (regFields page off).any fun f =>
    decide (f.keep = .nv) && (f.acc == .rw || f.acc == .rwl) && (old &&& f.mask) != (new &&& f.mask)
  setReg (if nv then noteNv s else s) idx page off kept

/-! ## Commands and writes with an effect of their own (15 R505) -/

/-- PLN_CMD (02 R90). -/
def planCmd (s : State) (cmd : Nat) : State :=
  match cmd with
  | 1 => loadCmd s
  | 2 => armCmd s
  | 3 => abortCmd s
  | 4 => discardCmd s
  | _ => s

/-- MOV_CMD (07 R257). -/
def moverCmd (s : State) (mov ch cmd : Nat) : State :=
  match cmd with
  | 1 => movStart s mov ch
  | 2 => movCancel s mov ch
  | 3 => movRecoverCmd s mov
  | _ => s

/-- MEM_STK_CMD (08 R298, R299). -/
def stackCmd (s : State) (stack pc cmd : Nat) : State :=
  match cmd with
  | 1 => vacateCmd s stack pc
  | 2 => restoreCmd s stack pc
  | 0 => s
  | _ => { s with cmdStatus := 8 }

/-- HOST_WIN_CMD (13 R472, R475). -/
def windowCmd (s : State) (die w cmd : Nat) : State :=
  match cmd with
  | 1 => winFinish s die w
  | 2 => winReopen s die w
  | _ => s

/-- SEC_FW_CMD (16 R548). -/
def firmwareCmd (s : State) (slot cmd : Nat) : State :=
  match cmd with
  | 1 => advanceCmd s
  | 2 => selectCmd s slot
  | 3 => eraseCmd s slot
  | _ => s

/-- SEC_FW_ACT (20 R612, R613, R620): clearing PENDING cancels the activation. -/
def activation (s : State) (on : Bool) : State :=
  if on then pendingCmd s else setF s 0 Reg.secFwAct_pending 0

/-- The effect of a write entry on its register, whose contents with the write are `new`. RST_CMD's resets come after the response. -/
def writeEffect (s : State) (page off : Nat) (mask new : Word) : State :=
  let inst := page % 256
  let b := bits new
  match (if off < 0x40 then 0x100 else pageKind page), off with
  | 0x100, 0x10 => if b 0 1 = 1 ∧ resettable page = true then blockCmd s page 0 else s
  | 0x100, 0x28 => ackPage s page (BitVec.ofNat 3 (b 0 3))
  | 0x100, 0x30 => if mask.getLsbD 0 then freezePage s page (new.getLsbD 0) else s
  | 0x100, _ => s
  | 0x1, 0x110 => planCmd s (b 0 4)
  | 0x4, 0x108 => lagSelect s (b 0 8)
  | 0x7, 0x148 => moverCmd s inst (b 0 4) (b 4 4)
  | 0x8, 0x100 => splitWrite s (b 0 8)
  | 0x9, 0x120 => stackCmd s inst (b 0 5) (b 5 3)
  | 0xC, 0x140 => laneTest s inst new
  | 0xE, 0x140 => storeReg (setPolicer s (policerNow s inst (selIdx s page off))) page off new
  | 0xE, 0x148 => fillPolicer (storeReg s page off new) inst (selIdx s page off)
  | 0xE, 0x170 => if new.toNat ≤ getF s inst Reg.hostCapProd_prod then storeReg s page off new else s
  | 0xE, 0x198 => qpWrite s inst (selIdx s page off) new (qpPsn s inst (selIdx s page off))
  | 0xE, 0x1C8 => windowCmd s inst (b 0 8) (b 8 4)
  | 0x11, 0x120 => firmwareCmd s (b 4 1) (b 0 4)
  | 0x11, 0x1B8 => activation s (new.getLsbD 0)
  | 0x12, 0x108 => if b 0 4 = 1 then ctSign s else s
  | 0x12, 0x120 => ctAck s new.toNat
  | 0x13, 0x110 => if b 0 4 = 1 then clearCmd s else s
  | 0x13, 0x128 => selRecord s new.toNat
  | 0x13, 0x160 => ackSeq s new.toNat
  | 0x14, 0x130 => blockCmd s (b 0 16) (b 16 4)
  | 0x14, 0x138 => if b 0 4 = 3 then enterDuskCmd s else s
  | 0x15, 0x108 => powerCmd s (b 0 3)
  | 0xF, 0x100 => if b 0 1 = 0 ∧ hostLink s inst = true then linkLost (storeReg s page off new) inst else storeReg s page off new
  | 0xF, _ =>
    if 0x318 ≤ off ∧ off ≤ 0x350 then storeReg (settleCredit s inst ((off - 0x318) / 8)) page off new else storeReg s page off new
  | _, _ => storeReg s page off new

/-- Flag bits that a COMMIT of this tick set: a W1C write of the tick leaves them set (00 R20; 03 R128). -/
def tieFlags (s : State) (page off : Nat) : Word :=
  if off = (if pageKind page = 1 then 0x188 else 0x108) then (kvGet (tieNow s).flags page).getD 0 else 0

/-- A write entry applies; `cmdStatus` says whether its command fits (00 R17, R18; 15 R502, R505, R518). -/
def applyEntry (s : State) (page off : Nat) (mask value : Word) : State :=
  let s := { s with cmdStatus := 0 }
  if touches page off mask [.rw, .rwl, .w1c, .wo] then
    let key := regKey (selIdx s page off) page off
    let s := writeEffect s page off mask (writtenWord page off (getReg s (selIdx s page off) page off) mask value ||| tieFlags s page off)
    if touches page off mask [.rw, .rwl] then noteWrote s key else s
  else s

/-- RESET and EXIT_DUSK in RST_CMD act once the response is sent (18 R571, R581). -/
def resetAfter (s : State) (page off : Nat) (mask value : Word) : State :=
  if page = 0x1400 ∧ off = 0x138 then
    match bits (value &&& mask) 0 4 with
    | 1 => resetCmd s
    | 2 => exitDuskCmd s
    | _ => s
  else s

/-- The entries of a set are checked in order, each against what the earlier ones write (15 R503 steps 2 and 5). -/
def rangeStatuses : State → List WriteEntry → List Nat
  | _, [] => []
  | s, e :: l =>
    let page := addrPage e.addr
    let off := addrOff e.addr
    let new := writtenWord page off (getReg s (selIdx s page off) page off) e.mask e.value
    let bad := pageServes s page && touches page off e.mask [.rw, .rwl, .w1c, .wo] && !inRange s page off e.mask new
    (if bad then 7 else 0) :: rangeStatuses (storeReg s page off new) l

/-- The first entry whose MASK covers a bit of an RWL field, where a plan ran at the start of the tick (15 R504). -/
def lockedEntry (s : State) (l : List WriteEntry) : Option Nat :=
  if ranAtStart s then l.findIdx? fun e => touches (addrPage e.addr) (addrOff e.addr) e.mask [.rwl] else none

/-- The first entry whose block does not answer (15 R499, R506). -/
def silentEntry (s : State) (pages : List Nat) : Option Nat := pages.findIdx? fun p => !pageServes s p

/-! ## READ (15 R501) -/

/-- A sample that this READ has taken, by selector contents, page and offset. -/
structure Sample where
  key : Nat
  page : Nat
  off : Nat
  value : Word
  deriving DecidableEq, Repr

/-- One entry: a selector takes its value, or a register is sampled and its RC fields cleared, once for each address. -/
def sampleEntry (a : State × List Sample × List Word) (e : ReadEntry) : State × List Sample × List Word :=
  let s := a.1
  let page := addrPage e.addr
  let off := addrOff e.addr
  if e.flags = 1 then (applyEntry s page off (BitVec.allOnes 64) e.value, a.2.1, a.2.2 ++ [0])
  else
    let key := selKey s page off
    match a.2.1.find? fun x => x.key == key && x.page == page && x.off == off with
    | some x => (s, a.2.1, a.2.2 ++ [x.value])
    | none =>
      let r := readReg s page off
      (clearRc r.2 page off, ⟨key, page, off, r.1⟩ :: a.2.1, a.2.2 ++ [r.1])

/-- A read of POE_BADIDX clears POE_BADIDX_AT too, once the tick's samples are taken; the bad index that a COMMIT of the same tick offers is
recorded afterwards (05 R199). A register that two entries name is cleared once (R501). -/
def clearAt (s : State) (e : ReadEntry) : State :=
  let page := addrPage e.addr
  if e.flags = 0 ∧ pageKind page = 5 ∧ addrOff e.addr = 0x110 then
    match (tieNow s).bad.find? (·.1 == page) with
    | some b =>
      let t := { s with tie := { tieNow s with bad := (tieNow s).bad.filter fun x => x.1 != page } }
      setReg (setReg t 0 page 0x110 b.2.2.2.1) 0 page 0x118 b.2.2.2.2
    | none => setReg s 0 page 0x118 0
  else s

/-- Every entry of a READ in one tick: the state and the values. -/
def sampleAll (s : State) (l : List ReadEntry) : State × List Word :=
  let r := l.foldl sampleEntry (s, [], [])
  (((l.filter fun e => e.flags = 0).map fun e => (⟨e.addr, 0, 0⟩ : ReadEntry)).dedup.foldl clearAt r.1, r.2.2)

/-! ## WRITE (15 R503 to R505) -/

/-- Every entry of a set in one tick: the state and the entries' statuses. -/
def applyAll (s : State) (l : List WriteEntry) : State × List Nat :=
  l.foldl (fun a e =>
    let t := applyEntry a.1 (addrPage e.addr) (addrOff e.addr) e.mask e.value
    (t, a.2 ++ [t.cmdStatus])) (s, [])

/-- The resets of a set. -/
def resetsAfter (s : State) (l : List WriteEntry) : State :=
  l.foldl (fun s e => resetAfter s (addrPage e.addr) (addrOff e.addr) e.mask e.value) s

/-! ## Register commands of their own -/

/-- A register command reaches a block of the grade that the directory lists and that answers. -/
def onRegister (s : State) (page : Nat) (t : State) : Host.Outcome State Fault Refusal :=
  if pageListed s page then (if pageServes s page then settled s (.next t) else .next { s with cmdStatus := 9 })
  else noPage s

/-- A write entry to a register on its own (15 R502): its place, LOCKED, RANGE, and its effect. -/
def writeOne (s : State) (page off : Nat) (mask value : Word) : State :=
  let e : WriteEntry := ⟨page * 4096 + off, 0, mask, value⟩
  if !regStands page off then { s with cmdStatus := 3 }
  else if narrow off && decide (2 ^ 32 ≤ mask.toNat) then { s with cmdStatus := 1 }
  else if (lockedEntry s [e]).isSome then { s with cmdStatus := 6 }
  else if rangeStatuses s [e] ≠ [0] then { s with cmdStatus := 7 }
  else resetAfter (applyEntry s page off mask value) page off mask value

/-- A write entry to a register (15 R502). -/
def execRegisterWrite (page off : Nat) (mask value : Word) (s : State) : Host.Outcome State Fault Refusal :=
  onRegister s page (writeOne s page off mask value)

/-- A write of CNT_FREEZE (15 R512). -/
def execCntFreezeWrite (page : Nat) (freeze : Bool) (s : State) : Host.Outcome State Fault Refusal :=
  onRegister s page (freezePage { s with cmdStatus := 0 } page freeze)

/-- A write of BRU_LAG_SEL (04 R170). -/
def execBruLagSelWrite (index : Nat) (s : State) : Host.Outcome State Fault Refusal :=
  if index < 256 then onRegister s 0x0400 (lagSelect s index) else .fault .absentUnit

end Sys2Proof.Machine
end

