-- ==== Sys2Proof/Machine/Control.lean ====
section
/-! DEFINITION. The control channel: DTLS sessions, messages and their responses, the access sequence, and every message type (13 R465, R466;
15 R492 to R509, R518, R519; 16 R539 to R544; 18 R580). -/

namespace Sys2Proof.Machine

/-! ## Sessions (13 R465; 16 R543) -/

/-- A session. -/
def sessionOf (s : State) (id : Nat) : Option Session := s.ctl.sessions.find? (·.id == id)

/-- A session changes. -/
def onSession (s : State) (id : Nat) (f : Session → Session) : State :=
  { s with ctl := { s.ctl with sessions := s.ctl.sessions.map fun x => if x.id = id then f x else x } }

/-- A record is discarded and counted on its host die, where that die runs (13 R465, R466). -/
def dtlsBad (s : State) (die : Nat) : State := if runs s .hosts then bump s die Reg.hostCntDtlsBad else s

/-- A host port carries the control channel: its logic runs and its link is up (13 R466; 18 R579). -/
def portReached (s : State) (port : Nat) : Bool := portServes s port && hostLink s port

/-- Where the answers to a ClientHello of a die go: its frame came on a port of that die. -/
def helloClient (auth : HelloAuth) (die : Nat) : ReplyTo := { auth.peer with port := 4 * die + auth.peer.port % 4 }

/-- The privileges of a client certificate's anchor: the PRIV of the owner's entry; on an UNOWNED device a self-signed certificate
may READ (16 R543). -/
def anchorPriv (s : State) (anchor : Option (BitVec 128)) : Option (BitVec 8) :=
  match s.owner, anchor with
  | none, none => some 1
  | none, some _ => none
  | some _, a => (operatorOf s a).map (·.priv)

/-- The lowest session number of a die that is free. -/
def freeSession (s : State) (die : Nat) : Option Nat :=
  ((List.range 4).map (4 * die + ·)).find? fun id =>
    (sessionOf s id).isNone && !s.ctl.requests.any (·.session == id)

/-- A datagram of the control channel goes to where an answer goes, with a fresh count for its bytes (13 R454, R465). -/
def sendDatagram (s : State) (peer : ReplyTo) (bytes : List Byte) (what : Says) : State :=
  let f := udpFrame s peer (getF s (hostDie peer.port) Reg.hostCfg_ctrlPort) peer.udp bytes
  sendReply { s with freeCtr := s.freeCtr + 1 } peer f what

/-- What the responder finds of a ClientHello's options: the suite, the group, the signature and a full handshake (13 R465). -/
def helloSupported (auth : HelloAuth) : Bool := auth.suite && auth.group && auth.sign && auth.full

/-- A ClientHello: without the cookie a HelloRetryRequest; beyond four sessions, without the supported options, or without an anchor, it is
ignored and counted. That one without the options is counted is DESIGN CHOICE, log 108. -/
def clientHello (s : State) (die : Nat) (auth : HelloAuth) : State :=
  let peer := helloClient auth die
  if !portReached s peer.port then s
  else
    match (if helloSupported auth then freeSession s die else none) with
    | none => dtlsBad s die
    | some id =>
      if !auth.cookie then sendDatagram s peer (Config.helloRetry s.freeCtr) (.hello die)
      else
        match anchorPriv s auth.anchor with
        | none => dtlsBad s die
        | some priv =>
          let s := if runs s .hosts then bump s die Reg.hostCntDtlsSess else s
          let x : Session := ⟨id, auth.anchor, priv, s.mer, 0, 0, [], peer⟩
          { s with ctl := { s.ctl with sessions := s.ctl.sessions ++ [x] } }

/-- A session with no valid record for 2^35 ticks closes. -/
def idleClose (s : State) (id : Nat) : State :=
  match sessionOf s id with
  | some x => if x.last + 2 ^ 35 ≤ s.mer then closeSession s id else s
  | none => s

/-- After 2^24 records in either direction the T4896 starts a KeyUpdate. -/
def keyUpdate (s : State) (id : Nat) : State :=
  match sessionOf s id with
  | some x =>
    if 2 ^ 24 ≤ x.rx ∨ 2 ^ 24 ≤ x.tx then
      sendDatagram (onSession s id fun x => { x with rx := 0, tx := 0 }) x.peer (Config.keyUpdate s.freeCtr) (.keyUpdate id)
    else s
  | none => s

/-! ## Messages (15 R492, R496, R497) -/

/-- TYPE of a message. -/
def Msg.kind : Msg → Nat
  | .hello => 0
  | .read _ _ => 1
  | .write _ _ => 2
  | .ledgerRead _ _ => 3
  | .certGet _ => 4
  | .nop => 5
  | .attest _ _ _ => 6
  | .image _ _ _ _ => 7
  | .bad kind _ => kind

/-- COUNT of a message. -/
def Msg.count : Msg → Nat
  | .hello => 0
  | .read n _ => n
  | .write n _ => n
  | .ledgerRead _ n => n
  | .certGet _ => 0
  | .nop => 0
  | .attest _ _ _ => 0
  | .image _ _ _ data => data.length
  | .bad _ n => n

/-- The entries of a READ in its body. -/
def readEntries (l : List Byte) (n : Nat) : List ReadEntry :=
  (List.range n).map fun i => ⟨natAt l (16 * i) 4, natAt l (16 * i + 4) 4, BitVec.ofNat 64 (natAt l (16 * i + 8) 8)⟩

/-- The entries of a WRITE in its body. -/
def writeEntries (l : List Byte) (n : Nat) : List WriteEntry :=
  (List.range n).map fun i =>
    ⟨natAt l (24 * i) 4, natAt l (24 * i + 4) 4, BitVec.ofNat 64 (natAt l (24 * i + 8) 8), BitVec.ofNat 64 (natAt l (24 * i + 16) 8)⟩

/-- A body that its TYPE allows (15 R497; 16 R539, R541). -/
def bodyMsg (kind count : Nat) (l : List Byte) : Option Msg :=
  match kind with
  | 0 => if count = 0 ∧ l = [] then some .hello else none
  | 1 => if count ≤ 64 ∧ l.length = 16 * count then some (.read count (readEntries l count)) else none
  | 2 => if count ≤ 48 ∧ l.length = 24 * count then some (.write count (writeEntries l count)) else none
  | 3 => if count ≤ 255 ∧ l.length = 8 then some (.ledgerRead (natAt l 0 8) count) else none
  | 4 => if count = 0 ∧ l.length = 8 ∧ zeros l 1 7 = true then some (.certGet (natAt l 0 1)) else none
  | 5 => if count = 0 ∧ l = [] then some .nop else none
  | 6 =>
    if count = 0 ∧ l.length = 24 ∧ zeros l 1 3 = true then
      some (.attest (natAt l 0 1) (natAt l 4 4) (BitVec.ofNat 128 (natAt l 8 16)))
    else none
  | 7 =>
    if 1 ≤ count ∧ count ≤ 1024 ∧ l.length = 16 + count ∧ zeros l 1 3 = true then
      some (.image (natAt l 0 1) (natAt l 4 4) (natAt l 8 8) (l.drop 16))
    else none
  | _ => none

/-- The message of a record: TAG and message; what R496 to R509 do not allow is kept by its TYPE and COUNT. -/
def parseMsg (l : List Byte) : Nat × Msg :=
  let kind := natAt (l.take 1) 0 1
  let count := if l.length < 4 then 0 else natAt l 2 2
  let tag := if l.length < 8 then 0 else natAt l 4 4
  if l.length < 24 ∨ 1280 < l.length ∨ zeros l 1 1 = false ∨ zeros l 8 16 = false then (tag, .bad kind count)
  else (tag, (bodyMsg kind count (l.drop 24)).getD (.bad kind count))

/-! ## Responses (15 R493, R494, R496, R519) -/

/-- A response as it leaves SD0. -/
def responseBytes (kind tag status count index tick : Nat) (body : List Byte) : List Byte :=
  leBytes 1 (kind % 128 + 128) ++ leBytes 1 status ++ leBytes 2 count ++ leBytes 4 tag ++ leBytes 2 index ++ leBytes 6 0 ++
    leBytes 8 tick ++ body

/-- SEC_CTL_LAST describes a message that drew a status other than OK. -/
def noteLast (s : State) (r : Request) (status index : Nat) : State :=
  if status = 0 then s
  else
    let s := setF (setF s 0 Reg.secCtlLast_status status) 0 Reg.secCtlLast_type r.msg.kind
    setF (setF (setF s 0 Reg.secCtlLast_index index) 0 Reg.secCtlLast_session r.session) 0 Reg.secCtlLast_valid 1

/-- Where the answers of an open session go. -/
def clientOf (s : State) (id : Nat) : Option ReplyTo := (sessionOf s id).map (·.peer)

/-- A response goes to its session's client in the DTLS record of a datagram, with the PCP of the request's frame (13 R454; 15 R492). -/
def sendRecord (s : State) (id pcp : Nat) (peer : ReplyTo) (bs : List Byte) : State :=
  sendDatagram s { peer with pcp := pcp } (dtlsDatagram s.freeCtr bs) (.response id bs)

/-- The response goes out to a session that was open, to its client, and SD0 keeps it; the request no longer waits. -/
def sendResponse (s : State) (r : Request) (client : Option ReplyTo) (status count index tick : Nat) (body : List Byte) : State :=
  let bs := responseBytes r.msg.kind r.tag status count index tick body
  let s := noteLast s r status index
  let s := match client with
    | some peer => sendRecord s r.session r.pcp peer bs
    | none => s
  let s := onSession s r.session fun x => { x with tx := x.tx + 1, kept := (⟨r.msg.kind, r.tag, bs⟩ :: x.kept).take 16 }
  { s with ctl := { s.ctl with requests := s.ctl.requests.erase r } }

/-- The response to a request of a session that is open. -/
def respond (s : State) (r : Request) (status count index tick : Nat) (body : List Byte) : State :=
  sendResponse s r (clientOf s r.session) status count index tick body

/-- A response without a body or a tick, COUNT as in the request. -/
def plain (s : State) (r : Request) (status index : Nat) : State := respond s r status r.msg.count index 0 []

/-- A WRITE that changed nothing counts as refused (15, SEC_CTL_CNT_REFUSED). -/
def refuseWrite (s : State) (r : Request) (status index tick : Nat) : State :=
  respond (bump s 0 Reg.secCtlCntRefused) r status r.msg.count index tick []

/-! ## Messages that SD0 answers by itself -/

/-- HELLO (15 R498). -/
def helloBody (s : State) (id : Nat) : List Byte :=
  leBytes 1 s.mfg.grade ++ leBytes 1 s.mfg.stepping ++ leBytes 1 (if inDusk s then 1 else 0) ++ leBytes 1 id ++
    leBytes 2 (directory s).length ++ leBytes 2 (nodeId s) ++ leBytes 8 0

/-- Whole ledger records that fit (15 R508). -/
def fitRecords : Nat → Nat → List LedgerRec → List LedgerRec
  | 0, _, _ => []
  | _, _, [] => []
  | n + 1, room, r :: l => if r.bytes.length ≤ room then r :: fitRecords n (room - r.bytes.length) l else []

/-- LEDGER_READ (15 R508, R518). -/
def ledgerRead (s : State) (r : Request) (priv : BitVec 8) (first count : Nat) : State :=
  if !priv.getLsbD 0 then plain s r 5 0xFFFF
  else if count = 0 then plain s r 0 0xFFFF
  else if first < getF s 0 Reg.secCtFirst_first ∨ getF s 0 Reg.secCtNext_next ≤ first then plain s r 0xA 0xFFFF
  else
    let l := fitRecords count 1256 (s.ct.ring.filter fun x => decide (first ≤ x.no))
    respond s r 0 l.length 0xFFFF 0 (l.flatMap (·.bytes))

/-- CERT_GET (15 R509). -/
def certGet (s : State) (r : Request) (priv : BitVec 8) (kind : Nat) : State :=
  if !priv.getLsbD 0 then plain s r 5 0xFFFF
  else
    match (if 1 ≤ kind ∧ kind ≤ 4 then kvGet s.ct.certs kind else none) with
    | some c => respond s r 0 0 0xFFFF 0 c
    | none => plain s r 0xA 0xFFFF

/-- ATTEST (16 R541). -/
def attest (s : State) (r : Request) (form part : Nat) (nonce : BitVec 128) : State :=
  match form with
  | 0 =>
    let v := attestReport s nonce
    respond v.2 r 0 v.1.length 0xFFFF 0 v.1
  | 1 =>
    match attestPart s part with
    | some l => respond s r 0 l.length 0xFFFF 0 l
    | none => plain s r 7 0xFFFF
  | _ => plain s r 1 0xFFFF

/-- The privilege that an IMAGE needs (16 R543, R544). -/
def imageDenied (s : State) (priv : BitVec 8) (obj : Nat) : Bool :=
  if s.owner.isSome then !priv.getLsbD 4 else obj == 1

/-- IMAGE (16 R539); after an owner record is accepted the sessions are judged again, once the response is sent (16 R532). -/
def image (s : State) (r : Request) (priv : BitVec 8) (obj chunk total : Nat) (data : List Byte) : State :=
  if obj = 0 ∨ 2 < obj ∨ data = [] ∨ 1024 < data.length then plain s r 1 0xFFFF
  else if imageDenied s priv obj then plain s r 5 0xFFFF
  else
    let v := imageChunk s r.session obj chunk total data
    let t := respond v.1 r (reasonStatus v.2) r.msg.count 0xFFFF 0 (leBytes 2 v.2 ++ leBytes 6 0)
    if v.1.owner = s.owner then t else recheckSessions t

/-- A message other than READ and WRITE. -/
def answer (s : State) (r : Request) (priv : BitVec 8) : State :=
  match r.msg with
  | .hello => respond s r 0 0 0xFFFF 0 (helloBody s r.session)
  | .ledgerRead first count => if 255 < count then plain s r 1 0xFFFF else ledgerRead s r priv first count
  | .certGet kind => certGet s r priv kind
  | .nop => plain s r 0 0xFFFF
  | .attest form part nonce => attest s r form part nonce
  | .image obj chunk total data => image s r priv obj chunk total data
  | .bad kind _ => if kind = 2 then refuseWrite s r 1 0xFFFF 0 else plain s r 1 0xFFFF
  | .read _ _ => s
  | .write _ _ => s

/-! ## The access sequence (15 R495, R501, R503) -/

/-- A request is a READ or a WRITE. -/
def isAccess (r : Request) : Bool :=
  match r.msg with
  | .read _ _ => true
  | .write _ _ => true
  | _ => false

/-- The entries go to their blocks. -/
def sendAccess (s : State) (pages : List Nat) : State :=
  { s with ctl := { s.ctl with access := some (s.mer, silentEntry s pages) } }

/-- An access begins: its checks, and then its entries go to the blocks. -/
def beginAccess (s : State) (r : Request) (priv : BitVec 8) : State :=
  match r.msg with
  | .read count l =>
    if 64 < count ∨ l.length ≠ count then plain s r 1 0xFFFF
    else
      let w := worst (l.map (readStatus s priv))
      if w.1 ≠ 0 then plain s r w.1 w.2
      else if count = 0 then plain (bump s 0 Reg.secCtlCntRead) r 0 0xFFFF
      else sendAccess s (l.map fun e => addrPage e.addr)
  | .write count l =>
    if 48 < count ∨ l.length ≠ count then refuseWrite s r 1 0xFFFF 0
    else
      let w := worst (writeStatuses s priv [] l)
      if w.1 ≠ 0 then refuseWrite s r w.1 w.2 0
      else if count = 0 then plain (bump s 0 Reg.secCtlCntEmpty) r 0 0xFFFF
      else
        let v := worst (rangeStatuses s l)
        if v.1 ≠ 0 then refuseWrite s r v.1 v.2 0
        else sendAccess s (l.map fun e => addrPage e.addr)
  | _ => s

/-- The first request that can be served now: none of its session waits before it, and an access waits for the one in progress. -/
def nextRequest (s : State) : List Nat → List Request → Option Request
  | _, [] => none
  | seen, r :: l =>
    if seen.contains r.session || (isAccess r && (s.ctl.access.isSome || !seen.isEmpty)) then nextRequest s (r.session :: seen) l
    else some r

/-- A request is served. A session that closed before its request's turn gets no answer. -/
def serve (s : State) (r : Request) : State :=
  match sessionOf s r.session with
  | some x => if isAccess r then beginAccess s r x.priv else answer s r x.priv
  | none => { s with ctl := { s.ctl with requests := s.ctl.requests.erase r } }

/-- Every request that can be served is, in order (15 R493, R495). -/
def pump : Nat → State → State
  | 0, s => s
  | n + 1, s =>
    match nextRequest s [] s.ctl.requests with
    | some r => pump n (serve s r)
    | none => s

/-- SD0 goes on with the requests that wait. -/
def pumpAll (s : State) : State := pump (s.ctl.requests.length + 1) s

/-- The access in progress is over: block resets that waited for it begin (15 R506), and the next request is served. -/
def accessOver (s : State) : State := pumpAll (sendIdles { s with ctl := { s.ctl with access := none } })

/-- The tick may be the sample or apply tick of the access in progress: a multiple of 64, at least 64 ticks after every block answered
(15 R501). -/
def accessDue (s : State) : Bool :=
  match s.ctl.access with
  | some (t, none) => decide (s.mer % 64 = 0) && decide (t + 64 ≤ s.mer)
  | _ => false

/-- READ_SAMPLE (15 R501 steps 4 and 5). -/
def readSample (s : State) : State :=
  match (if accessDue s then s.ctl.requests else []) with
  | r :: _ =>
    match r.msg with
    | .read count l =>
      let v := sampleAll s l
      accessOver (respond (bump v.1 0 Reg.secCtlCntRead) r 0 count 0xFFFF s.mer (v.2.flatMap fun w => leBytes 8 w.toNat))
    | _ => s
  | [] => s

/-- WRITE_APPLY (15 R503 steps 4 and 5, R504, R505): LOCKED changes nothing; an ignored command draws its status. -/
def writeApply (s : State) : State :=
  match (if accessDue s then s.ctl.requests else []) with
  | r :: _ =>
    match r.msg with
    | .write count l =>
      match lockedEntry s l with
      | some i => accessOver (refuseWrite s r 6 i s.mer)
      | none =>
        let v := applyAll s l
        let w := worst v.2
        let c := if v.2.all (· ≠ 0) then Reg.secCtlCntRefused else Reg.secCtlCntWrite
        accessOver (resetsAfter (sendResponse (bump v.1 0 c) r (clientOf s r.session) w.1 count w.2 s.mer []) l)
    | _ => s
  | [] => s

/-- ACCESS_TIMEOUT: a block has not answered within 16,384 ticks (15 R499, R503, R506). -/
def accessTimeout (s : State) : State :=
  match s.ctl.access, s.ctl.requests with
  | some (t, some i), r :: _ =>
    if t + 16384 ≤ s.mer then
      accessOver (if r.msg.kind = 2 then refuseWrite s r 9 i 0 else plain s r 9 i)
    else s
  | _, _ => s

/-! ## Requests arrive (15 R493 to R495) -/

/-- A request joins those that wait: before the first of its session whose record has a later sequence number, else last (R493). -/
def joinRequest : List Request → Request → List Request
  | [], r => [r]
  | q :: l, r => if q.session = r.session ∧ r.seq < q.seq then r :: q :: l else q :: joinRequest l r

/-- The requests that wait with one more; the first is in progress while an access is. -/
def withRequest (s : State) (r : Request) : List Request :=
  let n := if s.ctl.access.isSome then 1 else 0
  s.ctl.requests.take n ++ joinRequest (s.ctl.requests.drop n) r

/-- A request arrives in an authentic record: a kept response goes out again, a request that still waits is not taken twice, and one
beyond 8 is discarded and counted. -/
def arrive (s : State) (hdr : MsgHdr) (msg : Msg) : State :=
  let id := hdr.session
  match sessionOf s id with
  | none => dtlsBad s (id / 4)
  | some x =>
    let s := onSession s id fun x => { x with last := s.mer, rx := x.rx + 1 }
    match x.kept.find? fun k => k.kind == msg.kind && k.tag == hdr.tag with
    | some k =>
      let s := bump s 0 Reg.secCtlCntResent
      sendRecord (onSession s id fun x => { x with tx := x.tx + 1 }) id hdr.pcp x.peer k.bytes
    | none =>
      let mine := s.ctl.requests.filter (·.session == id)
      if mine.any fun q => q.msg.kind == msg.kind && q.tag == hdr.tag then s
      else if 8 ≤ mine.length then bump s 0 Reg.secCtlCntOver
      else pumpAll { s with ctl := { s.ctl with requests := withRequest s ⟨id, hdr.tag, msg, hdr.seq, hdr.pcp⟩ } }

/-- The IP payload of a datagram with a record of a message (13 R465; 15 R492). -/
def datagramLen (l : List Byte) : Nat := 8 + 22 + l.length

/-- A DTLS record: application data, or a KeyUpdate of the client, which begins the count of received records anew. One in a datagram of more
than 1400 bytes is discarded and counted (13 R465, R466; 15 R492; DESIGN CHOICE, log 108). -/
def dtlsRecord (s : State) (id : Nat) (auth : RecordAuth) (l : List Byte) : State :=
  if auth.ok && decide (datagramLen l ≤ 1400) then
    if auth.update then
      match sessionOf s id with
      | some _ => onSession s id fun x => { x with last := s.mer, rx := 0 }
      | none => dtlsBad s (id / 4)
    else
      let m := parseMsg l
      arrive s ⟨id, m.1, auth.seq, auth.pcp⟩ m.2
  else dtlsBad s (id / 4)

/-! ## The commands -/

/-- What the control channel does, for a session of either host die. -/
def onChannel (s : State) (id : Nat) (t : State) : Host.Outcome State Fault Refusal :=
  if id < 8 then whenRuns s .service (.next t) else .fault .absentUnit

/-- A ClientHello (13 R465). -/
def execDtlsClientHello (die : Nat) (auth : HelloAuth) (s : State) : Host.Outcome State Fault Refusal :=
  if die < 2 then whenRuns s .service (.next (clientHello s die auth)) else .fault .absentUnit

/-- A DTLS record (13 R466). -/
def execDtlsRecord (id : Nat) (auth : RecordAuth) (l : List Byte) (s : State) : Host.Outcome State Fault Refusal :=
  onChannel s id (dtlsRecord s id auth l)

/-- A session has been idle (13 R465). -/
def execDtlsIdleTimeout (id : Nat) (s : State) : Host.Outcome State Fault Refusal := onChannel s id (idleClose s id)

/-- A KeyUpdate (13 R465). -/
def execKeyUpdate (id : Nat) (s : State) : Host.Outcome State Fault Refusal := onChannel s id (keyUpdate s id)

/-- HELLO (15 R498). -/
def execHello (hdr : MsgHdr) (s : State) : Host.Outcome State Fault Refusal :=
  onChannel s hdr.session (arrive s hdr .hello)

/-- READ (15 R501). -/
def execRead (hdr : MsgHdr) (count : Nat) (entries : List ReadEntry) (s : State) : Host.Outcome State Fault Refusal :=
  onChannel s hdr.session (arrive s hdr (.read count entries))

/-- The sample tick (15 R501). -/
def execReadSample (s : State) : Host.Outcome State Fault Refusal := whenRuns s .service (.next (readSample s))

/-- WRITE (15 R503). -/
def execWrite (hdr : MsgHdr) (count : Nat) (entries : List WriteEntry) (s : State) : Host.Outcome State Fault Refusal :=
  onChannel s hdr.session (arrive s hdr (.write count entries))

/-- The apply tick (15 R503). -/
def execWriteApply (s : State) : Host.Outcome State Fault Refusal := whenRuns s .service (.next (writeApply s))

/-- An access times out (15 R503). -/
def execAccessTimeout (s : State) : Host.Outcome State Fault Refusal := whenRuns s .service (.next (accessTimeout s))

/-- LEDGER_READ (15 R508). -/
def execLedgerRead (hdr : MsgHdr) (first count : Nat) (s : State) : Host.Outcome State Fault Refusal :=
  onChannel s hdr.session (arrive s hdr (.ledgerRead first count))

/-- CERT_GET (15 R509). -/
def execCertGet (hdr : MsgHdr) (kind : Nat) (s : State) : Host.Outcome State Fault Refusal :=
  onChannel s hdr.session (arrive s hdr (.certGet kind))

/-- NOP (15 R497). -/
def execNop (hdr : MsgHdr) (s : State) : Host.Outcome State Fault Refusal :=
  onChannel s hdr.session (arrive s hdr .nop)

/-- ATTEST (16 R541). -/
def execAttest (hdr : MsgHdr) (form part : Nat) (nonce : BitVec 128) (s : State) : Host.Outcome State Fault Refusal :=
  onChannel s hdr.session (arrive s hdr (.attest form part nonce))

/-- IMAGE (16 R539). -/
def execImage (hdr : MsgHdr) (obj chunk total : Nat) (data : List Byte) (s : State) : Host.Outcome State Fault Refusal :=
  onChannel s hdr.session (arrive s hdr (.image obj chunk total data))

end Sys2Proof.Machine
end

