-- ==== Sys2Proof/Machine/Receive.lean ====
section
/-! DEFINITION. A whole cell at an ingress port: the service path, local consumption, groups and forwarding (09 R306, R312, R316 to R319,
R325, R328; 10 R377; 11 R396, R401). -/

namespace Sys2Proof.Machine

/-- A cell of an IDENT joins the message that arrives; OFS 0 begins a new one (11 R397). -/
def identCell (s : State) (port : Nat) (c : FabCell) : State :=
  let l := linkOf s port
  let old := if cellOfs c = 0 then [] else l.rx
  setLink s { l with rx := kvPut old (cellOfs c) (cellPayload c) }

/-- A management cell by its OPCODE: lane requests 1 to 3 (10 R378), STEP_INFO 0x10 (11 R406). 0x11 to 0x1F are ignored (11 R406); any other
is a field outside its range, ignored and counted (10 R378). -/
def mgmtCell (s : State) (port : Nat) (p : Payload) : State :=
  let op := payNat p 0 1
  if op = 0x10 then infoTake s p
  else if 1 ≤ op ∧ op ≤ 3 then takeRequest s port p
  else if 0x11 ≤ op ∧ op ≤ 0x1F then s
  else bump s (portNo port / 6) Reg.laneCntMgmtbad

/-- A checked cell of VC_SVC that this device consumes. -/
def svcCellTake (s : State) (port : Nat) (c : FabCell) : State :=
  let k := cellKind c
  if k = 0x10 then ackTake s port c
  else if k = 0x11 then rreqTake s port c
  else if k = 0x12 then identCell s port c
  else if k = 0x13 then timeTake s port (cellPayload c)
  else mgmtCell s port (cellPayload c)

/-- The service path of a port (R312 rule 1): discovery, time and management cells; ACK and RESEND_REQ name a node and are taken only
on an open port. -/
def servicePath (s : State) (port : Nat) (c : FabCell) : State :=
  if !poolAdmits s c then poolDrop s port
  else
    let r := destCheck s c
    if r.2 then svcCellTake r.1 port c else r.1

/-- A cell for this device in its buffer (R312 rule 3): service cells by their KIND, cells of a step by the reorder window, every other at
once. -/
def localCell (s : State) (port : Nat) (c : FabCell) (buf : Nat) : State :=
  let r := destCheck s c
  if !r.2 then r.1
  else if cellVc c = 3 then svcCellTake r.1 port c
  else if stepCells r.1 then reorder r.1 c s.mer port buf
  else deliverCell r.1 c s.mer port buf

/-- A cell passes through: only its destination acts on its CRC (R328). -/
def passOn (s : State) (port dst : Nat) (c : FabCell) (buf : Nat) : State :=
  let s := if cellCrcOk c then s else bump s (portNo port) Reg.fabCntCrcFwd
  let s := notePassing s c s.mer
  routeUnicast s (some (logicalPort s port)) dst c (s.mer + 32) buf

/-- A cell for a group (R312 rule 4, R325): this node is the destination of its leg, and what it takes in order goes on toward
UPSTREAM or to the ports of the map (R337). -/
def groupCell (s : State) (port : Nat) (c : FabCell) (buf : Nat) : State :=
  match groupFor s (cellDst c - 0xF000) with
  | none => bump s 0 Reg.fabCntNoroute
  | some _ => localCell s port c buf

/-- The ingress buffer that a cell needs is full (R315, R316). A buffer holds a cell until it leaves the lane die: 24 ticks after its
K27.7 for this device, 32 for another egress (01 R34, R35; DEDUCED, log 77). -/
def ingressFull (s : State) (port : Nat) (c : FabCell) : Bool :=
  decide (ingressCap port (cellVc c) ≤
    (s.fab.ingress.filter fun x => x.1 == port && x.2.1 == cellVc c && decide (s.mer < x.2.2)).length)

/-- The cell takes its place in the ingress buffer. -/
def enterIngress (s : State) (port : Nat) (c : FabCell) : State :=
  let stay := if cellDst c = nodeId s then 24 else 32
  { s with fab := { s.fab with ingress :=
    (s.fab.ingress.filter fun x => decide (s.mer < x.2.2)) ++ [(port, cellVc c, s.mer + stay)] } }

/-- The rules of R312 in order, on a port in a state that lets the cell in: a port that is not IN_SERVICE takes only cells to its
neighbour (11 R401). -/
def ruleCell (s : State) (port : Nat) (c : FabCell) : State :=
  let neighbour := cellDst c == 0xFFFE && cellVc c == 3
  let named := cellKind c == 0x10 || cellKind c == 0x11
  if portState s port ≠ 4 && (!neighbour || named) then bump s 0 Reg.fabCntNomatch
  else if neighbour then servicePath s port c
  else if ingressFull s port c then bump s (portNo port) Reg.fabCntOverrun
  else ruleOpen (enterIngress (cross s 3 (laneLink port) c (s.mer + 24)) port c) port c
where
  /-- Rules 2 to 5 on an open port: a cell that the pool admits takes a buffer (14 R481, R486). -/
  ruleOpen (s : State) (port : Nat) (c : FabCell) : State :=
  if dstBad c then bump s 0 Reg.fabCntMalformed
  else if !poolAdmits s c then poolDrop s port
  else
    let b := poolTake s (requester port (cellVc c))
    if cellDst c = nodeId s then localCell b.1 port c b.2
    else if isGroupDst (cellDst c) then groupCell b.1 port c b.2
    else passOn b.1 port (cellDst c) c b.2

/-- The frame before a cell frame was a cell frame too: no K27.7 is required between them (10 R363). -/
def followsCell (s : State) (port : Nat) : Bool :=
  (linkOf s port).lastCell.any fun t => t + (if isHalf port then 2 else 1) == s.mer

/-- A whole cell reaches a port whose lanes run. A cell with a code error, one whose required K27.7 did not arrive, or one that comes while
the port drops cells, is dropped; a code error is counted (R328; 10 R363, R377). -/
def receiveCell (s : State) (port : Nat) (c : FabCell) (line : CellLine) : State :=
  if portState s port < 2 then s
  else
    let lost := match line with
      | .sound => false
      | .codeError => true
      | .noK277 => !followsCell s port
    let s := setLink s { linkOf s port with lastCell := some s.mer }
    let s := sampleCell s port c
    if lost then bump s (portNo port) Reg.fabCntCodeerr else if dropsCells s port then s else ruleCell s port c

/-- CELL_RECEIVE (R312). -/
def execCellReceive (port : Nat) (c : FabCell) (line : CellLine) (s : State) : Host.Outcome State Fault Refusal :=
  onPort s port (receiveCell s port c line)

end Sys2Proof.Machine
end

