-- ==== Sys2Proof/Machine/Dispatch.lean ====
section
/-! DEFINITION. The meaning of every command: one arm for each constructor, each a call of its own meaning. -/

namespace Sys2Proof.Machine

def exec (i : Instr) (s : State) : Host.Outcome State Fault Refusal :=
  match i with
  | .load => Sys2Proof.Machine.execLoad s
  | .loadComplete => Sys2Proof.Machine.execLoadComplete s
  | .arm => Sys2Proof.Machine.execArm s
  | .abort => Sys2Proof.Machine.execAbort s
  | .discard => Sys2Proof.Machine.execDiscard s
  | .startBarrierLateArm => Sys2Proof.Machine.execStartBarrierLateArm s
  | .startBarrierUp => Sys2Proof.Machine.execStartBarrierUp s
  | .startBarrierZenith => Sys2Proof.Machine.execStartBarrierZenith s
  | .startOutcomeCell => Sys2Proof.Machine.execStartOutcomeCell s
  | .stepInfoSend => Sys2Proof.Machine.execStepInfoSend s
  | .engineRun unit => Sys2Proof.Machine.execEngineRun unit s
  | .recordComplete unit => Sys2Proof.Machine.execRecordComplete unit s
  | .releaseTick unit => Sys2Proof.Machine.execReleaseTick unit s
  | .deadlineJudgement => Sys2Proof.Machine.execDeadlineJudgement s
  | .outcomeCut => Sys2Proof.Machine.execOutcomeCut s
  | .obarUpSend => Sys2Proof.Machine.execObarUpSend s
  | .obarDownSend => Sys2Proof.Machine.execObarDownSend s
  | .outcomeHeld => Sys2Proof.Machine.execOutcomeHeld s
  | .outcomeCellSend => Sys2Proof.Machine.execOutcomeCellSend s
  | .outcomeLost => Sys2Proof.Machine.execOutcomeLost s
  | .stepBoundary => Sys2Proof.Machine.execStepBoundary s
  | .fwHandoverTimeout => Sys2Proof.Machine.execFwHandoverTimeout s
  | .holdIntervalEnd => Sys2Proof.Machine.execHoldIntervalEnd s
  | .rejoinAdmit => Sys2Proof.Machine.execRejoinAdmit s
  | .stepInfoReceive port payload => Sys2Proof.Machine.execStepInfoReceive port payload s
  | .cellReceive port cell line => Sys2Proof.Machine.execCellReceive port cell line s
  | .ackIdleTimeout key => Sys2Proof.Machine.execAckIdleTimeout key s
  | .ackReceive port cell => Sys2Proof.Machine.execAckReceive port cell s
  | .resendReqTimeout key => Sys2Proof.Machine.execResendReqTimeout key s
  | .resendReqReceive port cell => Sys2Proof.Machine.execResendReqReceive port cell s
  | .ackWaitTimeout port key => Sys2Proof.Machine.execAckWaitTimeout port key s
  | .cellEgress resource => Sys2Proof.Machine.execCellEgress resource s
  | .markerFrameSend port => Sys2Proof.Machine.execMarkerFrameSend port s
  | .markerFrameReceive port lane marker arrival64 => Sys2Proof.Machine.execMarkerFrameReceive port lane marker arrival64 s
  | .timeCellSend port => Sys2Proof.Machine.execTimeCellSend port s
  | .timeCellReceive port payload => Sys2Proof.Machine.execTimeCellReceive port payload s
  | .timeParentTimeout => Sys2Proof.Machine.execTimeParentTimeout s
  | .identSend port => Sys2Proof.Machine.execIdentSend port s
  | .identReceive port msg auth => Sys2Proof.Machine.execIdentReceive port msg auth s
  | .noIdentTimeout port => Sys2Proof.Machine.execNoIdentTimeout port s
  | .laneLos die lane => Sys2Proof.Machine.execLaneLos die lane s
  | .laneLol die lane => Sys2Proof.Machine.execLaneLol die lane s
  | .laneRelock die lane => Sys2Proof.Machine.execLaneRelock die lane s
  | .laneRelockTimeout die lane => Sys2Proof.Machine.execLaneRelockTimeout die lane s
  | .laneCode die lane half groups => Sys2Proof.Machine.execLaneCode die lane half groups s
  | .mgmtRequestReceive port payload => Sys2Proof.Machine.execMgmtRequestReceive port payload s
  | .spareSubstitution die lane spareOk => Sys2Proof.Machine.execSpareSubstitution die lane spareOk s
  | .recoveryCheckStart port lane => Sys2Proof.Machine.execRecoveryCheckStart port lane s
  | .recoveryCheckEnd die lane errors detected => Sys2Proof.Machine.execRecoveryCheckEnd die lane errors detected s
  | .bringupStageComplete port => Sys2Proof.Machine.execBringupStageComplete port s
  | .bringupStageTimeout port lane reason => Sys2Proof.Machine.execBringupStageTimeout port lane reason s
  | .bringupIdleEnd port => Sys2Proof.Machine.execBringupIdleEnd port s
  | .prbsStart port => Sys2Proof.Machine.execPrbsStart port s
  | .prbsEnd port heard detected errors => Sys2Proof.Machine.execPrbsEnd port heard detected errors s
  | .cellServiceBegin port => Sys2Proof.Machine.execCellServiceBegin port s
  | .loopbackStart port lane => Sys2Proof.Machine.execLoopbackStart port lane s
  | .loopbackEnd port => Sys2Proof.Machine.execLoopbackEnd port s
  | .laneTestWrite die value => Sys2Proof.Machine.execLaneTestWrite die value s
  | .faultMessage msg => Sys2Proof.Machine.execFaultMessage msg s
  | .softRepairDone stack sub => Sys2Proof.Machine.execSoftRepairDone stack sub s
  | .standbySelfCheck page pass => Sys2Proof.Machine.execStandbySelfCheck page pass s
  | .vacateStart stack pc => Sys2Proof.Machine.execVacateStart stack pc s
  | .segmentCopyDone stack pc => Sys2Proof.Machine.execSegmentCopyDone stack pc s
  | .pinRepairDone stack pc ok => Sys2Proof.Machine.execPinRepairDone stack pc ok s
  | .memPcLost stack pc => Sys2Proof.Machine.execMemPcLost stack pc s
  | .thermalReading stack temp => Sys2Proof.Machine.execThermalReading stack temp s
  | .refreshPeriod => Sys2Proof.Machine.execRefreshPeriod s
  | .commitStageEmpty => Sys2Proof.Machine.execCommitStageEmpty s
  | .vacate stack pc => Sys2Proof.Machine.execVacate stack pc s
  | .restore stack pc => Sys2Proof.Machine.execRestore stack pc s
  | .memSplitWrite units => Sys2Proof.Machine.execMemSplitWrite units s
  | .start mov channel => Sys2Proof.Machine.execStart mov channel s
  | .cancel mov channel => Sys2Proof.Machine.execCancel mov channel s
  | .recover mov => Sys2Proof.Machine.execRecover mov s
  | .moverTransferDone mov channel => Sys2Proof.Machine.execMoverTransferDone mov channel s
  | .frameReceive port frame fecBad => Sys2Proof.Machine.execFrameReceive port frame fecBad s
  | .frameDequeue port => Sys2Proof.Machine.execFrameDequeue port s
  | .hostLinkDown port => Sys2Proof.Machine.execHostLinkDown port s
  | .rdmaWritePacket die pkt => Sys2Proof.Machine.execRdmaWritePacket die pkt s
  | .rdmaWriteAck die qp => Sys2Proof.Machine.execRdmaWriteAck die qp s
  | .rdmaReadRequest die pkt => Sys2Proof.Machine.execRdmaReadRequest die pkt s
  | .finish die window => Sys2Proof.Machine.execFinish die window s
  | .reopen die window => Sys2Proof.Machine.execReopen die window s
  | .stagingDigestDone die => Sys2Proof.Machine.execStagingDigestDone die s
  | .dtlsClientHello die auth => Sys2Proof.Machine.execDtlsClientHello die auth s
  | .dtlsRecord session authentic message => Sys2Proof.Machine.execDtlsRecord session authentic message s
  | .dtlsIdleTimeout session => Sys2Proof.Machine.execDtlsIdleTimeout session s
  | .keyUpdate session => Sys2Proof.Machine.execKeyUpdate session s
  | .hello h => Sys2Proof.Machine.execHello h s
  | .read h count entries => Sys2Proof.Machine.execRead h count entries s
  | .readSample => Sys2Proof.Machine.execReadSample s
  | .write h count entries => Sys2Proof.Machine.execWrite h count entries s
  | .writeApply => Sys2Proof.Machine.execWriteApply s
  | .accessTimeout => Sys2Proof.Machine.execAccessTimeout s
  | .ledgerRead h first count => Sys2Proof.Machine.execLedgerRead h first count s
  | .certGet h kind => Sys2Proof.Machine.execCertGet h kind s
  | .nop h => Sys2Proof.Machine.execNop h s
  | .attest h form part nonce => Sys2Proof.Machine.execAttest h form part nonce s
  | .image h obj chunk total data => Sys2Proof.Machine.execImage h obj chunk total data s
  | .advance => Sys2Proof.Machine.execAdvance s
  | .select slot => Sys2Proof.Machine.execSelect slot s
  | .erase slot => Sys2Proof.Machine.execErase slot s
  | .pending => Sys2Proof.Machine.execPending s
  | .sign => Sys2Proof.Machine.execSign s
  | .secCtAckWrite value => Sys2Proof.Machine.execSecCtAckWrite value s
  | .clear => Sys2Proof.Machine.execClear s
  | .fltAckWrite page mask => Sys2Proof.Machine.execFltAckWrite page mask s
  | .fltAckSeqWrite seq => Sys2Proof.Machine.execFltAckSeqWrite seq s
  | .fltSelWrite seq => Sys2Proof.Machine.execFltSelWrite seq s
  | .bruLagSelWrite index => Sys2Proof.Machine.execBruLagSelWrite index s
  | .cntFreezeWrite page freeze => Sys2Proof.Machine.execCntFreezeWrite page freeze s
  | .hostPolBurstWrite die value => Sys2Proof.Machine.execHostPolBurstWrite die value s
  | .qpValidWrite die cfg psn => Sys2Proof.Machine.execQpValidWrite die cfg psn s
  | .registerWrite page offset mask value => Sys2Proof.Machine.execRegisterWrite page offset mask value s
  | .blockReset page unit => Sys2Proof.Machine.execBlockReset page unit s
  | .blockIdle page unit idle => Sys2Proof.Machine.execBlockIdle page unit idle s
  | .blockResetRelease page unit => Sys2Proof.Machine.execBlockResetRelease page unit s
  | .reset => Sys2Proof.Machine.execReset s
  | .exitDusk => Sys2Proof.Machine.execExitDusk s
  | .enterDusk => Sys2Proof.Machine.execEnterDusk s
  | .modResetNAssert long => Sys2Proof.Machine.execModResetNAssert long s
  | .modResetNRelease => Sys2Proof.Machine.execModResetNRelease s
  | .flashInterlockEnd => Sys2Proof.Machine.execFlashInterlockEnd s
  | .powerOn => Sys2Proof.Machine.execPowerOn s
  | .startSequence result detail => Sys2Proof.Machine.execStartSequence result detail s
  | .selfTimedAckTimeout page => Sys2Proof.Machine.execSelfTimedAckTimeout page s
  | .startTimeout => Sys2Proof.Machine.execStartTimeout s
  | .scrubDone => Sys2Proof.Machine.execScrubDone s
  | .pwrCmdRun => Sys2Proof.Machine.execPwrCmdRun s
  | .pwrCmdQuiet => Sys2Proof.Machine.execPwrCmdQuiet s
  | .pwrCmdStandby => Sys2Proof.Machine.execPwrCmdStandby s
  | .pwrCmdSleep => Sys2Proof.Machine.execPwrCmdSleep s
  | .pwrCmdOff => Sys2Proof.Machine.execPwrCmdOff s
  | .powerStateEntered => Sys2Proof.Machine.execPowerStateEntered s
  | .vinUndervoltage millivolt lasting => Sys2Proof.Machine.execVinUndervoltage millivolt lasting s
  | .vinOvervoltage millivolt => Sys2Proof.Machine.execVinOvervoltage millivolt s
  | .vinStable millivolt => Sys2Proof.Machine.execVinStable millivolt s
  | .railInRegulation rail => Sys2Proof.Machine.execRailInRegulation rail s
  | .railSequenceTimeout rail => Sys2Proof.Machine.execRailSequenceTimeout rail s
  | .railSequenceRetry => Sys2Proof.Machine.execRailSequenceRetry s
  | .pwrPhase rail phase milliamp overcurrent => Sys2Proof.Machine.execPwrPhase rail phase milliamp overcurrent s
  | .pwrRail rail millivolt => Sys2Proof.Machine.execPwrRail rail millivolt s
  | .overtemp die temp => Sys2Proof.Machine.execOvertemp die temp s
  | .frefLoss => Sys2Proof.Machine.execFrefLoss s
  | .frefReturn => Sys2Proof.Machine.execFrefReturn s
  | .hrefLoss => Sys2Proof.Machine.execHrefLoss s
  | .smbusReadWord code => Sys2Proof.Machine.execSmbusReadWord code s
  | .smbusWrite code data => Sys2Proof.Machine.execSmbusWrite code data s
  | .lifetimeSave => Sys2Proof.Machine.execLifetimeSave s
  | .outcomeWindowOpen => Sys2Proof.Machine.execOutcomeWindowOpen s
  | .fwHandoverDone => Sys2Proof.Machine.execFwHandoverDone s
  | .hostLinkUp port => Sys2Proof.Machine.execHostLinkUp port s
  | .hrefReturn => Sys2Proof.Machine.execHrefReturn s
  | .signalDetect port => Sys2Proof.Machine.execSignalDetect port s

end Sys2Proof.Machine
end

