-- ==== Sys2Proof/Safety.lean ====
section
/-! DEFINITION. What counts as a safe step of the block, and the terms in which the statements say what a command leaves
unchanged. -/

namespace Sys2Proof.Safety

open Machine

/-- A step is safe if it answers a next state: no fault and no refusal. -/
def SafeStep (s : State) : Prop := ∃ t, step s = .next t

/-- The parts of the state. -/
inductive Part where
  | queue | out | free | status | mer | regs | pln | eng | mem | fab | lanes | sync | ct | flt | mfg | owner | fw | ctl | host | pwr | tie
  deriving DecidableEq, Repr

/-- A part is the same in two states. -/
def Part.same (s t : State) : Part → Prop
  | .queue => t.pending = s.pending
  | .out => t.out = s.out
  | .free => t.freeCtr = s.freeCtr
  | .status => t.cmdStatus = s.cmdStatus
  | .mer => t.mer = s.mer
  | .regs => t.regs = s.regs
  | .pln => t.pln = s.pln
  | .eng => t.eng = s.eng
  | .mem => t.mem = s.mem
  | .fab => t.fab = s.fab
  | .lanes => t.lanes = s.lanes
  | .sync => t.sync = s.sync
  | .ct => t.ct = s.ct
  | .flt => t.flt = s.flt
  | .mfg => t.mfg = s.mfg
  | .owner => t.owner = s.owner
  | .fw => t.fw = s.fw
  | .ctl => t.ctl = s.ctl
  | .host => t.host = s.host
  | .pwr => t.pwr = s.pwr
  | .tie => t.tie = s.tie

/-- Every part but the named ones is the same. -/
def Frame (changed : List Part) (s t : State) : Prop := ∀ p : Part, p ∉ changed → p.same s t

/-- A field of a register in its place: the index of a selector, the instance of its page, which register of its row, the field. -/
structure Place where
  idx : Nat
  inst : Nat
  n : Nat
  fld : Fld
  deriving DecidableEq, Repr

/-- A field of an instance of a page. -/
def place (inst : Nat) (f : Fld) : Place := ⟨0, inst, 0, f⟩

/-- The six registers of a digest. -/
def digestPlaces (inst : Nat) (f : Fld) : List Place := (List.range 6).map fun n => ⟨0, inst, n, f⟩

/-- A place holds a bit of a register. -/
def Place.covers (p : Place) (idx page off b : Nat) : Prop :=
  p.idx = idx ∧ pageOf p.fld.kind p.inst = page ∧ p.fld.off + 8 * p.n = off ∧ p.fld.lo ≤ b ∧ b < p.fld.lo + p.fld.width

/-- Every bit of every register is the same but in the named places. -/
def RegsBut (ps : List Place) (s t : State) : Prop :=
  ∀ idx page off b, page < 65536 → off < 4096 → (∀ p ∈ ps, ¬ p.covers idx page off b) →
    (getReg t idx page off).getLsbD b = (getReg s idx page off).getLsbD b

/-- Every register of every page kind but the named ones is the same. -/
def PagesBut (kinds : List Nat) (s t : State) : Prop :=
  ∀ idx page off, page < 65536 → off < 4096 → pageKind page ∉ kinds → getReg t idx page off = getReg s idx page off

/-- Every byte of HBM reads as before. -/
def SameBytes (s t : State) : Prop := ∀ a, readByte t a = readByte s a

/-- Every byte of HBM outside a range reads as before. -/
def SameBytesBut (base len : Nat) (s t : State) : Prop := ∀ a, ¬ (base ≤ a ∧ a < base + len) → readByte t a = readByte s a

/-- Every byte of HBM and every register has one home: the keys of both stores strictly rise, and no undefined range carries the number
of an event that is still to come, so that no two events share their free bytes. -/
def OneHome (s : State) : Prop :=
  keysRise none s.mem.hbm = true ∧ keysRise none s.regs = true ∧ ∀ u ∈ s.mem.undef, u.epoch < s.mem.epoch

/-- A request of an open session that SD0 can take up at once: the session kept no response to the same TYPE and TAG, and no request waits. -/
def Asks (s : State) (x : Session) (kind tag : Nat) : Prop :=
  x.id < 8 ∧ runs s .service = true ∧ sessionOf s x.id = some x ∧ s.ctl.requests = [] ∧ s.ctl.access = none ∧
    ∀ k ∈ x.kept, ¬ (k.kind = kind ∧ k.tag = tag)

/-- A frame pool of a host die has a buffer for any use that its level allows. -/
abbrev HasBuffer (s : State) (die pool : Nat) : Prop :=
  let p := framePoolOf s die pool
  frameLevel s die pool < 2 ∧ p.broken = false ∧ p.first ≠ listEnd ∧ (p.words01 p.first).2 = freeMark

/-- The first buffers of a free list. -/
def freeChain (p : FramePool) : Nat → Nat → List Nat
  | 0, _ => []
  | n + 1, i => i :: freeChain p n (p.words01 i).1

/-- A frame pool that is less than half full has three free buffers at the front of its list. -/
abbrev PoolReady (s : State) (die pool : Nat) : Prop :=
  let p := framePoolOf s die pool
  let l := freeChain p 3 p.first
  frameLevel s die pool = 0 ∧ 2 * (framesUsed s die pool + 3) < framePoolSize pool ∧ p.broken = false ∧ l.Nodup ∧
    ∀ i ∈ l, i ≠ listEnd ∧ (p.words01 i).2 = freeMark

/-- A queue of a host port is empty, and its weight, limit and WRED let a frame of the device join it. -/
abbrev QueueTakes (s : State) (port q : Nat) : Prop :=
  (queueOf s port q).frames = [] ∧ (queueOf s port q).avg = 0 ∧ getFI s 0 port q Reg.hostQ_weight ≠ 0 ∧
    10 ≤ getFI s 0 port q Reg.hostQ_limit ∧ getFI s 0 port q Reg.hostRedG_max ≠ 0 ∧
    (getFI s 0 port q Reg.hostRedG_maxp = 0 ∨ getFI s 0 port q Reg.hostRedG_min ≠ 0)

/-- An answer of the device can take its way out through a host port: by the queues of a port in service, or, where only the logic of H0 and
H4 runs, at once. -/
abbrev CanAnswer (s : State) (port : Nat) : Prop :=
  port < 8 ∧
    ((hostServes s (hostDie port) = true ∧ (∀ q < 8, QueueTakes s port q) ∧ ∀ pool ∈ [1, 2, 3], PoolReady s (hostDie port) pool) ∨
     (hostServes s (hostDie port) = false ∧ portServes s port = true ∧ hostLink s port = true))

/-- An answer takes its way out through a host port: its frame waits last in a queue there, or it is the last thing that has left. -/
def Told (t : State) (port : Nat) (what : Says) : Prop :=
  (∃ q < 8, ∃ l g, (queueOf t port q).frames = l ++ [g] ∧ g.said = some what) ∨ ∃ tick l, t.out = .said tick port what :: l

/-- An answer goes out where it can, and then changes only the named page kinds and parts. -/
def Sent (s t : State) (port : Nat) (what : Says) (pages : List Nat) (parts : List Part) : Prop :=
  CanAnswer s port → Told t port what ∧ SameBytes s t ∧ PagesBut pages s t ∧ Frame (parts ++ [.out, .free, .host]) s t

/-- A session keeps a response for a request that comes again. -/
def KeptAnswer (t : State) (id : Nat) (bytes : List Byte) : Prop :=
  ∃ y, sessionOf t id = some y ∧ ∃ k ∈ y.kept, k.bytes = bytes

/-- A request of a session is answered: SD0 keeps the response and sends it to the session's client. -/
def Answered (s t : State) (x : Session) (bytes : List Byte) (pages : List Nat) (parts : List Part) : Prop :=
  KeptAnswer t x.id bytes ∧ Sent s t x.peer.port (.response x.id bytes) pages parts

/-- A packet of so many bytes of frame comes to a die's responder: in the frame that waits for it there, or one that was not seen finds a
buffer. -/
abbrev PacketComes (s : State) (die len : Nat) : Prop :=
  let waits := s.host.locals.find? fun f => f.roce && hostDie f.port == die
  let e := getF s die Reg.hostCfg_ageExp
  (waits = none ∧ HasBuffer s die (poolFor len)) ∨ waits.any (fun f => e == 0 || decide (s.mer ≤ f.stamp + 2 ^ e)) = true

/-- Nothing is on its way that a tick could bring about. -/
abbrev Quiet (s : State) : Prop :=
  s.eng.due = [] ∧ s.eng.jobs = [] ∧ s.fab.transit = [] ∧ s.fab.home = [] ∧ s.host.locals = [] ∧ s.host.ctlUse = [] ∧
    s.host.packets = [] ∧ s.host.caps = [] ∧ s.host.digests = [] ∧ s.flt.queue = []

/-- The units, registers and sessions that a command names stand in the device: where they do, it completes. A register command that names
an absent page completes too, with NOPAGE. -/
def unitsStand (s : State) : Instr → Bool
  | .engineRun u | .recordComplete u | .releaseTick u => unitExists u
  | .stepInfoReceive port _ | .cellReceive port _ _ | .ackReceive port _ | .resendReqReceive port _ | .ackWaitTimeout port _
  | .markerFrameSend port | .markerFrameReceive port _ _ _ | .timeCellSend port | .timeCellReceive port _ | .identSend port
  | .identReceive port _ _ | .noIdentTimeout port | .mgmtRequestReceive port _ | .recoveryCheckStart port _
  | .bringupStageComplete port | .bringupStageTimeout port _ _ | .bringupIdleEnd port | .prbsStart port | .prbsEnd port _ _ _
  | .cellServiceBegin port | .loopbackStart port _ | .loopbackEnd port | .signalDetect port => fitsPort s (portNo port)
  | .cellEgress resource => resource / 2 ^ 28 != 1 || fitsPort s (portNo (resource % 512))
  | .laneLos die _ | .laneLol die _ | .laneRelock die _ | .laneRelockTimeout die _ | .laneCode die _ _ _ | .spareSubstitution die _ _
  | .recoveryCheckEnd die _ _ _ => fitsDie s die
  | .softRepairDone stack _ | .thermalReading stack _ => fitsStack s stack
  | .vacateStart stack pc | .segmentCopyDone stack pc | .pinRepairDone stack pc _ | .memPcLost stack pc =>
    fitsStack s stack && decide (pc < 32)
  | .vacate stack pc | .restore stack pc => !fitsStack s stack || decide (pc < 32)
  | .standbySelfCheck page _ => pagePresent s page && [2, 3, 5].contains (pageKind page)
  | .blockIdle page _ _ | .blockResetRelease page _ | .selfTimedAckTimeout page => pagePresent s page
  | .start mov ch | .cancel mov ch => decide (4 ≤ mov) || decide (ch < 16)
  | .moverTransferDone mov ch => decide (mov < 4) && decide (ch < 16)
  | .frameReceive port _ _ | .frameDequeue port | .hostLinkDown port | .hostLinkUp port => decide (port < 8)
  | .rdmaWritePacket die _ | .rdmaWriteAck die _ | .rdmaReadRequest die _ | .stagingDigestDone die | .dtlsClientHello die _ => decide (die < 2)
  | .dtlsRecord id _ _ | .dtlsIdleTimeout id | .keyUpdate id => decide (id < 8)
  | .hello h | .read h _ _ | .write h _ _ | .ledgerRead h _ _ | .certGet h _ | .nop h | .attest h _ _ _ | .image h _ _ _ _ =>
    decide (h.session < 8)
  | .select slot | .erase slot => decide (slot < 2)
  | .bruLagSelWrite index => decide (index < 256)
  | .pwrPhase rail phase _ _ => decide (phase < railFitted rail)
  | .pwrRail rail _ => decide (rail < 9)
  | .load | .loadComplete | .arm | .abort | .discard | .startBarrierLateArm | .startBarrierUp | .startBarrierZenith
  | .startOutcomeCell | .stepInfoSend | .deadlineJudgement | .outcomeCut | .obarUpSend | .obarDownSend | .outcomeHeld
  | .outcomeCellSend | .outcomeLost | .stepBoundary | .fwHandoverTimeout | .holdIntervalEnd | .rejoinAdmit | .ackIdleTimeout _
  | .resendReqTimeout _ | .timeParentTimeout | .laneTestWrite _ _ | .faultMessage _ | .refreshPeriod | .commitStageEmpty
  | .memSplitWrite _ | .recover _ | .finish _ _ | .reopen _ _ | .readSample | .writeApply | .accessTimeout | .advance | .pending
  | .sign | .secCtAckWrite _ | .clear | .fltAckWrite _ _ | .fltAckSeqWrite _ | .fltSelWrite _ | .cntFreezeWrite _ _
  | .hostPolBurstWrite _ _ | .qpValidWrite _ _ _ | .registerWrite _ _ _ _ | .blockReset _ _ | .reset | .exitDusk | .enterDusk
  | .modResetNAssert _ | .modResetNRelease | .flashInterlockEnd | .powerOn | .startSequence _ _ | .startTimeout | .scrubDone
  | .pwrCmdRun | .pwrCmdQuiet | .pwrCmdStandby | .pwrCmdSleep | .pwrCmdOff | .powerStateEntered | .vinUndervoltage _ _
  | .vinOvervoltage _ | .vinStable _ | .railInRegulation _ | .railSequenceTimeout _ | .railSequenceRetry | .overtemp _ _ | .frefLoss
  | .frefReturn | .hrefLoss | .smbusReadWord _ | .smbusWrite _ _ | .lifetimeSave | .outcomeWindowOpen | .fwHandoverDone | .hrefReturn => true

/-- No byte of HBM is uncorrectable and no pseudo-channel is lost. -/
abbrev SoundHbm (s : State) : Prop := s.mem.ue = [] ∧ s.mem.dead = [] ∧ (s.mem.relocs.any (·.lost)) = false

end Sys2Proof.Safety
end

