-- ==== Sys2Proof/Certificates/Slice0/Obligations.lean ====
section
/-! DEFINITION. The statements for the provers. -/

open Sys2Proof Sys2Proof.Machine Sys2Proof.Safety

/-- A step runs the command at the front of the queue on the rest (the model's form of the block). -/
def Obligations.StepRunsFrontCommand : Prop :=
  ∀ (c : Instr) (rest : List Instr) (s : State), step { s with pending := c :: rest } = exec c { s with pending := rest }

/-! ## The plan (02) -/

/-- R91: LOAD fits EMPTY and REFUSED; R68: it starts the loader on the image that PLN_LOAD_ADDR and PLN_LOAD_LEN name. Nothing else changes.
R91 and R69: commands that do not fit the state of the banks are ignored with status STATE; a LOAD while the staged state is LOADING or
LOADED leaves CODE BUSY. -/
def Obligations.PlanCommandsStartOrAreIgnored : Prop :=
  (∀ s : State, runs s .core = true → getF s 0 Reg.pwrState_state = 0 → getF s 0 Reg.fltState_faultstate = 0 →
    (getF s 0 Reg.plnState_staged = 0 ∨ getF s 0 Reg.plnState_staged = 3) →
    ∃ t, exec .load s = .next t ∧ getF t 0 Reg.plnState_staged = 1 ∧ t.cmdStatus = 0 ∧
      t.pln = { s.pln with
        loading := some (getF s 0 Reg.plnLoadAddr_offset, getF s 0 Reg.plnLoadLen_len, fwPending s), staged := none } ∧
      RegsBut [place 0 Reg.plnState_staged] s t ∧ Frame [.status, .regs, .pln] s t) ∧
  (∀ s : State, runs s .core = true →
    (getF s 0 Reg.plnState_staged = 1 ∨ getF s 0 Reg.plnState_staged = 2 →
      ∃ t, exec .load s = .next t ∧ t.cmdStatus = 8 ∧ getF t 0 Reg.plnState_code = 0x15 ∧
        RegsBut [place 0 Reg.plnState_code] s t ∧ Frame [.status, .regs] s t) ∧
    (getF s 0 Reg.plnState_staged ≠ 2 → exec .arm s = .next { s with cmdStatus := 8 }) ∧
    (getF s 0 Reg.plnState_active ≠ 2 → exec .abort s = .next { s with cmdStatus := 8 }) ∧
    (getF s 0 Reg.plnState_staged = 1 → exec .discard s = .next { s with cmdStatus := 8 }))

/-- R68, R622: the loader ends in LOADED with the plan of the image, or in REFUSED with no plan, a code and a position, one more refusal
counted; a read that a check needs and that is uncorrectable gives UNREADABLE before that check. HBM and the plan that runs are as they
were. That every byte is read in this tick, and the position of a refusal that no section causes, are the model's choices (logs 74, 79). -/
def Obligations.LoaderLoadsOrRefuses : Prop :=
  ∀ (s : State) (ofs len : Nat) (pend : Bool), runs s .core = true → s.pln.loading = some (ofs, len, pend) →
    let img := readBytes s ofs len
    let refused := fun (t : State) (r : Nat × Nat × Nat) =>
      getF t 0 Reg.plnState_staged = 3 ∧ t.pln.staged = none ∧ getF t 0 Reg.plnState_code = r.1 % 2 ^ 16 ∧
        getF t 0 Reg.plnRefusalAt_section = r.2.1 % 2 ^ 16 ∧ getF t 0 Reg.plnRefusalAt_record = r.2.2 % 2 ^ 32 ∧
        getF t 0 Reg.plnCntRefused = (getF s 0 Reg.plnCntRefused + 1) % 2 ^ 64
    ∃ t, exec .loadComplete s = .next t ∧ t.pln.loading = none ∧ t.pln.active = s.pln.active ∧ SameBytes s t ∧
      (lengthOk s ofs len = false → refused t (2, 0xFFFF, 0)) ∧
      (lengthOk s ofs len = true →
        ((firstUe s (ofs + 8) 8).isSome = true → refused t (0x16, 0xFFFF, 0)) ∧
        (firstUe s (ofs + 8) 8 = none →
          match checkLength s ofs len (readBytes s ofs 16) with
          | some r => refused t r
          | none =>
            ((firstUe s ofs len).isSome = true → refused t (0x16, 0xFFFF, 0)) ∧
            (firstUe s ofs len = none →
              match checkImage s ofs len pend img with
              | some r => refused t r
              | none => getF t 0 Reg.plnState_staged = 2 ∧ t.pln.staged = some (planOf img) ∧
                  getF t 0 Reg.plnCntRefused = getF s 0 Reg.plnCntRefused)))

/-- R70, R90: ARM while no plan runs moves the staged plan to the active bank, where it waits for its start barrier; DISCARD empties the
staged bank. R79: ABORT sets the ABORT bit of this device's contribution, or from the cut on that of the next execution, and reports cause
ABORT; it cuts no step short. -/
def Obligations.ArmDiscardAndAbortActOnTheirBank : Prop :=
  ((∀ (s : State) (p : Plan), runs s .core = true → getF s 0 Reg.pwrState_state = 0 → getF s 0 Reg.fltState_faultstate = 0 →
    s.pln.handover = none → getF s 0 Reg.plnState_staged = 2 → s.pln.staged = some p → getF s 0 Reg.plnState_active = 0 →
    getF s 0 Reg.secFwAct_pending = 0 → powerChanging s = false →
    ∃ t, exec .arm s = .next t ∧ t.cmdStatus = 0 ∧ getF t 0 Reg.plnState_active = 1 ∧ getF t 0 Reg.plnState_staged = 0 ∧
      t.pln.active = some p ∧ t.pln.staged = none ∧ t.pln.startAt = getF s 0 Reg.plnStartAt_start ∧
      getDigest t 0 Reg.plnDigest_digest = p.planDigest ∧ SameBytes s t ∧
      Frame [.status, .regs, .pln, .mem, .lanes, .tie, .sync] s t ∧ PagesBut [1, 0xB, 0xD] s t) ∧
  (∀ s : State, runs s .core = true → getF s 0 Reg.plnState_staged ≠ 1 →
    ∃ t, exec .discard s = .next t ∧ t.cmdStatus = 0 ∧ getF t 0 Reg.plnState_staged = 0 ∧ t.pln.staged = none ∧
      t.pln.active = s.pln.active ∧ getF t 0 Reg.plnState_active = getF s 0 Reg.plnState_active ∧ SameBytes s t ∧
      Frame [.status, .regs, .pln, .lanes, .sync, .mem, .flt, .pwr] s t ∧
      (s.mem.retireWait = [] → Frame [.status, .regs, .pln, .lanes, .sync] s t))) ∧
  (∀ s : State, runs s .core = true → getF s 0 Reg.plnState_active = 2 →
    ∃ t, exec .abort s = .next t ∧ t.cmdStatus = 0 ∧
      (pastCut s = false → t.pln = { s.pln with abort := true, reports := s.pln.reports ++ [⟨9, nodeId s, s.mer⟩] }) ∧
      (pastCut s = true → t.pln = { s.pln with nextAbort := true, nextReports := s.pln.nextReports ++ [⟨9, nodeId s, s.mer⟩] }) ∧
      Frame [.status, .pln] s t)

/-- R416 to R418: the four events of the start barrier at a device that is in it. A device armed too late, and one that holds no COMMIT 32
ticks before S, return to IDLE with code START; the contribution of the subtree goes up at S - 8192 or once every child's is in; the zenith
forms the result at S - 4096, where a set that covers the losses is wanted. An event that comes in another tick than its own does nothing
(DESIGN CHOICE, log 1). -/
def Obligations.StartBarrierRuns : Prop :=
  (∀ s : State, runs s .core = true → s.pln.starting = true → s.pln.outOfStart = true →
    ∃ t, exec .startBarrierLateArm s = .next t ∧ getF t 0 Reg.plnState_active = 0 ∧ getF t 0 Reg.plnState_code = 0x20 ∧
      t.pln.active = none ∧ SameBytes s t) ∧
  (∀ (s : State) (p : Plan), runs s .core = true → s.pln.starting = true → s.pln.outOfStart = false → s.pln.active = some p →
    s.pln.upSent = false → isZenith s 0 = false → s.mer = startUpAt s →
    (∀ k ∈ obarChildren s, childMissing s k = false) →
    let sent := { s with pln := { s.pln with own := some (startMsg s p), upSent := true, cutDone := true } }
    exec .startBarrierUp s = .next (keepFixed s
      (sendObar (startLosses sent p) 5 (((myNode s 0).map (·.2.parent)).getD 0xFFFF) (startMsg s p) s.mer)) ∧
    ∃ t, exec .startBarrierUp s = .next t ∧ t.pln.upSent = true ∧ t.pln.own = some (startMsg s p) ∧ SameBytes s t) ∧
  (∀ (s : State) (p : Plan), runs s .core = true → s.pln.starting = true → s.pln.outOfStart = false → s.pln.active = some p →
    s.pln.held = none → isZenith s 0 = true → s.pln.startAt = s.mer + 4096 →
    let s0 := dropShort s 5
    let m := { startMsg s0 p with ok := (startMsg s0 p).ok && (coverMsg p (startMsg s0 p)).isSome }
    let formed := { s0 with pln := { s0.pln with own := some m, held := some m, cutDone := true, downSent := true } }
    exec .startBarrierZenith s = .next (keepFixed s (sendDown (startLosses formed p) m s.mer)) ∧
    ∃ t, exec .startBarrierZenith s = .next t ∧ t.pln.held = some m ∧ t.pln.downSent = true ∧ SameBytes s t) ∧
  (∀ (s : State) (p : Plan), runs s .core = true → s.pln.starting = true → s.pln.outOfStart = false → s.pln.active = some p →
    s.pln.cellsSent = false → s.pln.startAt = s.mer + 32 →
    ∃ t, exec .startOutcomeCell s = .next t ∧ t.pln.cellsSent = true ∧ SameBytes s t ∧
      (startCommits (outcomeHeld s) = true → t.pln.active = some p ∧ getF t 0 Reg.plnState_active = getF s 0 Reg.plnState_active) ∧
      (startCommits (outcomeHeld s) = false → t.pln.active = none ∧ getF t 0 Reg.plnState_active = 0 ∧ getF t 0 Reg.plnState_code = 0x20))

/-! ## Engines (01 R39 to R41, 02 R83, 05 R182, 04 R627) -/

/-- R182: at the first RUN tick of a record its unit takes it up: a reduction or barrier record is in work from then on, with nothing
finished and nothing sent. R39: a record in work completes once its inputs are in: the unit sets its completion flag in this tick and holds
the result, and nothing outside the unit changes yet. R83 and R40: at its RELEASE tick a record that completed earlier lets its result
leave, with its slack noted; a record that has not completed is LATE: cause 1 is reported, and no byte and no cell leaves. -/
def Obligations.RecordsAreTakenUpCompletedAndReleased : Prop :=
  (∀ (s : State) (u : Nat) (w : WorkRec), runs s .core = true → unitExists u = true → inStep s = true → unitRuns s u = true →
    unitBusy s u = false → unitRecord s u (fun q => firstRun s u q == some (sinceBase s)) = some w → s.eng.job u w.seq = none →
    exec (.engineRun u) s = .next (keepFixed s (startRecord s u w)) ∧
    ((∃ r, w.body = .red r ∧ r.n ≠ 0) ∨ (∃ r, w.body = .bar r) →
      ∃ t, exec (.engineRun u) s = .next t ∧ t.eng.job u w.seq = some (freshJob s u w.seq 0) ∧ SameBytes s t ∧
        Frame [.eng] s t)) ∧
  (∀ (s : State) (u : Nat) (j : Job) (w : WorkRec), runs s .core = true → unitExists u = true →
    (s.eng.jobs.find? fun j => j.unit == u && j.doneAt.isNone && !j.released && !j.busErr) = some j → recordOf s u j.seq = some w →
    exec (.recordComplete u) s = .next (keepFixed s (finishRecord s j w)) ∧
    (∀ r, w.body = .red r → inputsDone s w = true →
      ∃ t k, exec (.recordComplete u) s = .next t ∧ t.eng.job u j.seq = some k ∧ k.doneAt = some s.mer ∧
        k.cells = (redResult s r w.rid).cells ∧ k.writes = (redResult s r w.rid).writes ∧
        k.flags = (redResult s r w.rid).flags ∧ Frame [.eng] s t) ∧
    (∀ r, w.body = .bar r → inputsDone s w = true →
      ∃ t k, exec (.recordComplete u) s = .next t ∧ t.eng.job u j.seq = some k ∧ k.doneAt = some s.mer ∧
        k.cells = (barResult s r w.rid).cells ∧ k.writes = (barResult s r w.rid).writes ∧
        k.flags = (barResult s r w.rid).flags ∧ Frame [.eng] s t) ∧
    (∀ h, w.body = .home h → todoOf s u j.seq = [] →
      ∃ t k, exec (.recordComplete u) s = .next t ∧ t.eng.job u j.seq = some k ∧ k.doneAt = some s.mer ∧ Frame [.eng] s t) ∧
    (∀ r, w.body = .pool r → runTick s u j.seq = true → j.state = 3 →
      ∃ t, exec (.recordComplete u) s = .next t ∧ t.eng.job u j.seq = some (poolConvert s j r) ∧ Frame [.eng] s t)) ∧
  (∀ (s : State) (u : Nat) (w : WorkRec) (j : Job), runs s .core = true → unitExists u = true → inStep s = true →
    unitRecord s u (fun q => releaseAt s u q == some (sinceBase s)) = some w → s.eng.job u w.seq = some j → j.released = false →
    (∀ d, j.doneAt = some d → d < s.mer → slackMargin s ≤ s.mer - d →
      exec (.releaseTick u) s = .next (keepFixed s (releaseJob (noteSlack s u (s.mer - d)) j w))) ∧
    (j.doneAt = none →
      ∃ t k, exec (.releaseTick u) s = .next t ∧ t.eng.job j.unit j.seq = some k ∧ k.released = true ∧ k.cells = [] ∧ k.writes = [] ∧
        SameBytes s t ∧ t.fab = s.fab ∧
        (pastCut s = false → t.pln = { s.pln with reports := s.pln.reports ++ [⟨1, nodeId s, s.mer⟩] })))

/-- R142, R151, R627: the judgement of a record whose deadline lay 24 ticks ago names every member whose contribution is missing and reports
cause DEADLINE; with none missing nothing changes. -/
def Obligations.DeadlinesAreJudged : Prop :=
  ∀ (s : State) (w : WorkRec), runs s .core = true → inStep s = true → stepWork s = [w] → judgeAt s w = some s.mer →
    (s.eng.missed.any (·.1 == w.rid)) = false →
    (missingInputs s w = [] → exec .deadlineJudgement s = .next s) ∧
    (missingInputs s w ≠ [] → pastCut s = false →
      ∃ t, exec .deadlineJudgement s = .next t ∧
        t.eng.missed = s.eng.missed ++ (missingInputs s w).map (fun n => (w.rid, n, (deadlineOf s w).getD s.mer)) ∧
        t.pln = { s.pln with reports := s.pln.reports ++ [⟨2, nodeId s, s.mer⟩] } ∧ Frame [.eng, .pln] s t)

/-! ## The outcome barrier and the boundary (02 R72 to R82, 04 R626, 09 R344, 11 R406 to R408) -/

/-- R626: at its cut C a device fixes its contribution, at the zenith the outcome; what was reported at or after the cut belongs to the next
execution. R91, R408: at W a running plan is ENDING if it ends where this execution commits; at W of a rejoin point the waiting ports are
admitted once, and no loss is added. -/
def Obligations.WindowAndCutOfTheOutcome : Prop :=
  (∀ s : State, runs s .core = true → barrierOpen s = true → s.pln.cutDone = false →
    (s.mer ≠ cutAt s → exec .outcomeCut s = .next s) ∧
    (s.mer = cutAt s →
      let s0 := dropShort s 5
      ∃ t, exec .outcomeCut s = .next t ∧ t.pln.cutDone = true ∧
        t.pln.own = some (if isZenith s 0 then formOutcome s0 (cutMsg s0 (cutAt s)) else cutMsg s0 (cutAt s)) ∧
        (s.pln.hold = none →
          t.pln.nextReports = s.pln.nextReports ++ s.pln.reports.filter (fun r => decide (cutAt s ≤ r.tick))) ∧
        (s.pln.hold.isSome = true → t.pln.nextReports = s.pln.nextReports ∧ t.pln.reports = s.pln.reports) ∧
        (s0 = s → Frame [.pln] s t) ∧ PagesBut [0xA] s t ∧ Frame [.pln, .regs, .fab] s t)) ∧
  (∀ (s : State) (p : Plan), runs s .core = true → inStep s = true → s.mer = stepW s →
    (s.pln.active = some p → s.pln.window = false → s.pln.fwStep = false →
      ∃ t, exec .outcomeWindowOpen s = .next t ∧ t.pln = { s.pln with window := true } ∧
        getF t 0 Reg.plnState_active =
          (if (nextInOrder p (getF s 0 Reg.plnStep_step) s.pln.loops).isNone then 3 else getF s 0 Reg.plnState_active) ∧
        RegsBut [place 0 Reg.plnState_active] s t ∧ Frame [.regs, .pln, .tie] s t) ∧
    (rejoinPoint s = true → s.pln.rejoinDone = false → s.pln.idleExec = false → s.pln.cutDone = false →
      ∃ t, exec .rejoinAdmit s = .next t ∧ t.pln.rejoinDone = true ∧ (∀ l ∈ t.pln.losses, l ∈ s.pln.losses) ∧
        (∀ c ∈ allPorts s, isHalf c = false → rejoinReady s c = true →
          (linkOf t c).state = 4 ∧ (linkOf t c).reason = 0 ∧ getF t (portNo c) Reg.fabPortDisc_reason = 0 ∧
            ⟨nodeId s, 1, logicalPort s c⟩ ∉ t.pln.losses) ∧
        ((∀ c ∈ allPorts s, rejoinReady s c = false) → t = { s with pln := { s.pln with rejoinDone := true } }) ∧
        SameBytes s t ∧ PagesBut [0xB] s t ∧ Frame [.regs, .lanes, .pln] s t))

/-- R626: OBAR_UP leaves a device below the zenith 77 ticks after its cut; OBAR_DOWN leaves the zenith 91 ticks after its cut; an outcome
that came down in time is held 24 ticks after its last cell. R344: at E - 32 a leaf whose device holds the outcome sends it to every
attached endpoint member, and no second time. The slack that the monitor notes of the barrier is a free value (log 77). -/
def Obligations.OutcomeGoesUpDownAndOut : Prop :=
  (∀ (s : State) (m : ObarMsg), runs s .core = true → barrierOpen s = true →
    (s.pln.own = some m → s.pln.cutDone = true → s.pln.upSent = false → isZenith s 0 = false → s.mer = cutAt s + 57 →
      exec .obarUpSend s = .next (keepFixed s (sendObar (barrierSlack { s with pln := { s.pln with upSent := true } } 57) 5
        (((myNode s 0).map (·.2.parent)).getD 0xFFFF) m (cutAt s + 77))) ∧
      ∃ t, exec .obarUpSend s = .next t ∧ t.pln.upSent = true ∧ t.pln.own = some m ∧ SameBytes s t) ∧
    (s.pln.own = some m → s.pln.cutDone = true → s.pln.downSent = false → s.pln.starting = false → isZenith s 0 = true →
      s.mer = cutAt s + 71 →
      exec .obarDownSend s = .next (keepFixed s (sendDown
        (barrierSlack { s with pln := { s.pln with downSent := true, held := some m } } 71) m (cutAt s + 91))) ∧
      ∃ t, exec .obarDownSend s = .next t ∧ t.pln.downSent = true ∧ t.pln.held = some m ∧ SameBytes s t) ∧
    (∀ at', s.pln.obar = some (m, at') → s.pln.starting = false → isZenith s 0 = false →
      (s.pln.downSent = false →
        exec .obarDownSend s =
          .next (keepFixed s (sendDown { s with pln := { s.pln with downSent := true } } m (max s.mer (downAt s)))) ∧
        ∃ t, exec .obarDownSend s = .next t ∧ t.pln.downSent = true ∧ SameBytes s t) ∧
      (s.pln.held = none → at' + 24 ≤ s.mer → at' + 24 < barrierEnd s →
        ∃ t, exec .outcomeHeld s = .next t ∧ t = { s with pln := { s.pln with held := some m } }) ∧
      (s.pln.held = none → barrierEnd s ≤ at' + 24 → exec .outcomeHeld s = .next s))) ∧
  (∀ (s : State) (m : ObarMsg) (v : Verdict), runs s .core = true → barrierOpen s = true → s.pln.held = some m → verdict s = some v →
    s.pln.cellsSent = false → barrierEnd s = s.mer + 32 →
    exec .outcomeCellSend s = .next (keepFixed s (sendOutcome s (outcomeOf s v))) ∧
    ∃ t, exec .outcomeCellSend s = .next t ∧ t.pln.cellsSent = true ∧ SameBytes s t ∧
      ∀ k ∈ attached s, ∃ c, kvGet t.fab.outStore k = some c ∧ cellDst c = k % 65536 ∧ cellKind c = 4)

/-- R72, R77, R78, R95: at the end of a step whose outcome is held and which another execution follows, PLN_OUTCOME shows the outcome,
execution e + 1 begins at E with the step, attempt, band and alternate set that the verdict names, and nothing of the old execution remains
in the engines. -/
def Obligations.BoundaryBeginsTheNextExecution : Prop :=
  ∀ (s : State) (p : Plan) (r : StepRec) (m : ObarMsg) (n : Nat × Nat × Nat), runs s .core = true → s.pln.active = some p →
    s.pln.held = some m → s.pln.starting = false → s.pln.hold = none → stepsRun s = true → curStep s = some r →
    stepEnd s = s.mer → (stepVerdict s p r m).next = some n → (stepVerdict s p r m).hold = false →
    ∃ t, exec .stepBoundary s = .next t ∧ getF t 0 Reg.plnExec_exec = (curExec s + 1) % 2 ^ 64 ∧
      getF t 0 Reg.plnStepBase_base = stepEnd s % 2 ^ 64 ∧ getF t 0 Reg.plnStep_step = n.1 % 2 ^ 24 ∧
      getF t 0 Reg.plnStep_attempt = n.2.1 % 2 ^ 4 ∧ getF t 0 Reg.plnState_active = 2 ∧
      getF t 0 Reg.plnState_band = (stepVerdict s p r m).band % 4 ∧ getF t 0 Reg.plnState_alt = (stepVerdict s p r m).alt % 256 ∧
      getF t 0 Reg.plnOutcome_commit = (if m.ok then 1 else 0) ∧ t.eng.jobs = [] ∧ t.eng.arrivals = [] ∧ t.pln.held = none ∧
      t.pln.cutDone = false

/-- R77: a step that ends VOID writes nothing but leaves its destination regions undefined: every byte outside the regions that the step's
records and sinks write reads as before. -/
def Obligations.VoidSparesOtherBytes : Prop :=
  ∀ (s : State) (a : Nat),
    (∀ id ∈ writtenRegions s, ∀ r, planRegion s id = some r → ¬ (r.base ≤ a ∧ a < r.base + r.size)) →
    readByte (voidStep s) a = readByte s a

/-- R81: at the end of a hold interval whose barrier combined a band below Critical and a set that covers its losses, the execution that
ON_VOID chose begins in Hot. R80, R408: a device that does not hold the outcome at E leaves the plan's steps and arms itself for rejoin. -/
def Obligations.HoldsEndAndLostOutcomesRejoin : Prop :=
  (∀ (s : State) (p : Plan) (m : ObarMsg) (e a : Nat) (n : Nat × Nat × Nat), runs s .core = true → s.pln.active = some p →
    s.pln.held = some m → s.pln.hold = some e → s.pln.holdNext = some n → e = s.mer → m.band ≠ 3 → coverMsg p m = some a →
    ∃ t, exec .holdIntervalEnd s = .next t ∧ getF t 0 Reg.plnExec_exec = (curExec s + 1) % 2 ^ 64 ∧
      getF t 0 Reg.plnStepBase_base = e % 2 ^ 64 ∧ getF t 0 Reg.plnStep_step = n.1 % 2 ^ 24 ∧
      getF t 0 Reg.plnState_band = 2 ∧ getF t 0 Reg.plnState_alt = a % 256 ∧ getF t 0 Reg.plnState_active = 2 ∧ t.pln.hold = none) ∧
  (∀ s : State, runs s .core = true → barrierOpen s = true → (outcomeHeld s).pln.held = none → barrierEnd s = s.mer →
    ∃ t, exec .outcomeLost s = .next t ∧ getF t 0 Reg.plnState_active = 1 ∧ t.pln.rejoin = true ∧ t.pln.startAt = 0 ∧
      t.pln.hold = none ∧ t.pln.losses = [] ∧ t.pln.reports = [] ∧ t.pln.idleExec = false)

/-- R406, R407: a running device sends one STEP_INFO in each step; a device that is armed for rejoin takes the step, execution, band and
alternate set of one that names its plan in time, and runs that execution IDLE. -/
def Obligations.StepInfoRejoins : Prop :=
  (∀ s : State, runs s .core = true → inStep s = true → s.pln.infoSent = false → s.pln.idleExec = false →
    ∃ t, exec .stepInfoSend s = .next t ∧ t.pln = { s.pln with infoSent := true } ∧ SameBytes s t ∧
      (∀ c ∈ allPorts s, s.lanes.remap = [] → portState s c = 3 → (linkOf s c).reason = 11 →
        (egressOf s c).svc = [] → getF s 0 Reg.bufLevel_levelC ≤ 3 →
        poolUse s + (if s.fab.freedAt = s.mer then s.fab.freed.length else 0) + (allPorts s).length < 98304 → ∃ q ∈ (egressOf t c).svc, q.cell = linkCell s 0x14 0 (infoPayload s) ∧ q.readyAt = s.mer) ∧
      ((∀ c ∈ allPorts s, portState s c ≠ 3) → t = { s with pln := { s.pln with infoSent := true } }) ∧
      Frame [.regs, .pln, .fab, .flt] s t) ∧
  (∀ (s : State) (port : Nat) (pay : Payload) (q : Plan) (r : StepRec), runs s .lanes = true → fitsPort s (portNo port) = true →
    2 ≤ portState s port → s.pln.active = some q → q.steps[payNat pay 4 4]? = some r → s.pln.rejoin = true →
    getF s 0 Reg.plnState_active = 1 → payNat pay 0 1 = 0x10 → payNat pay 1 1 % 2 = 1 → r.rejoin = true → payNat pay 2 1 < 3 →
    payNat pay 0x18 16 = q.planDigest.toNat % 2 ^ 128 →
    s.mer + 2048 ≤ payNat pay 0x10 8 + r.len (payNat pay 2 1) - r.outwin →
    ∃ t, exec (.stepInfoReceive port pay) s = .next t ∧ getF t 0 Reg.plnState_active = 2 ∧
      getF t 0 Reg.plnExec_exec = payNat pay 8 8 % 2 ^ 64 ∧ getF t 0 Reg.plnStepBase_base = payNat pay 0x10 8 % 2 ^ 64 ∧
      getF t 0 Reg.plnStep_step = payNat pay 4 4 % 2 ^ 24 ∧ getF t 0 Reg.plnState_band = payNat pay 2 1 % 4 ∧
      getF t 0 Reg.plnState_alt = payNat pay 3 1 % 256 ∧ t.pln.idleExec = true ∧ t.pln.rejoin = false ∧ t.pln.active = some q ∧
      SameBytes s t ∧ PagesBut [1] s t ∧ Frame [.free, .regs, .tie, .fab, .pln] s t)

/-! ## Cells (09) -/

/-- R312, R328, R330, R363: what a cell does that reaches a port in cell service (CELL_RECEIVE), once its tick is noted and sampling has
taken its copy: a code error drops it, and so does a missing K27.7 where no cell frame went before; one that finds room in its ingress
buffer enters it (R315). 14 R486: one that the cell pool does not admit is dropped; any other takes a buffer (14 R481), and then a cell of
the step that this device already took is counted as a duplicate and changes nothing else, and
a cell for another node is routed by its DST and its VC. A port below DISCOVERY takes nothing, and one that drops cells (10 R377) counts
nothing. How long a cell stays in its ingress buffer is the model's reading (DEDUCED, log 77). -/
def Obligations.CellsAtAPort : Prop :=
  ∀ (s : State) (port : Nat) (c : FabCell), runs s .lanes = true → fitsPort s (portNo port) = true →
    (∀ line, portState s port < 2 → exec (.cellReceive port c line) s = .next s) ∧
    (2 ≤ portState s port →
      let s0 := sampleCell (setLink s { linkOf s port with lastCell := some s.mer }) port c
      let dropped := keepFixed s (bump s0 (portNo port) Reg.fabCntCodeerr)
      exec (.cellReceive port c .codeError) s = .next dropped ∧
      (followsCell s port = false → exec (.cellReceive port c .noK277) s = .next dropped) ∧
      (dropsCells s0 port = true → exec (.cellReceive port c .sound) s = .next (keepFixed s s0)) ∧
      (dropsCells s0 port = false → portState s0 port = 4 → dstBad c = false → ingressFull s0 port c = false →
        let s1 := enterIngress (cross s0 3 (laneLink port) c (s.mer + 24)) port c
        let b := poolTake s1 (requester port (cellVc c))
        (poolAdmits s1 c = false → (cellDst c ≠ 0xFFFE ∨ cellVc c ≠ 3) →
          exec (.cellReceive port c .sound) s = .next (keepFixed s (poolDrop s1 port))) ∧
        (poolAdmits s1 c = true → cellDst c ≠ nodeId s1 → isGroupDst (cellDst c) = false → (cellDst c ≠ 0xFFFE ∨ cellVc c ≠ 3) →
          exec (.cellReceive port c .sound) s = .next (keepFixed s (passOn b.1 port (cellDst c) c b.2))) ∧
        (poolAdmits s1 c = true → cellDst c = nodeId s1 → cellVc c ≠ 3 → isGroupDst (cellDst c) = false →
          destCheck b.1 c = (b.1, true) → stepCells b.1 = true → cellSeq c < (rxFlow b.1 (cellKey c) 0 0).next →
          ∃ t, exec (.cellReceive port c .sound) s = .next t ∧ getF t 0 Reg.fabCntDup = (getF s1 0 Reg.fabCntDup + 1) % 2 ^ 64 ∧
            RegsBut [place 0 Reg.fabCntDup] s1 t ∧ t.fab = b.1.fab ∧ t.eng = s1.eng ∧ t.mem = s1.mem ∧ t.pln = s1.pln)))

/-- R331, R332: an ACK frees the retained cells of its flow below NEXT and no other; a flow that has been idle for 64 ticks with delivered
cells not acknowledged is acknowledged. R333, R334: a destination asks again for what is missing and notes that it did; a RESEND_REQ is
counted and answered from the retention, which keeps what it held; a source that has waited ACK_WAIT for the ACK of its oldest retained
cell, of which no copy waits, sends copies of up to 8 of the flow's oldest on the ports that carry it (that a waiting copy holds it back is
DEDUCED, log 56). -/
def Obligations.CellsAreAcknowledgedAndResent : Prop :=
  ((∀ (s : State) (port : Nat) (c : FabCell), runs s .lanes = true → fitsPort s (portNo port) = true → destCheck s c = (s, true) →
    cellKind c = 0x10 → portState s port = 4 →
    ∃ t, exec (.ackReceive port c) s = .next t ∧
      t.fab.egress = s.fab.egress.map (fun e => { e with
        ret := e.ret.filter fun x => !(namedFlow s port c e.code x.key && decide (x.seq < payNat (cellPayload c) 4 4)) }) ∧
      t.fab.rx = s.fab.rx ∧ SameBytes s t ∧ Frame [.regs, .fab, .flt] s t) ∧
  (∀ (s : State) (k : FlowKey) (r : RxFlow), runs s .lanes = true → stepCells s = true → s.fab.rx.filter (·.key == k) = [r] →
    0 < r.sinceAck → r.lastNew + 64 ≤ s.mer →
    exec (.ackIdleTimeout k) s = .next (keepFixed s (sendAck (setRx s { r with sinceAck := 0 }) r)) ∧
    ∃ t, exec (.ackIdleTimeout k) s = .next t ∧ { r with sinceAck := 0 } ∈ t.fab.rx ∧ SameBytes s t ∧
      Frame [.regs, .fab, .flt] s t)) ∧
  ((∀ (s : State) (k : FlowKey) (r : RxFlow), runs s .lanes = true → s.fab.rx.filter (·.key == k) = [r] → rreqDue s r = true →
    exec (.resendReqTimeout k) s = .next (keepFixed s (sendRreq (setRx s { r with lastReq := some (r.next, s.mer) }) r)) ∧
    ∃ t, exec (.resendReqTimeout k) s = .next t ∧ { r with lastReq := some (r.next, s.mer) } ∈ t.fab.rx ∧ SameBytes s t ∧
      Frame [.regs, .fab, .flt] s t) ∧
  (∀ (s : State) (port : Nat) (c : FabCell), runs s .lanes = true → fitsPort s (portNo port) = true → destCheck s c = (s, true) →
    cellKind c = 0x11 → portState s port = 4 → cellFlow c ≠ 0xFFF →
    ∃ t, exec (.resendReqReceive port c) s = .next t ∧
      getF t (portNo port) Reg.fabCntRreqRx = (getF s (portNo port) Reg.fabCntRreqRx + 1) % 2 ^ 64 ∧
      (∀ code, (egressOf t code).ret = (egressOf s code).ret) ∧ SameBytes s t ∧ Frame [.regs, .fab, .flt, .pln] s t) ∧
  (∀ (s : State) (port : Nat) (k : FlowKey) (x : Nat × RetCell) (l : List (Nat × RetCell)), runs s .lanes = true →
    fitsPort s (portNo port) = true → retained s port k = x :: l → stepCells s = true → x.2.sentAt + ackWait s ≤ s.mer →
    copyWaits (egressOf s x.1) x.2 = false →
    exec (.ackWaitTimeout port k) s = .next (keepFixed s
      (((x :: l).take 8).foldl (fun s y => pushResend s y.1 (resentCopy y.2.cell) s.mer y.2.buf) s)) ∧
    ∃ t, exec (.ackWaitTimeout port k) s = .next t ∧ (∀ code, (egressOf t code).ret = (egressOf s code).ret) ∧ SameBytes s t))

/-- R313, R314: in a planned tick the oldest queued cell that the run matches stands on the wire of the port; in a marker tick, and in the
odd ticks of a half-port, nothing leaves. R313: at most one cell leaves a resource in a tick, and nothing that left is taken back. -/
def Obligations.PlannedCellsLeaveOneByOne : Prop :=
  (∀ (s : State) (code : Nat), runs s .lanes = true → code < 512 → fitsPort s (portNo code) = true →
    (markerTick s code = true ∨ (isHalf code = true ∧ s.mer % 2 = 1) → exec (.cellEgress (2 ^ 28 + code)) s = .next s) ∧
    (∀ (r : Run) (q : QCell), markerTick s code = false → (isHalf code = true → s.mer % 2 = 0) → stepCells s = true →
      s.pln.idleExec = false → portState s (physicalPort s code) = 4 → runNow s (2 ^ 28 + code) = some r → r.use = useOfVc r.vc →
      matchFirst s (egressOf s code) r = some q → txDiscards s (physicalPort s code) = false →
      ∃ t, exec (.cellEgress (2 ^ 28 + code)) s = .next t ∧ t.out = .cell s.mer (physicalPort s code) q.cell :: s.out ∧
        SameBytes s t)) ∧
  (∀ (s t : State) (resource : Nat), exec (.cellEgress resource) s = .next t →
    t.out = s.out ∨ ∃ port c, t.out = .cell s.mer port c :: s.out)

/-! ## Lanes (10) -/

/-- R377: a lane that carries a logical lane of a port in cell service and loses signal or lock is noted with its tick, counted, and its
port drops incoming cells from then on; LOL shows in LANE_STAT, and LOS too where the signal was lost. So it is while the port has another
lane (R386) and the lane did not take over within the last 2048 ticks (R381). R380: a spare that carries no lane is marked FAILED. -/
def Obligations.LostLaneStopsThePort : Prop :=
  (∀ (s : State) (die lane code l : Nat), runs s .lanes = true → fitsDie s die = true → carried s die lane = some (code, l) →
    2 ≤ portState s code → (s.lanes.losses.any fun x => x.die == die && x.lane == lane) = false → freshSpare s die lane = false →
    (∃ i ∈ logicalLanes code, physLane s code i ≠ lane ∧
      (s.lanes.losses.any fun x => x.die == die && x.lane == physLane s code i) = false) →
    (∃ t, exec (.laneLos die lane) s = .next t ∧ getFI t lane die 0 Reg.laneStat_lol = 1 ∧ getFI t lane die 0 Reg.laneStat_los = 1 ∧
      ⟨die, lane, s.mer⟩ ∈ t.lanes.losses ∧ (linkOf t code).dropping = true ∧
      getF t die Reg.laneCntLos = (getF s die Reg.laneCntLos + 1) % 2 ^ 64 ∧ SameBytes s t) ∧
    (∃ t, exec (.laneLol die lane) s = .next t ∧ getFI t lane die 0 Reg.laneStat_lol = 1 ∧
      ⟨die, lane, s.mer⟩ ∈ t.lanes.losses ∧ (linkOf t code).dropping = true ∧
      getF t die Reg.laneCntLol = (getF s die Reg.laneCntLol + 1) % 2 ^ 64 ∧ SameBytes s t)) ∧
  (∀ (s : State) (die k : Nat), runs s .lanes = true → fitsDie s die = true → k < 2 → carried s die (48 + k) = none →
    (∃ t, exec (.laneLos die (48 + k)) s = .next t ∧ spareIdle t die k = false ∧ getFI t (48 + k) die 0 Reg.laneStat_stage = 15 ∧
      SameBytes s t ∧ PagesBut [0xC] s t ∧ Frame [.regs] s t) ∧
    (∃ t, exec (.laneLol die (48 + k)) s = .next t ∧ spareIdle t die k = false ∧ getFI t (48 + k) die 0 Reg.laneStat_stage = 15 ∧
      SameBytes s t ∧ PagesBut [0xC] s t ∧ Frame [.regs] s t))

/-- R377 to R380: a lane that relocks within 1024 ticks asks the far end for a PRBS check at a marker count; one that does not asks for the
first free spare; a check without an error ends the loss. R379: at AT of an accepted PRBS request the far end of the requester sends PRBS31
on the lane for the ticks asked, and no register, byte or cell changes. AT of a spare in a plan foresees the executions to come (DEDUCED,
log 94). -/
def Obligations.LostLanesRecoverOrAreReplaced : Prop :=
  (∀ (s : State) (die lane code l : Nat) (x : LaneLoss), runs s .lanes = true → fitsDie s die = true →
    carried s die lane = some (code, l) →
    ((s.lanes.losses.find? fun x => x.die == die && x.lane == lane) = some x →
      (s.lanes.reqs.any fun r => r.own && r.port == code && r.lane == l) = false →
      (s.mer ≤ x.since + 1024 →
        ∃ t, exec (.laneRelock die lane) s = .next t ∧
          (⟨code, true, 2, l, 0, 65536, (s.mer + 2048 + 1023) / 1024 * 1024, 3⟩ : LaneReq) ∈ t.lanes.reqs ∧
          getFI t lane die 0 Reg.laneStat_los = 0 ∧ getFI t lane die 0 Reg.laneStat_lol = 0 ∧
          getFI t lane die 0 Reg.laneStat_stage = 11 ∧ SameBytes s t) ∧
      (x.since + 1024 ≤ s.mer → ∀ k, ([0, 1].find? fun k => spareFree s code k &&
          !spareAsked s (portNo code / 6) k) = some k →
        ∃ t, exec (.laneRelockTimeout die lane) s = .next t ∧
          (⟨code, true, 1, l, k, 0, spareAt s, 3⟩ : LaneReq) ∈ t.lanes.reqs ∧ SameBytes s t)) ∧
    (∀ r, (s.lanes.reqs.find? fun r => r.own && r.opcode == 2 && r.port == code && r.lane == l) = some r →
      s.mer = r.start + r.ticks →
      ∃ t, exec (.recoveryCheckEnd die lane 0 true) s = .next t ∧
        t.lanes.losses = s.lanes.losses.filter (fun x => !(x.die == die && x.lane == lane)) ∧ r ∉ t.lanes.reqs ∧
        getFI t lane die 0 Reg.laneStat_stage = 9 ∧ getFI t lane die 0 Reg.lanePrbs_err = 0 ∧
        getFI t lane die 0 Reg.lanePrbs_checked = min (80 * (r.ticks - 2048) / 65536) 0xFFFFFFFF ∧ SameBytes s t)) ∧
  (∀ (s : State) (port lane : Nat) (r : LaneReq), runs s .lanes = true → fitsPort s (portNo port) = true →
    (s.lanes.reqs.find? fun r => !r.own && r.opcode == 2 && r.port == port && r.lane == lane && r.start == s.mer) = some r →
    ∃ t, exec (.recoveryCheckStart port lane) s = .next t ∧ t.out = .prbs s.mer port (BitVec.ofNat 8 (2 ^ lane)) r.ticks :: s.out ∧
      t.lanes.reqs = s.lanes.reqs ∧ t.lanes.links = s.lanes.links ∧ SameBytes s t ∧ Frame [.out, .free, .lanes] s t)

/-- R360, R376, R378, R385: the code groups that are no code group at their place and those of the wrong disparity are counted per lane up
to 2^32 - 1, as the lane's running disparity stands; a lane request of the far end is taken once, and a bad one is counted and not kept
(that a SPARE request takes the place of the PRBS request of its lane is DEDUCED, log 94). R385: an accepted LOOP request and a write of
LANE_TEST take the port out of cell service into its test; the end of the test, by its ticks or by a write of LANE_TEST that asks for
nothing (DEDUCED, log 94), leads back to SIGNAL; while a plan runs the write is LOCKED. -/
def Obligations.LaneEventsAndTests : Prop :=
  ((∀ (s : State) (die lane : Nat) (half : Bool) (groups : List RxGroup), runs s .lanes = true → fitsDie s die = true →
    let found := violations half ((kvGet s.lanes.rxRd (laneKey die lane)).getD false) groups
    ∃ t, exec (.laneCode die lane half groups) s = .next t ∧
      getFI t lane die 0 Reg.laneCodeviol_code = min (getFI s lane die 0 Reg.laneCodeviol_code + found.1.count 1) 0xFFFFFFFF ∧
      getFI t lane die 0 Reg.laneCodeviol_disp = min (getFI s lane die 0 Reg.laneCodeviol_disp + found.1.count 2) 0xFFFFFFFF ∧
      kvGet t.lanes.rxRd (laneKey die lane) = some found.2 ∧
      SameBytes s t ∧ Frame [.regs, .lanes, .flt] s t) ∧
  (∀ (s : State) (port : Nat) (p : Payload), runs s .lanes = true → fitsPort s (portNo port) = true → 2 ≤ portState s port →
    (reqOf port p ∈ s.lanes.taken → exec (.mgmtRequestReceive port p) s = .next s) ∧
    (reqOf port p ∉ s.lanes.taken → reqBad port p = true →
      ∃ t, exec (.mgmtRequestReceive port p) s = .next t ∧
        getF t (portNo port / 6) Reg.laneCntMgmtbad = (getF s (portNo port / 6) Reg.laneCntMgmtbad + 1) % 2 ^ 64 ∧
        RegsBut [place (portNo port / 6) Reg.laneCntMgmtbad] s t ∧ Frame [.regs] s t) ∧
    (reqOf port p ∉ s.lanes.taken → reqBad port p = false → (reqOf port p).start % 1024 = 0 → s.mer + 2048 ≤ (reqOf port p).start →
      ((reqOf port p).opcode = 3 → planRuns s = false) →
      (∀ q ∈ s.lanes.reqs, q.own = false → q.port = port →
        (q.lane = (reqOf port p).lane ∨ q.lane = 0xFF ∨ (reqOf port p).lane = 0xFF) →
        q.start + q.ticks + 1 ≤ s.mer ∨ ((reqOf port p).opcode = 1 ∧ q.opcode = 2)) →
      ∃ t, exec (.mgmtRequestReceive port p) s = .next t ∧ reqOf port p ∈ t.lanes.reqs ∧ reqOf port p ∈ t.lanes.taken ∧
        (∀ q ∈ s.lanes.reqs, q.own = true ∨ q.port ≠ port ∨ q.opcode ≠ 2 ∨ (reqOf port p).opcode ≠ 1 → q ∈ t.lanes.reqs) ∧
        t.lanes.links = s.lanes.links ∧ Frame [.lanes] s t))) ∧
  ((∀ (s : State) (port lane : Nat) (r : LaneReq), runs s .lanes = true → fitsPort s (portNo port) = true →
    (s.lanes.reqs.find? fun r => !r.own && r.opcode == 3 && r.port == port && r.lane == lane && r.start == s.mer) = some r →
    ∃ t, exec (.loopbackStart port lane) s = .next t ∧ (linkOf t port).state = 1 ∧ (linkOf t port).stage = 14 ∧
      (linkOf t port).testEnd = some (s.mer + r.ticks) ∧
      t.out = .loop s.mer port (if lane = 0xFF then laneMask port else BitVec.ofNat 8 (2 ^ lane)) r.ticks :: s.out ∧ SameBytes s t) ∧
  (∀ (s : State) (port last : Nat), runs s .lanes = true → fitsPort s (portNo port) = true → (linkOf s port).testEnd = some last →
    last ≤ s.mer → (linkOf s port).stage = 14 →
    ∃ t, exec (.loopbackEnd port) s = .next t ∧ (linkOf t port).stage = 1 ∧ (linkOf t port).state = 0 ∧ SameBytes s t) ∧
  (∀ (s : State) (die : Nat) (v : Word), runs s .lanes = true → fitsDie s die = true →
    (planRuns s = true → exec (.laneTestWrite die v) s = .next { s with cmdStatus := 6 }) ∧
    (∀ code l, planRuns s = false → carried s die (getF s die Reg.laneSel_lane) = some (code, l) → bits v 0 4 ≠ 0 →
      ∃ t, exec (.laneTestWrite die v) s = .next t ∧ t.cmdStatus = 0 ∧ (linkOf t code).state = 1 ∧ (linkOf t code).stage = 14 ∧
        SameBytes s t) ∧
    (∀ code l, planRuns s = false → carried s die (getF s die Reg.laneSel_lane) = some (code, l) → bits v 0 4 = 0 →
      (linkOf s code).stage = 14 →
      ∃ t, exec (.laneTestWrite die v) s = .next t ∧ t.cmdStatus = 0 ∧ (linkOf t code).state = 0 ∧ (linkOf t code).stage = 1 ∧
        SameBytes s t)))

/-- R380, R381: at AT of a SPARE request of this end its free spare takes the logical lane, the loss of the old lane ends, and the spare
shows in LANE_SPARE_MAP; where the check fails the port is lost. -/
def Obligations.SpareTakesTheLane : Prop :=
  ∀ (s : State) (die lane : Nat) (r : LaneReq), runs s .lanes = true → fitsDie s die = true → dueSpare s die lane = some r →
    r.own = true → spareIdle s die r.spare = true → r.spare < 2 →
    (∃ t, exec (.spareSubstitution die lane true) s = .next t ∧
      t.lanes.losses = s.lanes.losses.filter (fun x => !(x.die == die && x.lane == lane)) ∧ (stepsRun s = true → t.pln.repairRan = true) ∧
      (r.spare = 0 → getF t die Reg.laneSpareMap_use0 = 1 ∧ getF t die Reg.laneSpareMap_port0 = portNo r.port % 6 ∧
        getF t die Reg.laneSpareMap_lane0 = r.lane % 8) ∧
      (r.spare = 1 → getF t die Reg.laneSpareMap_use1 = 1 ∧ getF t die Reg.laneSpareMap_port1 = portNo r.port % 6 ∧
        getF t die Reg.laneSpareMap_lane1 = r.lane % 8) ∧
      getF t die Reg.laneCntSpare = (getF s die Reg.laneCntSpare + 1) % 2 ^ 64 ∧ SameBytes s t) ∧
    (∃ t, exec (.spareSubstitution die lane false) s = .next t ∧ (linkOf t r.port).state = 0 ∧
      getF t die Reg.laneLastFail_reason = 14 ∧ SameBytes s t)

/-- R369, R373, R400: bring-up. Signal detect on a DOWN port begins TRAINING; a stage that completes in time leads to the next; a stage that
fails leaves the port DOWN with one more failed attempt, its reason and its electrical idle; when that idle ends an attempt begins at
SIGNAL. R370 to R372: the PRBS sequence begins at the first marker count at least 2048 ticks after DESKEW and after the far end's second
report of stage 6, and lasts 2^24 ticks; its end leaves the lanes with an error in the fail mask and looks for frames again; aligned and
deskewed once more, with no lane in either end's mask, the port is READY in stage 8; cell service begins at the first marker count at which
READY was sent and received, in DISCOVERY and with nothing known of the far end. -/
def Obligations.BringupLeadsToCellService : Prop :=
  (∀ (s : State) (port : Nat), runs s .lanes = true → fitsPort s (portNo port) = true →
    ((linkOf s port).state = 0 → (linkOf s port).idleUntil = none → isHalf port = splitCfg s (portNo port) →
      ((codesOf (!splitCfg s (portNo port)) (portNo port)).all fun c => (linkOf s c).state == 0) = true →
      ∃ t, exec (.signalDetect port) s = .next t ∧ (linkOf t port).state = 1 ∧ (linkOf t port).since = s.mer ∧ SameBytes s t) ∧
    (∀ n, (linkOf s port).state = 1 → (linkOf s port).stage = n → 1 ≤ n → n ≤ 6 →
      stageHolds s port n = true → (n ≠ 1 → s.mer ≤ (linkOf s port).since + (stageTimeout n).getD 0) →
      ∃ t, exec (.bringupStageComplete port) s = .next t ∧ (linkOf t port).stage = n + 1 ∧ (linkOf t port).state = 1 ∧
        (linkOf t port).since = s.mer ∧ SameBytes s t) ∧
    (∀ lane reason, (linkOf s port).state = 1 → (linkOf s port).stage ≤ 8 → 1 ≤ reason → reason ≤ 14 →
      ∃ t, exec (.bringupStageTimeout port lane reason) s = .next t ∧ (linkOf t port).state = 0 ∧ (linkOf t port).stage = 0 ∧
        (linkOf t port).fails = (linkOf s port).fails + 1 ∧
        (linkOf t port).idleUntil = some (if 7 ≤ (linkOf s port).fails then s.mer + 2 ^ 28 else s.mer + 4096) ∧
        getF t (portNo port / 6) Reg.laneLastFail_reason = reason ∧
        getF t (portNo port / 6) Reg.laneCntTrainfail = (getF s (portNo port / 6) Reg.laneCntTrainfail + 1) % 2 ^ 64 ∧
        SameBytes s t) ∧
    (∀ until', (linkOf s port).idleUntil = some until' → (linkOf s port).stage = 0 → until' ≤ s.mer →
      ∃ t, exec (.bringupIdleEnd port) s = .next t ∧ (linkOf t port).stage = 1 ∧ (linkOf t port).idleUntil = none ∧
        getF t (portNo port / 6) Reg.laneCntTrain = (getF s (portNo port / 6) Reg.laneCntTrain + 1) % 2 ^ 64 ∧ SameBytes s t)) ∧
  (∀ (s : State) (port : Nat), runs s .lanes = true → fitsPort s (portNo port) = true →
    (∀ t0, (linkOf s port).stage = 7 → (linkOf s port).testEnd = none → (linkOf s port).up.sixAt = some t0 →
      s.mer = markerFrom (max (linkOf s port).since t0 + 2048) →
      ∃ t, exec (.prbsStart port) s = .next t ∧ t.out = .prbs s.mer port (laneMask port) (2 ^ 24) :: s.out ∧
        (linkOf t port).testEnd = some (s.mer + 2 ^ 24) ∧ SameBytes s t) ∧
    (∀ heard detected errors, (linkOf s port).stage = 7 → (linkOf s port).testEnd.isSome = true → (linkOf s port).up.sub = 0 →
      (linkOf s port).up.checked = false → (linkOf s port).since ≤ heard → s.mer = heard + 2 ^ 24 → s.mer ≤ (linkOf s port).since + (2 ^ 24 + 8192) →
      ∃ t, exec (.prbsEnd port heard detected errors) s = .next t ∧ (linkOf t port).up.mask = failMask port detected errors ∧ (linkOf t port).up.sub = 3 ∧
        (linkOf t port).stage = 7 ∧ SameBytes s t) ∧
    (∀ far, (linkOf s port).state = 1 → (linkOf s port).stage = 7 → (linkOf s port).up.sub = 6 → stageHolds s port 6 = true →
      (linkOf s port).up.mask = 0 → (linkOf s port).up.far = some far → (∀ i ∈ logicalLanes port, far.getLsbD i = false) →
      s.mer ≤ (linkOf s port).since + (2 ^ 24 + 8192) →
      ∃ t, exec (.bringupStageComplete port) s = .next t ∧ (linkOf t port).stage = 8 ∧ (linkOf t port).up.readyAt = some s.mer ∧
        SameBytes s t) ∧
    ((linkOf s port).stage = 8 → (linkOf s port).state = 1 → serviceAt (linkOf s port) = some s.mer →
      s.mer ≤ (linkOf s port).since + 8192 →
      ∃ t, exec (.cellServiceBegin port) s = .next t ∧ (linkOf t port).state = 2 ∧ (linkOf t port).stage = 9 ∧
        (linkOf t port).ident = none ∧ getF t (portNo port) Reg.fabPortDisc_reason = 0 ∧ SameBytes s t))

/-- R366, R367, R370, R375: at a marker count a port that is not at electrical idle, in PRBS or in a test sends on each of its lanes a
marker frame with index M / 1024 and the lane's identity byte, and port 0 of a die on the spares that carry no lane too; a received index
that follows the one before it and an identity are remembered for their lane (that port 0 sends for the spares is DEDUCED, log 94). R411 to
R415: a TIME cell with the mean of its markers leaves after 16 of them and begins the measurement anew; one that arrives shows the delay and
the offset of its link, from the arrivals of the markers that it names; a parent that has been silent for 2^20 ticks leaves the phase held.
-/
def Obligations.MarkersAndTimeCells : Prop :=
  ((∀ (s : State) (port : Nat), runs s .lanes = true → fitsPort s (portNo port) = true →
    (s.mer % 1024 = 0 →
      let index := BitVec.ofNat 32 (s.mer / 1024)
      ∃ t, exec (.markerFrameSend port) s = .next t ∧
        (sendsFrames (linkOf s port) = true → sendsPrbs s port = false → ∀ l ∈ logicalLanes port, laneUnderCheck s port l = false →
          Out.marker s.mer port (txLane s port l) (identByte port l) index ∈ t.out) ∧
        (portNo port % 6 = 0 → port / 128 ≠ 3 → ∀ k < 2, spareSends s (portNo port / 6) k = true →
          Out.marker s.mer (6 * (portNo port / 6)) (48 + k) (spareIdent k) index ∈ t.out) ∧
        t.lanes.links = s.lanes.links ∧ SameBytes s t ∧ Frame [.out, .lanes] s t) ∧
    (s.mer % 1024 ≠ 0 → exec (.markerFrameSend port) s = .next s)) ∧
  (∀ (s : State) (port lane a : Nat) (m : RxMarker), runs s .lanes = true →
    fitsPort s (portNo port) = true →
    ∃ t, exec (.markerFrameReceive port lane m a) s = .next t ∧
      ((∀ i, kvGet s.lanes.lastIndex (laneKey (portNo port / 6) lane) = some i → (i + 1) % 2 ^ 32 = m.index.toNat) →
        kvGet t.lanes.lastIndex (laneKey (portNo port / 6) lane) = some m.index.toNat) ∧
      kvGet t.lanes.rxIdent (laneKey (portNo port / 6) lane) = some m.ident ∧ SameBytes s t)) ∧
  ((∀ (s : State) (port : Nat), runs s .lanes = true → fitsPort s (portNo port) = true → 2 ≤ (linkOf s port).state →
    16 ≤ (linkOf s port).markers.length →
    ∃ t, exec (.timeCellSend port) s = .next t ∧ (linkOf t port).markers = (linkOf s port).markers.drop 16 ∧ SameBytes s t ∧
      ((egressOf s (logicalPort s port)).svc = [] → getF s 0 Reg.bufLevel_levelC ≤ 3 → poolAlloc s < poolSize →
        let sent := (linkOf s port).markers.take 16
        ∃ q ∈ (egressOf t (logicalPort s port)).svc, q.readyAt = s.mer ∧ q.cell = linkCell s 0x13 0 (payOf (
          leBytes 1 ((if timeRoot s then 1 else 0) + (if isSynced s then 2 else 0)) ++
          leBytes 1 (if timeRoot s then 0 else getF s 0 Reg.merSync_depth) ++ leBytes 6 0 ++
          leBytes 8 ((sent.map fun x => x.1).getLastD 0) ++ leBytes 8 (twos 64 ((sent.map fun x : Nat × Int => x.2).sum.fdiv 16)))))) ∧
  (∀ (s : State) (port : Nat) (near : Int) (p : Payload), runs s .lanes = true → fitsPort s (portNo port) = true →
    2 ≤ portState s port → nearMean s port (payNat p 8 8) = some near →
    ∃ t, exec (.timeCellReceive port p) s = .next t ∧
      getF t (portNo port) Reg.fabPortDelay_delay = twos 24 ((wrapTicks (near + payInt p 0x10)).fdiv 2) ∧
      getF t (portNo port) Reg.fabPortDelay_theta = twos 24 ((wrapTicks (near - payInt p 0x10)).fdiv 2) ∧
      getF t (portNo port) Reg.fabCntTime = (getF s (portNo port) Reg.fabCntTime + 1) % 2 ^ 64 ∧ SameBytes s t) ∧
  (∀ s : State, runs s .lanes = true → (timeParentNode s).isSome = true → s.sync.heardAt + 2 ^ 20 ≤ s.mer →
    ∃ t, exec .timeParentTimeout s = .next t ∧ getF t 0 Reg.merSync_hold = 1 ∧ RegsBut [place 0 Reg.merSync_hold] s t ∧
      Frame [.regs] s t))

/-! ## Time and discovery (11) -/

/-- R396 to R402: an IDENT that is due leaves and is noted; a complete one that is sound and answers this end's NONCE is accepted and
counted, one that is not sound counts as refused; a port without an IDENT for 2^22 ticks has reason 1. -/
def Obligations.IdentsAreExchanged : Prop :=
  ∀ (s : State) (port : Nat), runs s .lanes = true → fitsPort s (portNo port) = true →
    (2 ≤ (linkOf s port).state → identDue s port (identBody s port) = true →
      ∃ t, exec (.identSend port) s = .next t ∧ (linkOf t port).sentAt = some s.mer ∧ (linkOf t port).sentMsg = identBody s port ∧
        (linkOf t port).owed = false ∧ SameBytes s t) ∧
    (∀ (m : List Byte) (auth : IdentAuth), 2 ≤ portState s port → identComplete m = true → identAssembled s port m = true →
      (∀ leaf, identSound s m auth = some leaf → natAt m 0x28 16 = (linkOf s port).nonce.toNat →
        ∃ t, exec (.identReceive port m auth) s = .next t ∧ (linkOf t port).ident = some (identOf m (sha384 leaf)) ∧
          getF t (portNo port) Reg.fabCntIdent = (getF s (portNo port) Reg.fabCntIdent + 1) % 2 ^ 64 ∧ SameBytes s t) ∧
      (identSound s m auth = none →
        ∃ t, exec (.identReceive port m auth) s = .next t ∧ (linkOf t port).ident = (linkOf s port).ident ∧
          getF t (portNo port) Reg.fabCntIdentbad = (getF s (portNo port) Reg.fabCntIdentbad + 1) % 2 ^ 64 ∧ SameBytes s t)) ∧
    ((linkOf s port).state = 2 → (linkOf s port).ident = none → (govPlan s).isSome = true → (linkOf s port).since + 2 ^ 22 ≤ s.mer →
      (linkOf s port).timedOut = false →
      ∃ t, exec (.noIdentTimeout port) s = .next t ∧ (linkOf t port).timedOut = true ∧
        (linkOf t port).reason = 1 ∧ getF t (portNo port) Reg.fabPortDisc_reason = 1 ∧ SameBytes s t)

/-! ## The fault collector (17) -/

/-- R550, R551, R553, R564: the collector takes the waiting message that is first by TIME, PAGE and SUB, counts it, and stores its record
under the next number with its native class and its raised class, one above it where an unacknowledged record of the source has the same
native class. With nothing waiting nothing happens. -/
def Obligations.CollectorStoresTheFirstMessage : Prop :=
  ∀ s : State, runs s .service = true →
    (s.flt.queue = [] → exec (.faultMessage none) s = .next s) ∧
    (∀ m, firstMsg s.flt.queue = some m → s.flt.log.length < 4096 →
      ∃ t r, exec (.faultMessage none) s = .next t ∧ r ∈ t.flt.log ∧ r.msg = m ∧ r.seq = getF s 0 Reg.fltLogNext_next ∧
        r.native = nativeClass m ∧ r.raised = (if escalates s m then nativeClass m + 1 else nativeClass m) ∧
        getF t 0 Reg.fltLogNext_next = (getF s 0 Reg.fltLogNext_next + 1) % 2 ^ 64 ∧
        getF t 0 Reg.fltCntMsg = (getF s 0 Reg.fltCntMsg + 1) % 2 ^ 64)

/-- R560: a standby checks itself 2^30 ticks after the check before (the first one's tick is the model's, log 32); one that passes changes
nothing else, and one that fails sends ENG_CHECK and voids nothing. R555, R564, R565:
acknowledging by number and by page, CLEAR, and a copy of a record. CLEAR draws STATE while a FATAL record is unacknowledged. -/
def Obligations.RecordsAreAcknowledgedAndStandbysChecked : Prop :=
  (∀ (s : State) (page : Nat), runs s .core = true → pagePresent s page = true → [2, 3, 5].contains (pageKind page) = true →
    let due : Prop := unitRole s page = 1 ∧ (kvGet s.eng.checked page).getD 0 + 2 ^ 30 ≤ s.mer
    let checked : Engines := { s.eng with checked := kvPut s.eng.checked page s.mer }
    (¬ due → ∀ pass, exec (.standbySelfCheck page pass) s = .next s) ∧
    (due → exec (.standbySelfCheck page true) s = .next { s with eng := checked }) ∧
    (due → (s.flt.queue.filter (·.page == page)).length < 16 →
      ∃ t, exec (.standbySelfCheck page false) s = .next t ∧ t = { s with
        eng := checked
        flt := { s.flt with
          queue := s.flt.queue ++ [⟨s.mer, page, 3, 0, 0xFFFF, unitOfPage s page, execTag s, 0, 0, false⟩] } })) ∧
  (∀ s : State, runs s .service = true →
    (∀ seq : Word, ∃ t, exec (.fltAckSeqWrite seq) s = .next t ∧ t = { s with cmdStatus := 0, flt := { s.flt with
      log := s.flt.log.map fun r => if r.seq = seq.toNat then { r with acked := true } else r } }) ∧
    (∀ page c r, pageListed s page = true → c < 3 →
      (s.flt.log.find? fun r => !r.acked && r.msg.page == page && r.raised == c) = some r →
      ∃ t, exec (.fltAckWrite page (BitVec.ofNat 3 (2 ^ c))) s = .next t ∧ t = { s with cmdStatus := 0, flt := { s.flt with
        log := s.flt.log.map fun q => if q.seq = r.seq then { q with acked := true } else q } }) ∧
    (∀ page mask, pageListed s page = false → exec (.fltAckWrite page mask) s = .next { s with cmdStatus := 2 }) ∧
    (unacked s 2 ≠ [] → exec .clear s = .next { s with cmdStatus := 8 }) ∧
    (unacked s 2 = [] → ∃ t, exec .clear s = .next t ∧ t.cmdStatus = 0 ∧ getF t 0 Reg.fltState_faultstate = 0 ∧
      RegsBut [place 0 Reg.fltState_faultstate] s t ∧ Frame [.status, .regs] s t) ∧
    (∀ seq : Word, ∃ t, exec (.fltSelWrite seq) s = .next t ∧ t.cmdStatus = 0 ∧ Frame [.status, .regs] s t ∧
      ∀ n < 6, getFI t 0 0 n Reg.fltRec_rec = natAt (match s.flt.log.find? (·.seq == seq.toNat) with
        | some r => recordBytes r
        | none => []) (8 * n) 8 % 2 ^ 64))

/-! ## Memory (08) -/

/-- R277, R279, R281, R299: a vacate of a NORMAL pseudo-channel waits or runs from then on, by command or by a retrain request; RESTORE of a
repaired VACATED one begins; a segment's copy in its COPY tick moves the boundary by one, and the copy of the last segment back ends the
relocation; pin repair leads to the restore that nobody has to command. Any other state of the pseudo-channel draws STATE. No byte of HBM
reads differently. Which ticks copy is the model's reading (DEDUCED, log 88). -/
def Obligations.RelocationKeepsTheData : Prop :=
  ∀ (s : State) (stack pc : Nat), runs s .memory = true → fitsStack s stack = true → pc < 32 →
    (pcState s stack pc = 0 →
      (∃ t, exec (.vacate stack pc) s = .next t ∧ t.cmdStatus = 0 ∧ SameBytes s t ∧
        ((∃ w ∈ t.mem.waiting, w.1 = stack ∧ w.2.1 = pc) ∨ (relocOf t stack pc).isSome = true)) ∧
      (∃ t, exec (.vacateStart stack pc) s = .next t ∧ SameBytes s t ∧
        ((∃ w ∈ t.mem.waiting, w.1 = stack ∧ w.2.1 = pc) ∨ (relocOf t stack pc).isSome = true))) ∧
    (pcState s stack pc ≠ 0 → exec (.vacate stack pc) s = .next { s with cmdStatus := 8 }) ∧
    (pcState s stack pc ≠ 2 → exec (.restore stack pc) s = .next { s with cmdStatus := 8 }) ∧
    (∀ r, relocOf s stack pc = some r →
      (pcState s stack pc = 2 → r.repaired = true →
        ∃ t, exec (.restore stack pc) s = .next t ∧ t.cmdStatus = 0 ∧ relocOf t stack pc = some { r with restoring := true } ∧
          SameBytes s t ∧ Frame [.status, .pln, .mem] s t ∧ (stepsRun s = false → Frame [.status, .mem] s t)) ∧
      (pcState s stack pc = 1 → segmentCopies s r = true → r.restoring = false →
        ∃ t, exec (.segmentCopyDone stack pc) s = .next t ∧ relocOf t stack pc = some { r with copied := r.copied + 1 } ∧
          getF t 0 Reg.memCntCopyseg = (getF s 0 Reg.memCntCopyseg + 1) % 2 ^ 64 ∧ SameBytes s t) ∧
      (pcState s stack pc = 1 → segmentCopies s r = true → r.restoring = true →
        (1 < r.copied → ∃ t, exec (.segmentCopyDone stack pc) s = .next t ∧ relocOf t stack pc = some { r with copied := r.copied - 1 } ∧
          SameBytes s t) ∧
        (r.copied = 1 → s.mem.waiting = [] → rowsWaiting s stack pc = [] →
          ∃ t, exec (.segmentCopyDone stack pc) s = .next t ∧ relocOf t stack pc = none ∧
            getF t 0 Reg.memCntCopyseg = (getF s 0 Reg.memCntCopyseg + 1) % 2 ^ 64 ∧ SameBytes s t)) ∧
      (pcState s stack pc = 2 → r.repairing = true →
        (∃ t, exec (.pinRepairDone stack pc true) s = .next t ∧
          relocOf t stack pc = some { r with repairing := false, repaired := true, restoring := !r.commanded } ∧ SameBytes s t) ∧
        (∃ t, exec (.pinRepairDone stack pc false) s = .next t ∧ relocOf t stack pc = some { r with repairing := false } ∧
          SameBytes s t)))

/-- R290, R291: a pseudo-channel that is lost while its stack has no other lost one is LOST from then on; bytes on every other
pseudo-channel read as before. -/
def Obligations.LostPseudoChannelSparesTheOthers : Prop :=
  ∀ (s : State) (stack pc : Nat), runs s .memory = true → fitsStack s stack = true → pc < 32 → relocOf s stack pc = none →
    pcLost s stack pc = false → (s.mem.relocs.any fun q => q.stack == stack && q.lost) = false →
    ∃ t, exec (.memPcLost stack pc) s = .next t ∧ pcState t stack pc = 3 ∧
      (∀ a, ((physOf s a).stack ≠ stack ∨ (physOf s a).pc ≠ pc) → readByte t a = readByte s a) ∧
      (stepsRun s = true → pastCut s = false → t.pln = { s.pln with reports := s.pln.reports ++ [⟨4, nodeId s, s.mer⟩] })

/-- R263, R274, R285, R293, R294: a temperature sets the band of its stack by thresholds with 3 °C of hysteresis, and Critical means
self-refresh; a refresh period gives each stack its banks; a soft repair that is done lifts its redirect; a new split leaves no byte listed,
and is LOCKED while a plan runs. -/
def Obligations.BandsRefreshAndSplit : Prop :=
  (∀ (s : State) (stack temp : Nat), runs s .memory = true → fitsStack s stack = true →
    let band := nextBand (getF s stack Reg.memStkStatus_band) (min temp 255)
    ∃ t, exec (.thermalReading stack temp) s = .next t ∧ getF t stack Reg.memStkStatus_temp = min temp 255 ∧
      getF t stack Reg.memStkStatus_band = band ∧ getF t stack Reg.memStkStatus_selfref = (if band = 3 then 1 else 0) ∧
      SameBytes s t) ∧
  (∀ s : State, runs s .memory = true →
    (s.mer % 1024 = 0 → ∃ t, exec .refreshPeriod s = .next t ∧ t.mem.refreshAt = some s.mer ∧
      t.mem.refresh = (fittedStacks s).map (fun k => (k, if selfRef s k then 0 else
        refreshBanks ((s.mer - s.pln.refreshBase) / 1024) (getF s k Reg.memStkStatus_band))) ∧ SameBytes s t ∧ Frame [.mem] s t) ∧
    (s.mer % 1024 ≠ 0 → exec .refreshPeriod s = .next s)) ∧
  (∀ (s : State) (stack sub : Nat), runs s .memory = true → fitsStack s stack = true → selfRef s stack = false →
    (s.mem.redirects.any (sameRow (fixOf stack sub 1))) = true →
    ∃ t, exec (.softRepairDone stack sub) s = .next t ∧
      t.mem.redirects = s.mem.redirects.filter (fun g => !sameRow (fixOf stack sub 1) g) ∧
      getF t 0 Reg.memCntSppr = (getF s 0 Reg.memCntSppr + 1) % 2 ^ 64 ∧ SameBytes s t) ∧
  (∀ (s : State) (n : Nat), runs s .memory = true →
    (splitMax s < n → exec (.memSplitWrite n) s = .next { s with cmdStatus := 7 }) ∧
    (n ≤ splitMax s → planRuns s = true → exec (.memSplitWrite n) s = .next { s with cmdStatus := 6 }) ∧
    (n ≤ splitMax s → planRuns s = false → allNormal s = false → exec (.memSplitWrite n) s = .next { s with cmdStatus := 8 }) ∧
    (n ≤ splitMax s → planRuns s = false → allNormal s = true → getF s 0 Reg.memSplit_nearUnits ≠ n →
      ∃ t, exec (.memSplitWrite n) s = .next t ∧ t.cmdStatus = 0 ∧ getF t 0 Reg.memSplit_nearUnits = n ∧ t.mem.hbm = [] ∧
        RegsBut [place 0 Reg.memSplit_nearUnits] s t))

/-! ## Movers on the control channel (07) -/

/-- R239, R254, R256, R257: START is ignored with STATE unless its record and the Mover allow it. An accepted START makes its channel BUSY
and moves nothing yet; one of no bytes is EMPTY at once. R239, R250, R254, R257: when a transfer's last byte is written its destination
holds the source bytes or the pattern, its channel is DONE, and it is counted. With no transfer on the channel nothing happens. R252:
RECOVER of a stopped Mover clears STOPPED and VALID, and BUSERR channels return to IDLE. -/
def Obligations.MoversTransferByCommand : Prop :=
  (∀ (s : State) (mov ch : Nat), runs s .memory = true → mov < 4 → ch < 16 →
    let r := crecRec s mov
    let fits := !planRuns s && powerState s == 0 && !movStopped s mov && chStat s mov ch != 1 && getF s mov Reg.movStatus_failed != 1 &&
      crecOk s mov
    (fits = false → exec (.start mov ch) s = .next { s with cmdStatus := 8 }) ∧
    (fits = true → r.len ≠ 0 → ∃ t, exec (.start mov ch) s = .next t ∧ t.cmdStatus = 0 ∧ chStat t mov ch = 1 ∧
      t.eng = { s.eng with movJobs := s.eng.movJobs ++ [⟨mov, ch, r⟩] } ∧ SameBytes s t ∧ PagesBut [7] s t ∧
      Frame [.status, .regs, .eng] s t) ∧
    (fits = true → r.len = 0 → ∃ t, exec (.start mov ch) s = .next t ∧ t.cmdStatus = 0 ∧ chStat t mov ch = 3 ∧
      getF t mov Reg.movCntRecords = (getF s mov Reg.movCntRecords + 1) % 2 ^ 64 ∧
      getF t mov Reg.movCntEmpty = (getF s mov Reg.movCntEmpty + 1) % 2 ^ 64 ∧
      (r.digest = true → getDigest t mov Reg.movDigest_digest = sha384 []) ∧ SameBytes s t ∧ PagesBut [7] s t ∧
      Frame [.status, .regs, .tie] s t)) ∧
  (∀ (s : State) (mov ch : Nat), runs s .memory = true → powerState s = 0 → mov < 4 → ch < 16 →
    ((s.eng.movJobs.find? fun j => j.mover == mov && j.channel == ch) = none → exec (.moverTransferDone mov ch) s = .next s) ∧
    (∀ j, (s.eng.movJobs.find? fun j => j.mover == mov && j.channel == ch) = some j →
      s.mem.ue = [] → s.mem.dead = [] → (s.mem.relocs.any (·.lost)) = false →
      let r := j.cmd
      let data := if r.fill then fillBytes r.srcOfs r.dstOfs r.len else readBytes s r.srcOfs r.len
      ∃ t, exec (.moverTransferDone mov ch) s = .next t ∧ readBytes t r.dstOfs r.len = data ∧ SameBytesBut r.dstOfs r.len s t ∧
        chStat t mov ch = 2 ∧ t.eng.movJobs = s.eng.movJobs.filter (fun k => !(k.mover == mov && k.channel == ch)) ∧
        getF t mov Reg.movCntRecords = (getF s mov Reg.movCntRecords + 1) % 2 ^ 64 ∧
        getF t mov Reg.movCntBytes = (getF s mov Reg.movCntBytes + r.len) % 2 ^ 64 ∧
        (r.digest = true → getDigest t mov Reg.movDigest_digest = sha384 data) ∧ PagesBut [7] s t ∧
        Frame [.regs, .eng, .mem, .tie] s t)) ∧
  (∀ (s : State) (mov : Nat), runs s .memory = true → mov < 4 → movStopped s mov = true →
    ∃ t, exec (.recover mov) s = .next t ∧ t.cmdStatus = 0 ∧ movStopped t mov = false ∧ getF t mov Reg.movBuserr_valid = 0 ∧
      (∀ ch < 16, chStat t mov ch = if chStat s mov ch = 4 then 0 else chStat s mov ch) ∧ SameBytes s t ∧ PagesBut [7] s t ∧
      Frame [.status, .regs] s t)

/-- R255: CANCEL of a channel that runs a control-channel transfer stops it: the destination bytes are undefined and its status is
CANCELLED. RECOVER while the Mover is not STOPPED, and CANCEL of a channel that is not busy, are ignored. -/
def Obligations.CancelAndRecoverAreIgnoredWhereTheyDoNotFit : Prop :=
  ∀ (s : State) (mov ch : Nat), runs s .memory = true → mov < 4 → ch < 16 →
    (∀ j ∈ s.eng.movJobs, j.mover = mov → j.channel = ch →
      ∃ t, exec (.cancel mov ch) s = .next t ∧ t.cmdStatus = 0 ∧ chStat t mov ch = 5 ∧
        t.eng.movJobs = s.eng.movJobs.filter (fun k => !(k.mover == mov && k.channel == ch)) ∧
        (∀ a, j.cmd.dstOfs ≤ a → a < j.cmd.dstOfs + j.cmd.len → ∃ e, rawByte t a = Config.freeByte e a) ∧
        (∀ a, (∀ k ∈ s.eng.movJobs, k.mover = mov → k.channel = ch → ¬ (k.cmd.dstOfs ≤ a ∧ a < k.cmd.dstOfs + k.cmd.len)) →
          readByte t a = readByte s a) ∧
        (∀ c < 16, c ≠ ch → chStat t mov c = chStat s mov c) ∧ PagesBut [7] s t ∧ Frame [.status, .regs, .eng, .mem] s t) ∧
    ((∀ j ∈ s.eng.movJobs, ¬ (j.mover = mov ∧ j.channel = ch)) → exec (.cancel mov ch) s = .next { s with cmdStatus := 8 }) ∧
    (movStopped s mov = false → exec (.recover mov) s = .next { s with cmdStatus := 8 })

/-! ## Block resets (18) -/

/-- R499, R582, R583: a block reset that fits sends the idle request, STATUS reads IDLE, and a step that uses the block reports RESET; an
absent page draws NOPAGE, one that may not be reset RANGE, and a second reset of a busy block STATE. R582, R590: an idle block, or one that
is not idle in time, enters reset: RST_BLOCK records it, it is counted, and STATUS reads RESET; 64 ticks later it is released, and STATUS
reads NORMAL, or FAILED where the unit carries that mark. -/
def Obligations.BlocksAreResetAndReleased : Prop :=
  (∀ (s : State) (page unit : Nat), runs s .core = true →
    (pagePresent s page = false → exec (.blockReset page unit) s = .next { s with cmdStatus := 2 }) ∧
    (pagePresent s page = true →
      let unfit : Prop := resettable page = false ∨ (if page = 0x0600 then 4 < unit else unit ≠ 0)
      (unfit → exec (.blockReset page unit) s = .next { s with cmdStatus := 7 }) ∧
      (¬ unfit → (barrierHeld s page || blockAsked s page unit) = true →
        exec (.blockReset page unit) s = .next { s with cmdStatus := 8 }) ∧
      (¬ unfit → (barrierHeld s page || blockAsked s page unit) = false → (accessPages s).contains page = false →
        ∃ t, exec (.blockReset page unit) s = .next t ∧ t.cmdStatus = 0 ∧
          (⟨page, unit, false, false, s.mer, false⟩ : BlockReset) ∈ t.pwr.blocks ∧
          (unit = 0 → getH t page Reg.status_state = 1) ∧
          (blockUsed s page = true → stepsRun s = true → pastCut s = false →
            t.pln.reports = s.pln.reports ++ [⟨7, nodeId s, s.mer⟩]) ∧
          (blockUsed s page = false → t.pln = s.pln) ∧ SameBytes s t ∧ Frame [.status, .regs, .pln, .pwr] s t))) ∧
  (∀ (s : State) (page unit : Nat), runs s .core = true → pagePresent s page = true →
    (∀ b idle, (s.pwr.blocks.find? fun b => b.page == page && b.unit == unit && !b.waits && !b.held) = some b →
      (idle = true ∨ b.since + getF s 0 Reg.rstCfg_idleTo * 64 ≤ s.mer) →
      ∃ t, exec (.blockIdle page unit idle) s = .next t ∧
        (∃ c ∈ t.pwr.blocks, c.page = page ∧ c.unit = unit ∧ c.held = true ∧ c.since = s.mer) ∧
        getF t 0 Reg.rstBlock_page = page ∧ getF t 0 Reg.rstBlock_timeout = (if idle then 0 else 1) ∧ getF t 0 Reg.rstBlock_valid = 1 ∧
        getF t 0 Reg.rstCntBlock = (getF s 0 Reg.rstCntBlock + 1) % 2 ^ 64 ∧ (unit = 0 → getH t page Reg.status_state = 2) ∧
        (pageKind page = 7 → ∀ j ∈ t.eng.movJobs, j.mover ≠ page % 256)) ∧
    (∀ b, (s.pwr.blocks.find? fun b => b.page == page && b.unit == unit && !b.waits && !b.held) = some b →
      s.mer < b.since + getF s 0 Reg.rstCfg_idleTo * 64 → exec (.blockIdle page unit false) s = .next s) ∧
    (∀ b, (s.pwr.blocks.find? fun b => b.page == page && b.unit == unit && b.held && !b.forever) = some b →
      (b.since + 64 ≤ s.mer → ∃ t, exec (.blockResetRelease page unit) s = .next t ∧ b ∉ t.pwr.blocks ∧
        (unit = 0 → getH t page Reg.status_state =
          if [2, 3, 5].contains (pageKind page) && unitRole s page == 3 then 3 else 0) ∧ SameBytes s t ∧ Frame [.regs, .pwr] s t) ∧
      (s.mer < b.since + 64 → exec (.blockResetRelease page unit) s = .next s)))

/-! ## Host ports (13) -/

/-- R450, R452, R473: every frame that a port in service receives is counted, with the codewords that the FEC corrected. One that fails a
check counts its drop code and joins no queue, and the first stranger since the last read is recorded; a port that is down or does not run
takes nothing. R453, R457: a frame of a station that no policer marks, whose destination is another port with room for it, waits in the
queue of its PCP with the tick of its arrival. -/
def Obligations.FramesAreCheckedAndQueued : Prop :=
  (∀ (s : State) (port : Nat) (f : List Byte) (fec : FecResult), port < 8 →
    (hostLink s port = false ∨ portServes s port = false → exec (.frameReceive port f fec) s = .next s) ∧
    (hostLink s port = true → hostServes s (hostDie port) = true →
      ∃ t, exec (.frameReceive port f fec) s = .next t ∧
        getF t port Reg.hostCntRxframes = (getF s port Reg.hostCntRxframes + 1) % 2 ^ 64 ∧
        getF t port Reg.hostCntRxbytes = (getF s port Reg.hostCntRxbytes + f.length) % 2 ^ 64 ∧
        getF t port Reg.hostCntFecCorr = (getF s port Reg.hostCntFecCorr + fec.corrected) % 2 ^ 64 ∧
        (∀ code, formCode s port f fec.bad = code → code ≠ 0 →
          getF t port (dropCounter code 3) = (getF s port (dropCounter code 3) + 1) % 2 ^ 64 ∧ t.host.ports = s.host.ports ∧
          t.out = s.out) ∧
        (formCode s port f fec.bad = 0 → stationOf s port (vidOf s port f) (netNat f 6 6) = none →
          getF t port Reg.hostCntStranger = (getF s port Reg.hostCntStranger + 1) % 2 ^ 64 ∧ t.host.ports = s.host.ports ∧
          t.out = s.out ∧ getF t (hostDie port) Reg.hostStranger_valid = 1 ∧
          (getF s (hostDie port) Reg.hostStranger_valid = 0 →
            getF t (hostDie port) Reg.hostStranger_sa = netNat f 6 6 ∧ getF t (hostDie port) Reg.hostStranger_port = port % 4))) ∧
    (hostLink s port = true → hostServes s (hostDie port) = false → portServes s port = true →
      ∃ t, exec (.frameReceive port f fec) s = .next t ∧ Frame [.out] s t)) ∧
  (∀ (s : State) (port p i : Nat) (f : List Byte) (fec : FecResult), port < 8 → hostLink s port = true →
    hostServes s (hostDie port) = true → fec.bad = false → formCode s port f false = 0 →
    stationOf s port (vidOf s port f) (netNat f 6 6) = some i →
    getFI s i (hostDie port) 0 Reg.hostStaAttr_policer = 0 → destOf s port (vidOf s port f) i f = .port p →
    let q := queueFor s p (pcpOf f)
    let s1 := bump (bump (bump s port Reg.hostCntRxframes) port Reg.hostCntRxbytes f.length) port Reg.hostCntFecCorr fec.corrected
    (queueCode s1 p q 3 f.length).2 = 0 →
    (admitFrame (queueCode s1 p q 3 f.length).1 (hostDie p) f.length (.forward false) (BitVec.ofNat 7 (2 ^ (p % 4)))).2.isSome = true →
    ∃ t, exec (.frameReceive port f fec) s = .next t ∧
      ∃ g ∈ (queueOf t p q).frames, g.bytes = f ∧ g.vid = vidOf s port f ∧ g.pcp = pcpOf f ∧ g.stamp = s.mer)

/-- R457, R458, R451: the scheduler sends the head of an eligible queue with the smallest finish time, in its egress form, and counts it;
with no eligible queue nothing leaves. -/
def Obligations.SchedulerSendsTheSmallestFinishTime : Prop :=
  ∀ (s : State) (port : Nat), port < 8 → hostServes s (hostDie port) = true → hostLink s port = true →
    (∀ q < 8, agedHead s port q = false) →
    (chosenQueue s port = none → exec (.frameDequeue port) s = .next s ∧ ∀ q < 8, queueEligible s port q = false) ∧
    (∀ q, chosenQueue s port = some q →
      q < 8 ∧ queueEligible s port q = true ∧
      (∀ r < 8, queueEligible s port r = true → ∀ g l g' l', (queueOf s port q).frames = g :: l → (queueOf s port r).frames = g' :: l' →
        g.finish ≤ g'.finish) ∧
      (∀ g l, (queueOf s port q).frames = g :: l → ∃ t, exec (.frameDequeue port) s = .next t ∧
        t.out = (match g.said with
          | some x => [Out.said s.mer port x]
          | none => []) ++ .frame s.mer port (egressForm s port g.vid g.pcp g.bytes) :: s.out ∧ (queueOf t port q).frames = l ∧
        getF t port Reg.hostCntTxframes = (getF s port Reg.hostCntTxframes + 1) % 2 ^ 64))

/-- R447, R473, R606: a host port that may come up reads LINK and ALIGNED; one that goes down discards every frame queued for it. Without
HREF every host port loses its link, and none comes up until it returns. -/
def Obligations.HostLinksComeAndGo : Prop :=
  (∀ (s : State) (port : Nat), port < 8 →
    (canLink s port = true → ∃ t, exec (.hostLinkUp port) s = .next t ∧ hostLink t port = true ∧
      getF t port Reg.hostPortStatus_aligned = 1 ∧ SameBytes s t ∧
      RegsBut [place port Reg.hostPortStatus_link, place port Reg.hostPortStatus_aligned, place port Reg.hostPortStatus_anDone] s t ∧
      Frame [.regs] s t) ∧
    (canLink s port = false → exec (.hostLinkUp port) s = .next s) ∧
    (portServes s port = true → ∃ t, exec (.hostLinkDown port) s = .next t ∧ hostLink t port = false ∧
      ∀ q < 8, (queueOf t port q).frames = [])) ∧
  (∀ s : State, (∃ t, exec .hrefLoss s = .next t ∧ t.pwr.hrefAbsent = true ∧ ∀ port < 8, hostLink t port = false ∧ canLink t port = false) ∧
    ∃ t, exec .hrefReturn s = .next t ∧ t = { s with pwr := { s.pwr with hrefAbsent := false } })

/-! ## The staging responder (13) -/

/-- R468, R469, R488: a WRITE packet with a wrong ICRC, or from a station that is not its queue pair's, is counted and changes no queue
pair. The expected packet of a granted message moves the expected PSN on, unless a write of the register stands in this tick (R20); outside a
plan its bytes reach HBM at once, in a plan those that it has wait for their STAGE slots (R37). A gap draws one NAK, a request outside the
subset or the rights of its window an error, and a duplicate the ACK of the last message in HBM. An answer goes to where the packet came
from (R454). Which STAGE slots a packet takes is the model's reading (DEDUCED, log 93). -/
def Obligations.WritePacketsReachTheirWindow : Prop :=
  ∀ (s : State) (die : Nat) (p : RdmaPkt), die < 2 → hostServes s die = true → PacketComes s die (pktLen p) →
    let i := p.qp - qpnBase die
    let q := pktAtIndex p die
    let port := (replyAddr s die p).port
    let said := fun (t : State) (psn syndrome : Nat) =>
      CanAnswer s port → Told t port (.rdma die i psn 0x11 [BitVec.ofNat 8 syndrome])
    (p.icrcOk = false ∨ (qpnHere die p = true ∧ qpLive s die i = true ∧ getFI s i die 0 Reg.hostQpCfg_station ≠ p.station) →
      ∃ t, exec (.rdmaWritePacket die p) s = .next t ∧
        getF t die Reg.hostCntIcrc = (getF s die Reg.hostCntIcrc + 1) % 2 ^ 64 ∧ t.host.qps = s.host.qps ∧ SameBytes s t) ∧
    (p.icrcOk = true → qpnHere die p = true → qpLive s die i = true → getFI s i die 0 Reg.hostQpCfg_station = p.station →
      (psnAhead s die q = 0 → p.other = false → wroteNow s (regKey i (pageOf 0xE die) 0x1A0) = false → ∀ m w,
        pktPlace s die q = some m →
        winGrants s die m.1 m.2.1 (if p.pos = .first then m.2.2 else p.data.length) true = some w →
        sealed s (winBase s die w + m.2.1) p.data.length = false → SoundHbm s →
        ∃ t, exec (.rdmaWritePacket die p) s = .next t ∧ getFI t i die 0 Reg.hostQpPsn_epsn = (qpPsn s die i + 1) % 2 ^ 24 ∧
          let base := winBase s die w + m.2.1
          (planRuns s = false → s.host.moves = [] → waitingOf s die i = [] →
            (CanAnswer s port ∨ (p.ce = false ∧ getF s (bufInst die) Reg.bufCfg_cnpEn = 0)) →
            readBytes t base p.data.length = p.data ∧ SameBytesBut base p.data.length s t ∧
            (pktEnds p = true → (qpOf t die i).ackPsn = some p.psn)) ∧
          (planRuns s = true → p.data ≠ [] → SameBytes s t ∧
            ∃ e ∈ t.host.packets, e.die = die ∧ e.qp = i ∧ e.psn = p.psn ∧ e.base = base ∧ e.data = p.data ∧ e.ends = pktEnds p)) ∧
      (0 < psnAhead s die q → psnAhead s die q < 2 ^ 23 → (qpOf s die i).naked = false →
        ∃ t, exec (.rdmaWritePacket die p) s = .next t ∧ said t (qpPsn s die i) 0x60 ∧
          (qpOf t die i).naked = true ∧ qpPsn t die i = qpPsn s die i ∧ (CanAnswer s port → SameBytes s t)) ∧
      (∀ psn, 2 ^ 23 ≤ psnAhead s die q → (qpOf s die i).done = some psn →
        ∃ t, exec (.rdmaWritePacket die p) s = .next t ∧ said t psn 0 ∧ qpPsn t die i = qpPsn s die i ∧ (CanAnswer s port → SameBytes s t)) ∧
      (psnAhead s die q = 0 → (p.other = true ∨ pktPlace s die q = none) →
        ∃ t, exec (.rdmaWritePacket die p) s = .next t ∧ (waitingOf s die i = [] ∨ planRuns s = true → said t p.psn 0x61) ∧
          getFI t i die 0 Reg.hostQpCfg_error = 1) ∧
      (psnAhead s die q = 0 → p.other = false → ∀ m, pktPlace s die q = some m →
        winGrants s die m.1 m.2.1 (if p.pos = .first then m.2.2 else p.data.length) true = none →
        ∃ t, exec (.rdmaWritePacket die p) s = .next t ∧ (waitingOf s die i = [] ∨ planRuns s = true → said t p.psn 0x62) ∧
          getFI t i die 0 Reg.hostQpCfg_error = 1))

/-- R467, R469, R470: the ACK of a WRITE leaves once its bytes are in HBM, which in a plan its STAGE slots decide; a READ of a granted
window moves the expected PSN on by the number of its responses, and answers its bytes, at once outside a plan and in a plan after its
STAGE slots (R37). An answer goes to where the request came from (R454). -/
def Obligations.AcksFollowTheBytesAndReadsAnswer : Prop :=
  ∀ (s : State) (die : Nat), die < 2 → hostServes s die = true →
    (∀ qp psn, (qpOf s die qp).ackPsn = some psn → ∃ t, exec (.rdmaWriteAck die qp) s = .next t ∧ (qpOf t die qp).ackPsn = none ∧
      ∀ peer, (qpOf s die qp).peer = some peer → Sent s t peer.port (.rdma die qp psn 0x11 [0]) [] []) ∧
    (∀ qp, (qpOf s die qp).ackPsn = none → (planRuns s = true ∨ ((pendingOf s die qp).any (·.ends)) = false) →
      exec (.rdmaWriteAck die qp) s = .next s) ∧
    (∀ qp p, (qpOf s die qp).ackPsn = none → planRuns s = false → s.host.moves = [] → pendingOf s die qp = [p] → p.ends = true →
      p.left = [(p.base, p.data)] → SoundHbm s →
      ∃ t, exec (.rdmaWriteAck die qp) s = .next t ∧ readBytes t p.base p.data.length = p.data ∧
        (CanAnswer s p.peer.port → Told t p.peer.port (.rdma die qp p.psn 0x11 [0]) ∧ SameBytesBut p.base p.data.length s t)) ∧
    (∀ p w, PacketComes s die (16 + frameBytes p) →
      let i := p.qp - qpnBase die
      let q := pktAtIndex p die
      let port := (replyAddr s die p).port
      p.icrcOk = true → qpnHere die p = true → qpLive s die i = true → getFI s i die 0 Reg.hostQpCfg_station = p.station →
      psnAhead s die q = 0 → p.other = false → (qpOf s die i).message = none →
      wroteNow s (regKey i (pageOf 0xE die) 0x1A0) = false → winGrants s die p.rkey p.va p.len false = some w →
      let epsn := (p.psn + max 1 (ceilDiv p.len (qpMtu s die i))) % 2 ^ 24
      (planRuns s = false → waitingOf s die i = [] → SoundHbm s → ∃ t, exec (.rdmaReadRequest die p) s = .next t ∧
        getFI t i die 0 Reg.hostQpPsn_epsn = epsn ∧
        (CanAnswer s port → p.len ≤ qpMtu s die i → SameBytes s t ∧
          Told t port (.rdma die i (p.psn % 2 ^ 24) 0x10 (readBytes s (winBase s die w + p.va) p.len)))) ∧
      (planRuns s = true → p.len ≠ 0 → ((waitingOf s die i).filter (·.read.isSome)).length < 16 →
        ∃ t, exec (.rdmaReadRequest die p) s = .next t ∧ getFI t i die 0 Reg.hostQpPsn_epsn = epsn ∧ SameBytes s t ∧
          ∃ e ∈ t.host.packets, e.die = die ∧ e.qp = i ∧ e.psn = p.psn ∧ e.base = winBase s die w + p.va ∧ e.read = some p.len))

/-- R472: FINISH closes an open window and starts its digest; a window of no bytes is finished at once. A digest takes one tick for each 32
bytes; when it is done the window's registers hold it and one STAGE record waits. REOPEN opens a closed window that no digest reads. What does
not fit draws STATE. R455, R468: a write of HOST_POL_BURST fills both buckets of the selected policer. A write of the selected queue pair's
VALID 1 after VALID 0 clears its error state and takes the new expected PSN; VALID 0 ends it: outside a plan with no packet waiting, in a plan
with no ACK for those that still reach HBM. PMTU 3 draws RANGE. -/
def Obligations.WindowsPolicersAndQueuePairs : Prop :=
  (∀ (s : State) (die w : Nat), die < 2 → hostServes s die = true →
    let opened : Prop := getFI s w die 0 Reg.hostWinKey_closed = 0
    let reopens : Prop := getFI s w die 0 Reg.hostWinKey_closed = 1 ∧ getFI s w die 0 Reg.hostWinKey_digesting = 0
    let settled : Prop := planRuns s = true ∨ (s.host.packets = [] ∧ s.host.caps = [])
    let began := (kvGet s.host.digestAt die).getD s.mer
    let length := ceilDiv (winLen s die w) 32
    (¬ opened → exec (.finish die w) s = .next { s with cmdStatus := 8 }) ∧
    (opened → winLen s die w ≠ 0 → (∀ x, digestFront s die = some x → winLen s die x ≠ 0) →
      ∃ t, exec (.finish die w) s = .next t ∧ t.cmdStatus = 0 ∧ getFI t w die 0 Reg.hostWinKey_closed = 1 ∧
        getFI t w die 0 Reg.hostWinKey_digesting = 1 ∧ t.host.digests = s.host.digests ++ [(die, w)] ∧ SameBytes s t ∧
        RegsBut [⟨w, die, 0, Reg.hostWinKey_closed⟩, ⟨w, die, 0, Reg.hostWinKey_digesting⟩] s t ∧ Frame [.status, .regs, .host] s t) ∧
    (opened → winLen s die w = 0 → windowBusy s die w = false → digestFront s die = none →
      ∃ t, exec (.finish die w) s = .next t ∧ t.cmdStatus = 0 ∧ getFI t w die 0 Reg.hostWinKey_closed = 1 ∧
        getFI t w die 0 Reg.hostWinKey_digesting = 0 ∧ getDigest t die Reg.hostWinDigest_digest = sha384 []) ∧
    (¬ reopens → exec (.reopen die w) s = .next { s with cmdStatus := 8 }) ∧
    (reopens → ∃ t, exec (.reopen die w) s = .next t ∧ t.cmdStatus = 0 ∧ getFI t w die 0 Reg.hostWinKey_closed = 0 ∧ SameBytes s t ∧
      RegsBut [⟨w, die, 0, Reg.hostWinKey_closed⟩] s t ∧ Frame [.status, .regs] s t) ∧
    (digestFront s die = none → settled → exec (.stagingDigestDone die) s = .next s) ∧
    (s.host.digests = [(die, w)] → settled → (windowBusy s die w = true ∨ s.mer + 1 < began + length) →
      ∃ t, exec (.stagingDigestDone die) s = .next t ∧ t.host.digests = [(die, w)] ∧ Frame [.host] s t) ∧
    (s.host.digests = [(die, w)] → windowBusy s die w = false → settled → began + length ≤ s.mer + 1 → SoundHbm s →
      let d := sha384 (readBytes s (winBase s die w) (winLen s die w))
      ∃ t, exec (.stagingDigestDone die) s = .next t ∧ getDigest t die Reg.hostWinDigest_digest = d ∧
        getFI t w die 0 Reg.hostWinKey_digesting = 0 ∧ t.host.digests = [] ∧
        t.ct.stageAux = s.ct.stageAux ++ [(s.mer, auxRecord 2 (stageItem s die w d))] ∧
        getF t die Reg.hostCntDigests = (getF s die Reg.hostCntDigests + 1) % 2 ^ 64 ∧ SameBytes s t)) ∧
  (∀ (s : State) (die : Nat), die < 2 → hostServes s die = true →
    (∀ value : Word, ∃ t, exec (.hostPolBurstWrite die value) s = .next t ∧ t.cmdStatus = 0 ∧
      let i := getF s die Reg.hostPolSel_index
      policerNow t die i = ⟨die, i, bits value 0 24 * tokenUnit, bits value 24 24 * tokenUnit, s.mer⟩ ∧ SameBytes s t ∧
        RegsBut [⟨i, die, 0, Reg.hostPolBurst_cbs⟩, ⟨i, die, 0, Reg.hostPolBurst_ebsPbs⟩] s t ∧ Frame [.status, .regs, .host, .pwr] s t) ∧
    (∀ (cfg : Word) (psn : Nat),
      let i := getF s die Reg.hostQpSel_index
      (bits cfg 25 2 = 3 → exec (.qpValidWrite die cfg psn) s = .next { s with cmdStatus := 7 }) ∧
      (bits cfg 25 2 ≠ 3 → ∃ t, exec (.qpValidWrite die cfg psn) s = .next t ∧ t.cmdStatus = 0 ∧
        getFI t i die 0 Reg.hostQpCfg_valid = bits cfg 24 1 ∧ getFI t i die 0 Reg.hostQpCfg_remoteQpn = bits cfg 0 24 ∧
        getFI t i die 0 Reg.hostQpCfg_station = bits cfg 27 10 ∧ getFI t i die 0 Reg.hostQpPsn_epsn = psn % 2 ^ 24 ∧
        (bits cfg 24 1 = 1 → getFI s i die 0 Reg.hostQpCfg_valid = 0 → getFI t i die 0 Reg.hostQpCfg_error = 0 ∧
          qpOf t die i = .fresh die i ∧ SameBytes s t) ∧
        (bits cfg 24 1 = 0 → (qpOf t die i).message = none ∧ (planRuns s = false → pendingOf t die i = []) ∧
          (planRuns s = true → ∀ e ∈ pendingOf t die i, e.ends = false)))))

/-! ## The control channel (13, 15, 16) -/

/-- R465, R543: a ClientHello that a port in reach carries draws a HelloRetryRequest until it shows the cookie; one whose anchor the owner
lists opens the lowest free session; beyond four sessions, without an anchor, or without the supported options (that this one is counted is
the model's choice, log 108), it is ignored. R465, R466, R492: a record that fails its check or comes in a datagram of more than 1400 bytes is
discarded and counted; an authentic one stands for the request that its bytes spell, and a KeyUpdate of the client begins the count of its
records anew. An idle session closes after 2^35 ticks, and a KeyUpdate leaves after 2^24 records. -/
def Obligations.SessionsOpenCarryAndClose : Prop :=
  (∀ (s : State) (die : Nat) (auth : HelloAuth), die < 2 → runs s .service = true →
    let peer := helloClient auth die
    let opens : Prop := helloSupported auth = true ∧ portReached s peer.port = true
    (portReached s peer.port = false → exec (.dtlsClientHello die auth) s = .next s) ∧
    (∀ id, opens → freeSession s die = some id → auth.cookie = false →
      ∃ t, exec (.dtlsClientHello die auth) s = .next t ∧ t.ctl = s.ctl ∧ Sent s t peer.port (.hello die) [] []) ∧
    (∀ id priv, opens → freeSession s die = some id → auth.cookie = true → anchorPriv s auth.anchor = some priv →
      ∃ t, exec (.dtlsClientHello die auth) s = .next t ∧ id / 4 = die ∧ sessionOf s id = none ∧
        t.ctl = { s.ctl with sessions := s.ctl.sessions ++ [⟨id, auth.anchor, priv, s.mer, 0, 0, [], peer⟩] } ∧ SameBytes s t ∧
        Frame [.ctl, .regs] s t) ∧
    (portReached s peer.port = true →
      (helloSupported auth = false ∨ freeSession s die = none ∨ (auth.cookie = true ∧ anchorPriv s auth.anchor = none)) →
      ∃ t, exec (.dtlsClientHello die auth) s = .next t ∧ SameBytes s t ∧ RegsBut [place die Reg.hostCntDtlsBad] s t ∧ Frame [.regs] s t)) ∧
  (∀ (s : State) (id : Nat), id < 8 → runs s .service = true →
    (∀ auth l, (auth.ok = false ∨ 1400 < datagramLen l) →
      ∃ t, exec (.dtlsRecord id auth l) s = .next t ∧ SameBytes s t ∧ RegsBut [place (id / 4) Reg.hostCntDtlsBad] s t ∧
        (runs s .hosts = true → getF t (id / 4) Reg.hostCntDtlsBad = (getF s (id / 4) Reg.hostCntDtlsBad + 1) % 2 ^ 64) ∧ Frame [.regs] s t) ∧
    (∀ auth l, auth.ok = true → datagramLen l ≤ 1400 →
      (∀ x, auth.update = true → sessionOf s id = some x → ∃ t, exec (.dtlsRecord id auth l) s = .next t ∧
        sessionOf t id = some { x with last := s.mer, rx := 0 } ∧ Frame [.ctl] s t) ∧
      (auth.update = false → ∀ tag, let h : MsgHdr := ⟨id, tag, auth.seq, auth.pcp⟩
        (parseMsg l = (tag, .hello) → exec (.dtlsRecord id auth l) s = exec (.hello h) s) ∧
        (∀ n e, parseMsg l = (tag, .read n e) → exec (.dtlsRecord id auth l) s = exec (.read h n e) s) ∧
        (∀ n e, parseMsg l = (tag, .write n e) → exec (.dtlsRecord id auth l) s = exec (.write h n e) s) ∧
        (∀ f n, parseMsg l = (tag, .ledgerRead f n) → exec (.dtlsRecord id auth l) s = exec (.ledgerRead h f n) s) ∧
        (∀ k, parseMsg l = (tag, .certGet k) → exec (.dtlsRecord id auth l) s = exec (.certGet h k) s) ∧
        (parseMsg l = (tag, .nop) → exec (.dtlsRecord id auth l) s = exec (.nop h) s) ∧
        (∀ f p n, parseMsg l = (tag, .attest f p n) → exec (.dtlsRecord id auth l) s = exec (.attest h f p n) s) ∧
        (∀ o c n d, parseMsg l = (tag, .image o c n d) → exec (.dtlsRecord id auth l) s = exec (.image h o c n d) s) ∧
        (∀ x kind count, id = x.id → Asks s x kind tag → parseMsg l = (tag, .bad kind count) → kind ≠ 2 →
          ∃ t, exec (.dtlsRecord id auth l) s = .next t ∧
            Answered s t x (responseBytes kind tag 1 count 0xFFFF 0 []) [0x11] [.ctl, .regs]))) ∧
    (∀ x, sessionOf s id = some x →
      (x.last + 2 ^ 35 ≤ s.mer → ∃ t, exec (.dtlsIdleTimeout id) s = .next t ∧ sessionOf t id = none ∧
        (∀ other, other ≠ id → sessionOf t other = sessionOf s other) ∧ SameBytes s t ∧ Frame [.ctl, .fw, .regs] s t) ∧
      (s.mer < x.last + 2 ^ 35 → exec (.dtlsIdleTimeout id) s = .next s) ∧
      ((2 ^ 24 ≤ x.rx ∨ 2 ^ 24 ≤ x.tx) → ∃ t, exec (.keyUpdate id) s = .next t ∧
        sessionOf t id = some { x with rx := 0, tx := 0 } ∧ Sent s t x.peer.port (.keyUpdate id) [] [.ctl]) ∧
      (x.rx < 2 ^ 24 → x.tx < 2 ^ 24 → exec (.keyUpdate id) s = .next s)))

/-- R498, R508, R509, R519, R541: HELLO, NOP, LEDGER_READ, CERT_GET and ATTEST draw their responses at once, with the privilege and the
range that each asks for; no register but SEC_CTL_LAST and the report counter changes. R523, R541: a report carries AK's signature over it, whose
nonce is a free value (log 11). -/
def Obligations.ServiceMessagesAreAnswered : Prop :=
  ∀ (s : State) (x : Session) (tag seq pcp : Nat),
    let h : MsgHdr := ⟨x.id, tag, seq, pcp⟩
    (Asks s x 0 tag → ∃ t, exec (.hello h) s = .next t ∧
      Answered s t x (responseBytes 0 tag 0 0 0xFFFF 0 (helloBody s x.id)) [] [.ctl] ∧ t.ctl.requests = []) ∧
    (Asks s x 5 tag → ∃ t, exec (.nop h) s = .next t ∧
      Answered s t x (responseBytes 5 tag 0 0 0xFFFF 0 []) [] [.ctl] ∧ t.ctl.requests = []) ∧
    (∀ first count, Asks s x 3 tag →
      let held := fitRecords count 1256 (s.ct.ring.filter fun r => decide (first ≤ r.no))
      let v : Nat × Nat × List Byte :=
        if 255 < count then (1, count, []) else if x.priv.getLsbD 0 = false then (5, count, []) else if count = 0 then (0, count, [])
        else if first < getF s 0 Reg.secCtFirst_first ∨ getF s 0 Reg.secCtNext_next ≤ first then (0xA, count, [])
        else (0, held.length, held.flatMap (·.bytes))
      ∃ t, exec (.ledgerRead h first count) s = .next t ∧
        Answered s t x (responseBytes 3 tag v.1 v.2.1 0xFFFF 0 v.2.2) [0x11] [.ctl, .regs] ∧ t.ctl.requests = []) ∧
    (∀ kind, Asks s x 4 tag →
      let v : Nat × List Byte :=
        if x.priv.getLsbD 0 = false then (5, [])
        else match (if 1 ≤ kind ∧ kind ≤ 4 then kvGet s.ct.certs kind else none) with
          | some c => (0, c)
          | none => (0xA, [])
      ∃ t, exec (.certGet h kind) s = .next t ∧
        Answered s t x (responseBytes 4 tag v.1 0 0xFFFF 0 v.2) [0x11] [.ctl, .regs] ∧ t.ctl.requests = []) ∧
    (∀ (form part : Nat) (nonce : BitVec 128), Asks s x 6 tag →
      ∃ t bytes, exec (.attest h form part nonce) s = .next t ∧ t.ctl.requests = [] ∧ Answered s t x bytes [0x11] [.ctl, .regs] ∧
        (form = 0 → ∃ sig k, sig.length = 96 ∧ (let v := ecdsaSign (akScalar s) (beNat (digestBytes (sha384 (reportBody s nonce)))) k
            sig = leBytes 48 v.1 ++ leBytes 48 v.2) ∧
          bytes = responseBytes 6 tag 0 512 0xFFFF 0 (reportBody s nonce ++ sig)) ∧
        (form = 1 → bytes = match attestPart s part with
          | some l => responseBytes 6 tag 0 l.length 0xFFFF 0 l
          | none => responseBytes 6 tag 7 0 0xFFFF 0 []) ∧
        (1 < form → bytes = responseBytes 6 tag 1 0 0xFFFF 0 []))

/-- R498: the HELLO response body is 16 bytes: GRADE, STEPPING, MODE (0 normal, 1 Dusk), SESSION (0 to 3 on HD0, 4 to 7 on HD1), PAGES, the
count of the page directory, NODE_ID as the device record gives it, and 8 reserved bytes, which read zero. -/
def Obligations.HelloNamesTheDevice : Prop :=
  ∀ (s : State) (x : Session) (tag seq pcp : Nat), Asks s x 0 tag →
    ∃ t body, exec (.hello ⟨x.id, tag, seq, pcp⟩) s = .next t ∧
      Answered s t x (responseBytes 0 tag 0 0 0xFFFF 0 body) [] [.ctl] ∧ body.length = 16 ∧
      body[0]? = some (BitVec.ofNat 8 s.mfg.grade) ∧ body[1]? = some (BitVec.ofNat 8 s.mfg.stepping) ∧
      body[2]? = some (if s.pwr.phase = .dusk then 1 else 0) ∧ body[3]? = some (BitVec.ofNat 8 x.id) ∧
      leNat ((body.drop 4).take 2) = (directory s).length % 2 ^ 16 ∧ leNat ((body.drop 6).take 2) = nodeId s % 2 ^ 16 ∧
      body.drop 8 = List.replicate 8 0

/-- R530, R532, R536, R539: an object arrives in chunks of one session in order. A first chunk opens the upload, and a firmware slot reads
RECEIVING; the last makes the slot VALID or INVALID by the checks of the image, or puts an owner record in force. A wrong form draws
MALFORMED, and a session without the privilege DENIED. -/
def Obligations.ImagesArriveInChunks : Prop :=
  ∀ (s : State) (x : Session) (tag seq pcp obj chunk total : Nat) (data : List Byte), Asks s x 7 tag →
    let h : MsgHdr := ⟨x.id, tag, seq, pcp⟩
    let formed : Prop := 1 ≤ obj ∧ obj ≤ 2 ∧ data ≠ [] ∧ data.length ≤ 1024
    let answered := fun (t : State) (status : Nat) (body : List Byte) =>
      CanAnswer s x.peer.port → Told t x.peer.port (.response x.id (responseBytes 7 tag status data.length 0xFFFF 0 body))
    let body := fun (reason : Nat) => leBytes 2 reason ++ leBytes 6 0
    (¬ formed → ∃ t, exec (.image h obj chunk total data) s = .next t ∧ answered t 1 [] ∧ t.fw = s.fw ∧ t.owner = s.owner) ∧
    (formed → imageDenied s x.priv obj = true → ∃ t, exec (.image h obj chunk total data) s = .next t ∧ answered t 5 [] ∧
      t.fw = s.fw ∧ t.owner = s.owner) ∧
    (formed → imageDenied s x.priv obj = false →
      (uploadRefused s obj = true → ∃ t, exec (.image h obj chunk total data) s = .next t ∧ answered t 8 (body 2) ∧ t.fw = s.fw) ∧
      (uploadRefused s obj = false →
        (chunk = 0 → s.fw.upload = none → data.length < total → total ≤ objectMax obj →
          ∃ t, exec (.image h obj chunk total data) s = .next t ∧ answered t 0 (body 0) ∧
            t.fw.upload = some ⟨x.id, obj, total, 1, data⟩ ∧ (obj = 1 → slotState t (uploadSlot s) = 3) ∧ t.owner = s.owner) ∧
        (∀ u, s.fw.upload = some u → u.session = x.id → u.obj = obj → u.next = chunk → 0 < chunk → total = 0 →
          (u.data.length + data.length < u.total → ∃ t, exec (.image h obj chunk total data) s = .next t ∧ answered t 0 (body 0) ∧
            t.fw = { s.fw with upload := some { u with next := chunk + 1, data := u.data ++ data } } ∧ t.owner = s.owner) ∧
          (u.data.length + data.length = u.total → obj = 1 →
            let r := fwCheck s (u.data ++ data)
            ∃ t, exec (.image h obj chunk total data) s = .next t ∧ answered t (reasonStatus r) (body r) ∧ t.fw.upload = none ∧
              slotState t (uploadSlot s) = (if r = 0 then 1 else 2) ∧ t.owner = s.owner) ∧
          (u.data.length + data.length = u.total → obj = 2 →
            let r := ownerCheck s (u.data ++ data)
            ∃ t, exec (.image h obj chunk total data) s = .next t ∧ answered t (reasonStatus r) (body r) ∧ t.fw.upload = none ∧
              t.owner = (if r ≠ 0 then s.owner else if ownerRelease (u.data ++ data) then none else some (ownerOf (u.data ++ data))) ∧
              (t.owner ≠ s.owner → ∀ y ∈ t.ctl.sessions, (operatorOf t y.anchor).isSome = true)))))

/-- R499, R501, R503: an access is checked before any block is asked: the lowest status and the first entry that carries it answer, and
nothing changes but the refusal count. One that passes goes to its blocks, and none of its effects has happened yet. -/
def Obligations.AccessesAreCheckedFirst : Prop :=
  ∀ (s : State) (x : Session) (tag seq pcp count : Nat),
    let h : MsgHdr := ⟨x.id, tag, seq, pcp⟩
    (∀ l : List ReadEntry, Asks s x 1 tag →
      let w := worst (l.map (readStatus s x.priv))
      (64 < count ∨ l.length ≠ count → ∃ t, exec (.read h count l) s = .next t ∧
        Answered s t x (responseBytes 1 tag 1 count 0xFFFF 0 []) [0x11] [.ctl, .regs]) ∧
      (count ≤ 64 → l.length = count → w.1 ≠ 0 → ∃ t, exec (.read h count l) s = .next t ∧
        Answered s t x (responseBytes 1 tag w.1 count w.2 0 []) [0x11] [.ctl, .regs]) ∧
      (count ≤ 64 → l.length = count → w.1 = 0 → count ≠ 0 → ∃ t, exec (.read h count l) s = .next t ∧
        t.ctl.access = some (s.mer, silentEntry s (l.map fun e => addrPage e.addr)) ∧
        t.ctl.requests = [⟨x.id, tag, .read count l, seq, pcp⟩] ∧ Frame [.ctl] s t)) ∧
    (∀ l : List WriteEntry, Asks s x 2 tag →
      let w := worst (writeStatuses s x.priv [] l)
      let v := worst (rangeStatuses s l)
      let refused := fun (t : State) (status index : Nat) =>
        Answered s t x (responseBytes 2 tag status count index 0 []) [0x11] [.ctl, .regs] ∧
          getF t 0 Reg.secCtlCntRefused = (getF s 0 Reg.secCtlCntRefused + 1) % 2 ^ 64
      (48 < count ∨ l.length ≠ count → ∃ t, exec (.write h count l) s = .next t ∧ refused t 1 0xFFFF) ∧
      (count ≤ 48 → l.length = count → w.1 ≠ 0 → ∃ t, exec (.write h count l) s = .next t ∧ refused t w.1 w.2) ∧
      (count ≤ 48 → l.length = count → w.1 = 0 → count ≠ 0 → v.1 ≠ 0 →
        ∃ t, exec (.write h count l) s = .next t ∧ refused t v.1 v.2) ∧
      (count ≤ 48 → l.length = count → w.1 = 0 → v.1 = 0 → count ≠ 0 → ∃ t, exec (.write h count l) s = .next t ∧
        t.ctl.access = some (s.mer, silentEntry s (l.map fun e => addrPage e.addr)) ∧
        t.ctl.requests = [⟨x.id, tag, .write count l, seq, pcp⟩] ∧ Frame [.ctl] s t))

/-- R501, R503, R504, R505: in one tick, a multiple of 64 at least 64 ticks after every block answered, a READ takes all its samples and a
WRITE applies all its entries. A WRITE that touches a locked field changes nothing, and a block that stays silent for 16,384 ticks makes a
TIMEOUT. Before its tick an access does nothing. -/
def Obligations.AccessesActInOneTick : Prop :=
  ∀ (s : State) (x : Session) (tag seq pcp : Nat), runs s .service = true → sessionOf s x.id = some x →
    (s.pwr.blocks.any (·.waits)) = false →
    (accessDue s = false → exec .readSample s = .next s ∧ exec .writeApply s = .next s) ∧
    (∀ count l, accessDue s = true → s.ctl.requests = [⟨x.id, tag, .read count l, seq, pcp⟩] →
      (l.all fun e => e.flags == 0 || isSelector (addrPage e.addr) (addrOff e.addr)) = true →
      ∃ t, exec .readSample s = .next t ∧ t.ctl.access = none ∧ t.ctl.requests = [] ∧
        let bytes := responseBytes 1 tag 0 count 0xFFFF s.mer ((sampleAll s l).2.flatMap fun w => leBytes 8 w.toNat)
        KeptAnswer t x.id bytes ∧ (CanAnswer s x.peer.port → Told t x.peer.port (.response x.id bytes) ∧ SameBytes s t)) ∧
    (∀ count l, accessDue s = true → s.ctl.requests = [⟨x.id, tag, .write count l, seq, pcp⟩] →
      (∀ i, lockedEntry s l = some i → ∃ t, exec .writeApply s = .next t ∧ t.ctl.access = none ∧
        Answered s t x (responseBytes 2 tag 6 count i s.mer []) [0x11] [.ctl, .regs] ∧
        getF t 0 Reg.secCtlCntRefused = (getF s 0 Reg.secCtlCntRefused + 1) % 2 ^ 64 ∧
        (CanAnswer s x.peer.port →
          RegsBut [place 0 Reg.secCtlCntRefused, place 0 Reg.secCtlLast_status, place 0 Reg.secCtlLast_type, place 0 Reg.secCtlLast_index,
            place 0 Reg.secCtlLast_session, place 0 Reg.secCtlLast_valid] s t)) ∧
      (lockedEntry s l = none → (l.all fun e => !(addrPage e.addr == 0x1400 && addrOff e.addr == 0x138)) = true →
        let v := applyAll s l
        let w := worst v.2
        ∃ t, exec .writeApply s = .next t ∧ t.ctl.access = none ∧
          (CanAnswer v.1 x.peer.port → Told t x.peer.port (.response x.id (responseBytes 2 tag w.1 count w.2 s.mer []))))) ∧
    (∀ r t0 i, s.ctl.access = some (t0, some i) → s.ctl.requests = [r] → r.session = x.id →
      (t0 + 16384 ≤ s.mer → ∃ t, exec .accessTimeout s = .next t ∧ t.ctl.access = none ∧
        Answered s t x (responseBytes r.msg.kind r.tag 9 r.msg.count i 0 []) [0x11] [.ctl, .regs]) ∧
      (s.mer < t0 + 16384 → exec .accessTimeout s = .next s))

/-! ## Registers (15) -/

/-- R499, R502, R504: a write entry to a register with no row of its own sets the masked bits of its RW and RWL fields and no other
register. An absent page draws NOPAGE, a silent block TIMEOUT, an offset without a register NOREG, a locked field LOCKED, and a value
outside its range RANGE; then nothing changes. -/
def Obligations.RegisterWritesSetMaskedBits : Prop :=
  ∀ (s : State) (page off : Nat) (mask value : Word),
    (pageListed s page = false → exec (.registerWrite page off mask value) s = .next { s with cmdStatus := 2 }) ∧
    (pageListed s page = true → pageServes s page = false → exec (.registerWrite page off mask value) s = .next { s with cmdStatus := 9 }) ∧
    (pageListed s page = true → pageServes s page = true →
      let e : WriteEntry := ⟨page * 4096 + off, 0, mask, value⟩
      (regStands page off = false → exec (.registerWrite page off mask value) s = .next { s with cmdStatus := 3 }) ∧
      (regStands page off = true → 8 ≤ off →
        ((lockedEntry s [e]).isSome = true → exec (.registerWrite page off mask value) s = .next { s with cmdStatus := 6 }) ∧
        (lockedEntry s [e] = none → rangeStatuses s [e] ≠ [0] →
          exec (.registerWrite page off mask value) s = .next { s with cmdStatus := 7 }) ∧
        (lockedEntry s [e] = none → rangeStatuses s [e] = [0] → page < 65536 → off < 4096 →
          (pageKind page, off) ∈ [(0x1, 0x100), (0x1, 0x108), (0x1, 0x118), (0xF, 0x100), (0x13, 0x100), (0x14, 0x100)] →
          ∃ t, exec (.registerWrite page off mask value) s = .next t ∧ t.cmdStatus = 0 ∧
            (∀ f ∈ regFields page off, f.acc = .rw ∨ f.acc = .rwl → ∀ b, f.lo ≤ b → b < f.lo + f.width →
              (getReg t 0 page off).getLsbD b = if mask.getLsbD b then value.getLsbD b else (getReg s 0 page off).getLsbD b) ∧
            (∀ idx p o, p < 65536 → o < 4096 → ¬ (idx = 0 ∧ p = page ∧ o = off) → getReg t idx p o = getReg s idx p o) ∧
            SameBytes s t ∧ Frame [.status, .regs, .pwr, .tie] s t)))

/-- R170, R434, R438, R512: a frozen page reads the held counter values whatever the counters do, and a released one reads them live; a
write of BRU_LAG_SEL copies the selected entry, as FREEZE holds it where it does, or zeros beyond the last; a write of SEC_CT_ACK frees the
records below it; SIGN asks for a certificate. -/
def Obligations.SelectorsFreezeAndLedger : Prop :=
  (∀ (s : State) (page : Nat), pageListed s page = true → pageServes s page = true →
    (getH s page Reg.cntFreeze_freeze = 0 →
      ∃ t, exec (.cntFreezeWrite page true) s = .next t ∧ t.cmdStatus = 0 ∧ getH t page Reg.cntFreeze_freeze = 1 ∧
        (∀ off v, isCounter page off = true → (readReg (setReg t 0 page off v) page off).1 = getReg s 0 page off) ∧
        Frame [.status, .regs, .ctl] s t) ∧
    (∃ t, exec (.cntFreezeWrite page false) s = .next t ∧ t.cmdStatus = 0 ∧ getH t page Reg.cntFreeze_freeze = 0 ∧
      (∀ off v, isCounter page off = true → (readReg (setReg t 0 page off v) page off).1 = v ∧ getReg t 0 page off = getReg s 0 page off) ∧
      Frame [.status, .regs, .ctl] s t)) ∧
  (∀ (s : State) (index : Nat), pageListed s 0x0400 = true → pageServes s 0x0400 = true → index < 256 →
    let l := (s.ctl.frozenLags.getD s.fab.lags).mergeSort fun a b => decide (a.node ≤ b.node)
    ∃ t, exec (.bruLagSelWrite index) s = .next t ∧ t.cmdStatus = 0 ∧ getF t 0 Reg.bruLagSel_index = index ∧
      (∀ n < 12, getReg t 0 0x0400 (0x110 + 8 * n) = BitVec.ofNat 64 (match l[index]? with
        | some e => (lagWords e).getD n 0
        | none => 0)) ∧ PagesBut [4] s t ∧ Frame [.status, .regs] s t) ∧
  (∀ (s : State), runs s .service = true →
    (∀ n : Word, (n.toNat < getF s 0 Reg.secCtFirst_first ∨ getF s 0 Reg.secCtNext_next < n.toNat →
        exec (.secCtAckWrite n) s = .next { s with cmdStatus := 7 }) ∧
      (getF s 0 Reg.secCtFirst_first ≤ n.toNat → n.toNat ≤ getF s 0 Reg.secCtNext_next →
        ∃ t, exec (.secCtAckWrite n) s = .next t ∧ t.cmdStatus = 0 ∧ t.ct.ring = s.ct.ring.filter (fun r => decide (n.toNat ≤ r.no)) ∧
          getF t 0 Reg.secCtAck_ack = n.toNat ∧ SameBytes s t ∧ Frame [.status, .regs, .ct, .flt] s t)) ∧
    ∃ t, exec .sign s = .next t ∧ t = { s with cmdStatus := 0, ct := { s.ct with signReq := true } })

/-! ## Firmware (16, 20) -/

/-- R538, R547, R612: ADVANCE raises the SVN counter to the running image's SVN and never lowers it; SELECT names a VALID slot; ERASE
empties a slot that does not run; PENDING asks for the slot that does not run if it is VALID. What does not fit draws STATE. R614, R615: new
firmware that takes over in time is the running slot with DONE set; in a plan nothing else of the plan changes. One that has not taken over
within 2^21 ticks leaves ACTIVE at the previous slot, and the device resets: no plan survives. -/
def Obligations.FirmwareCommandsAndHandovers : Prop :=
  (∀ s : State, runs s .service = true →
    (flashBad s 0 = true → exec .advance s = .next { s with cmdStatus := 8 }) ∧
    (flashBad s 0 = false → ∃ t, exec .advance s = .next t ∧ t.cmdStatus = 0 ∧
      getF t 0 Reg.secSvn_svn = max (getF s 0 Reg.secSvn_svn) (getF s 0 Reg.secSvn_runSvn) ∧ SameBytes s t ∧
      RegsBut [place 0 Reg.secSvn_svn] s t ∧ t.fw = { s.fw with writes := t.fw.writes } ∧ Frame [.status, .regs, .pwr, .fw] s t) ∧
    (∀ slot < 2,
      (slotState s slot ≠ 1 → exec (.select slot) s = .next { s with cmdStatus := 8 }) ∧
      (slotState s slot = 1 → ∃ t, exec (.select slot) s = .next t ∧ t.cmdStatus = 0 ∧ getF t 0 Reg.secFwState_active = slot ∧
        SameBytes s t ∧ RegsBut [place 0 Reg.secFwState_active] s t ∧ Frame [.status, .regs, .pwr] s t) ∧
      ((inDusk s = false ∧ slot = getF s 0 Reg.secState_bootSlot) ∨ flashBad s slot = true →
        exec (.erase slot) s = .next { s with cmdStatus := 8 }) ∧
      ((inDusk s = true ∨ slot ≠ getF s 0 Reg.secState_bootSlot) → flashBad s slot = false →
        ∃ t, exec (.erase slot) s = .next t ∧ t.cmdStatus = 0 ∧ slotState t slot = 0 ∧ fwSlot t slot = none ∧
          fwSlot t (1 - slot) = fwSlot s (1 - slot) ∧ SameBytes s t ∧ Frame [.status, .regs, .fw, .free, .pwr] s t)) ∧
    (let unfit : Prop := slotState s (otherSlot s) ≠ 1 ∨ getF s 0 Reg.plnState_staged = 1 ∨ getF s 0 Reg.plnState_staged = 2
     (unfit → exec .pending s = .next { s with cmdStatus := 8 }) ∧
     (¬ unfit → ∃ t, exec .pending s = .next t ∧ t.cmdStatus = 0 ∧ getF t 0 Reg.secFwAct_pending = 1 ∧ SameBytes s t ∧
      RegsBut [place 0 Reg.secFwAct_pending] s t ∧ Frame [.status, .regs, .tie] s t))) ∧
  (∀ (s : State) (t0 : Nat), runs s .service = true →
    (s.pln.handover = none → exec .fwHandoverDone s = .next s ∧ exec .fwHandoverTimeout s = .next s) ∧
    (s.pln.handover = some t0 →
      (∀ f, s.mer ≤ t0 + 2 ^ 21 → slotBoots s (getF s 0 Reg.secFwState_active) = true →
        fwSlot s (getF s 0 Reg.secFwState_active) = some f → planRuns s = true →
        ∃ t, exec .fwHandoverDone s = .next t ∧ getF t 0 Reg.secState_bootSlot = getF s 0 Reg.secFwState_active ∧
          getF t 0 Reg.secFwAct_done = 1 ∧ getF t 0 Reg.secFwAct_pending = 0 ∧ getF t 0 Reg.secSvn_runSvn = f.svn % 2 ^ 32 ∧
          getDigest t 0 Reg.secFwdig_digest = f.digest ∧ getF t 0 Reg.secSvn_svn = getF s 0 Reg.secSvn_svn ∧
          t.pln = { s.pln with handover := none } ∧ SameBytes s t ∧ Frame [.regs, .pln, .fw] s t) ∧
      (t0 + 2 ^ 21 < s.mer → exec .fwHandoverDone s = .next s) ∧
      (t0 + 2 ^ 21 ≤ s.mer → ∃ t, exec .fwHandoverTimeout s = .next t ∧ t.pln.active = none ∧ t.pln.staged = none ∧
        t.pln.handover = none ∧ t.pwr.phase ≠ .service ∧ t.fw.prevSlot = none ∧
        getF t 0 Reg.secFwState_active = s.fw.prevSlot.getD (getF s 0 Reg.secState_bootSlot) % 2) ∧
      (s.mer < t0 + 2 ^ 21 → exec .fwHandoverTimeout s = .next s)))

/-! ## Resets and starts (18) -/

/-- R99: a pin reset of a device that starts or runs returns every field of the PLN page to its power-on value and empties both banks: a
plan never survives a reset. -/
def Obligations.PinResetEndsEveryPlan : Prop :=
  ∀ s : State, s.pwr.phase = .starting ∨ s.pwr.phase = .failed ∨ s.pwr.phase = .service ∨ s.pwr.phase = .dusk →
    ∃ t, exec (.modResetNAssert true) s = .next t ∧ t.pwr.phase = .held ∧ t.pwr.pin = true ∧
      (∀ idx off, off < 4096 → getReg t idx 0x0100 off = regReset 1 off) ∧ t.pln.active = none ∧ t.pln.staged = none ∧ planRuns t = false

/-- R570 to R572, R578, R581, R606: RESET, EXIT_DUSK and the loss of FREF reset the device as the pin does. A device that is held starts
once the pin is free, FREF is present and the flash interface rests, and counts the start; a start with the count at 3 enters Dusk.
ENTER_DUSK sets the count to 3, and draws STATE while a plan runs. -/
def Obligations.ResetsHoldAndRelease : Prop :=
  (∀ s : State, runs s .service = true →
    let ended := fun (t : State) => t.pwr.phase ≠ .service ∧ t.pln.active = none ∧ t.pln.staged = none ∧
      ∀ off < 4096, getReg t 0 0x0100 off = regReset 1 off
    (∃ t, exec .reset s = .next t ∧ ended t) ∧ (∃ t, exec .exitDusk s = .next t ∧ ended t) ∧
    (∃ t, exec .frefLoss s = .next t ∧ t.pwr.phase = .held ∧ t.pwr.frefAbsent = true ∧ t.pwr.event = some 6 ∧ t.pln.active = none) ∧
    (planRuns s = true → exec .enterDusk s = .next { s with cmdStatus := 8 }) ∧
    (planRuns s = false → ∃ t, exec .enterDusk s = .next t ∧ t.cmdStatus = 0 ∧ getF t 0 Reg.rstStatus_failed = 3 ∧
      getF t 0 Reg.rstStatus_reason = 9 ∧ SameBytes s t ∧ PagesBut [0x14] s t ∧ Frame [.status, .regs, .pwr] s t)) ∧
  (∀ s : State,
    (s.pwr.pin = false → exec .modResetNRelease s = .next s) ∧ (s.pwr.pulse = false → exec .flashInterlockEnd s = .next s) ∧
    (s.pwr.phase = .held →
      (s.pwr.pin = true → (s.pwr.frefAbsent = true ∨ s.pwr.pulse = true) →
        exec .modResetNRelease s = .next { s with pwr := { s.pwr with pin := false, freed := some s.pwr.ref } }) ∧
      (s.pwr.pin = true ∨ s.pwr.pulse = true →
        exec .frefReturn s = .next { s with pwr := { s.pwr with frefAbsent := false } }) ∧
      (failCount s ≠ 3 → (flashBad s 0 && flashBad s 1) = false →
        let starts := fun (t : State) => t.pwr.phase = .starting ∧ getF t 0 Reg.rstStatus_failed = failCount s + 1 ∧
          getF t 0 Reg.rstStatus_cause = s.pwr.cause % 4 ∧ SameBytes s t ∧ PagesBut [0x14] s t ∧ Frame [.regs, .pwr] s t
        (s.pwr.pin = true → s.pwr.frefAbsent = false → s.pwr.pulse = false → ∃ t, exec .modResetNRelease s = .next t ∧ starts t) ∧
        (s.pwr.pin = false → s.pwr.pulse = false → ∃ t, exec .frefReturn s = .next t ∧ starts t) ∧
        (s.pwr.pin = false → s.pwr.frefAbsent = false → s.pwr.pulse = true → ∃ t, exec .flashInterlockEnd s = .next t ∧ starts t)) ∧
      (failCount s = 3 → s.pwr.pin = true → s.pwr.frefAbsent = false → s.pwr.pulse = false →
        ∃ t, exec .modResetNRelease s = .next t ∧ t.pwr.phase = .dusk ∧ getF t 0 Reg.rstStatus_dusk = 1 ∧
          getF t 0 Reg.rstCntDusk = (getF s 0 Reg.rstCntDusk + 1) % 2 ^ 64)))

/-- R569, R575 to R577: a power-on scrubs HBM to zero and starts the device. The start of a device whose seed gives IK_PUB (R522) succeeds
from the ACTIVE slot, else from the other with FALLBACK, and clears the failed-start count; a failure is recorded with its reason and waits;
it is not finished before the scrub. -/
def Obligations.StartsSucceedOrFailByReason : Prop :=
  (∀ s : State,
    (¬ (s.pwr.phase = .rails ∧ (s.pwr.rails.drop 1).all (· == 1) = true) → exec .powerOn s = .next s) ∧
    (s.pwr.phase = .rails → (s.pwr.rails.drop 1).all (· == 1) = true → s.pwr.pin = false → s.pwr.frefAbsent = false → failCount s ≠ 3 →
      (flashBad s 0 && flashBad s 1) = false →
      ∃ t, exec .powerOn s = .next t ∧ t.pwr.phase = .starting ∧ t.pwr.scrub = true ∧ (∀ a, readByte t a = 0) ∧ t.pln.active = none ∧
        getF t 0 Reg.rstStatus_failed = failCount s + 1)) ∧
  (∀ (s : State) (result detail : Nat),
    (s.pwr.phase ≠ .starting → exec (.startSequence result detail) s = .next s ∧ exec .startTimeout s = .next s ∧
      exec .scrubDone s = .next s) ∧
    (s.pwr.phase = .starting →
      (∃ t, exec .scrubDone s = .next t ∧ t = { s with pwr := { s.pwr with scrub := false } }) ∧
      (s.pwr.ref < s.pwr.began + 2 ^ 32 → exec .startTimeout s = .next s) ∧
      (s.pwr.began + 2 ^ 32 ≤ s.pwr.ref → ∃ t, exec .startTimeout s = .next t ∧ t.pwr.phase = .failed ∧
        getF t 0 Reg.rstStatus_reason = 4 ∧ getF t 0 Reg.rstCntFailstart = (getF s 0 Reg.rstCntFailstart + 1) % 2 ^ 64 ∧
        PagesBut [0x14] s t ∧ Frame [.regs, .pwr] s t) ∧
      (s.pwr.scrub = true → exec (.startSequence 0 detail) s = .next s) ∧
      (s.pwr.scrub = false → s.pwr.ref ≤ s.pwr.began + 2 ^ 32 → seedMatches s.mfg = false →
        ∃ t, exec (.startSequence 0 detail) s = .next t ∧ t.pwr.phase = .failed ∧ getF t 0 Reg.rstStatus_reason = 1 ∧
          PagesBut [0x14] s t ∧ Frame [.regs, .pwr] s t) ∧
      (s.pwr.scrub = false → s.pwr.ref ≤ s.pwr.began + 2 ^ 32 → seedMatches s.mfg = true →
        let a := getF s 0 Reg.secFwState_active
        (slotBoots s a = true ∨ slotBoots s (1 - a) = true → ∃ t, exec (.startSequence 0 detail) s = .next t ∧ t.pwr.phase = .service ∧
          (s.ct.run = none → getF t 0 Reg.rstStatus_failed = 0 ∧ getF t 0 Reg.secState_bootSlot = (if slotBoots s a then a else 1 - a) ∧
            getF t 0 Reg.secState_fallback = (if slotBoots s a then 0 else 1) ∧ SameBytes s t)) ∧
        (slotBoots s a = false → slotBoots s (1 - a) = false → ∃ t, exec (.startSequence 0 detail) s = .next t ∧ t.pwr.phase = .failed ∧
          getF t 0 Reg.rstStatus_reason = 3 ∧ PagesBut [0x14] s t ∧ Frame [.regs, .pwr] s t)) ∧
      (∀ r ∈ [1, 2, 3, 5, 6], ∃ t, exec (.startSequence r detail) s = .next t ∧ t.pwr.phase = .failed ∧
        getF t 0 Reg.rstStatus_reason = r ∧ PagesBut [0x14] s t ∧ Frame [.regs, .pwr] s t) ∧
      (∃ t, exec (.startSequence 7 detail) s = .next t ∧ t.pwr.phase = .dusk ∧ getF t 0 Reg.rstStatus_reason = 7) ∧
      (∀ page, pagePresent s page = true →
        ([3, 6, 0xA].contains (pageKind page) = true → ∃ t, exec (.selfTimedAckTimeout page) s = .next t ∧ t.pwr.phase = .failed ∧
          getF t 0 Reg.rstStatus_reason = 5) ∧
        (pageKind page = 7 → ∃ t, exec (.selfTimedAckTimeout page) s = .next t ∧ t.pwr.phase = .starting ∧
          getF t (page % 256) Reg.movStatus_failed = 1 ∧ getH t page Reg.status_state = 3) ∧
        ((pageKind page = 2 ∨ pageKind page = 5) → stepsRun s = false → ∃ t, exec (.selfTimedAckTimeout page) s = .next t ∧
          t.pwr.phase = .starting ∧ unitRole t page = 3))))

/-! ## Power states (18) -/

/-- R584, R585, 06 R227: each of the five values of PWR_CMD begins a change, which waits for a commit stage that is not empty; a command
that does not fit draws STATE. The stage is empty once its words stand in HBM, and then the waiting command takes effect. -/
def Obligations.PowerCommandsBeginAChange : Prop :=
  (∀ s : State, runs s .service = true →
    let unfit := planRuns s || getF s 0 Reg.plnState_staged == 1 || getF s 0 Reg.pwrState_changing == 1
    (unfit = true → ∀ c ∈ [Instr.pwrCmdRun, .pwrCmdQuiet, .pwrCmdStandby, .pwrCmdSleep, .pwrCmdOff],
      exec c s = .next { s with cmdStatus := 8 }) ∧
    (unfit = false →
      let begins := fun (t : State) (n : Nat) =>
        t.cmdStatus = 0 ∧ (s.eng.stage ≠ [] → t = { s with cmdStatus := 0, pwr := { s.pwr with waitCmd := some n } }) ∧
          (s.eng.stage = [] → getF t 0 Reg.pwrState_changing = 1 ∧ getF t 0 Reg.pwrState_target = n ∧ powerState t = powerState s ∧
            SameBytes s t ∧ RegsBut [place 0 Reg.pwrState_changing, place 0 Reg.pwrState_target] s t ∧ Frame [.status, .regs, .pwr] s t)
      (∃ t, exec .pwrCmdRun s = .next t ∧ begins t 0) ∧ (∃ t, exec .pwrCmdQuiet s = .next t ∧ begins t 1) ∧
        (∃ t, exec .pwrCmdStandby s = .next t ∧ begins t 2) ∧ (∃ t, exec .pwrCmdSleep s = .next t ∧ begins t 3) ∧
        ∃ t, exec .pwrCmdOff s = .next t ∧ begins t 4)) ∧
  (∀ s : State, runs s .service = true →
    (stepsRun s = true → exec .commitStageEmpty s = .next s) ∧
    (stepsRun s = false → SoundHbm s →
      ∃ t, exec .commitStageEmpty s = .next t ∧ t.eng.stage = [] ∧ SameBytes s t ∧
        (planRuns s = false → ∀ c, s.pwr.waitCmd = some c →
          getF t 0 Reg.pwrState_changing = 1 ∧ getF t 0 Reg.pwrState_target = c % 8) ∧
        (planRuns s = true ∨ s.pwr.waitCmd = none → Frame [.eng, .mem] s t)))

/-- R584, R586, R588, R591: a change that completes shows its state and is counted. Below Quiet every stack is in self-refresh; above
Standby those below Critical leave it; Sleep empties the staged bank and the host dies; Off removes power. -/
def Obligations.PowerStateIsEntered : Prop :=
  ∀ s : State, runs s .service = true →
    (getF s 0 Reg.pwrState_changing ≠ 1 → exec .powerStateEntered s = .next s) ∧
    (getF s 0 Reg.pwrState_changing = 1 → getF s 0 Reg.pwrState_target = 4 →
      ∃ t, exec .powerStateEntered s = .next t ∧ t.pwr.phase = .off ∧ t.pwr.event = some 5 ∧ t.pwr.cause = 2) ∧
    (getF s 0 Reg.pwrState_changing = 1 → getF s 0 Reg.pwrState_target < 4 →
      ∃ t, exec .powerStateEntered s = .next t ∧ powerState t = getF s 0 Reg.pwrState_target ∧ getF t 0 Reg.pwrState_changing = 0 ∧
        getF t 0 Reg.pwrCntTrans = (getF s 0 Reg.pwrCntTrans + 1) % 2 ^ 64 ∧ t.pwr.phase = s.pwr.phase ∧
        (powerState s ≤ 1 → 2 ≤ powerState t → ∀ k, fitsStack s k = true → getF t k Reg.memStkStatus_selfref = 1) ∧
        (2 ≤ powerState s → powerState t ≤ 1 → ∀ k, fitsStack s k = true → getF t k Reg.memStkStatus_band ≠ 3 →
          getF t k Reg.memStkStatus_selfref = 0) ∧
        (powerState s ≠ 3 → powerState t = 3 → t.pln.staged = none ∧ t.host = .reset))

/-! ## The module power controller (19, 20) -/

/-- R600: a reading of 115 °C or more on any logic die takes a powered module to Off with the cause OVERTEMP, and sends no fault message. -/
def Obligations.OvertempTurnsTheModuleOff : Prop :=
  ∀ (s : State) (die temp : Nat), powered s = true → 115 ≤ temp →
    ∃ t, exec (.overtemp die temp) s = .next t ∧ t.pwr.phase = .off ∧ t.pwr.event = some 3 ∧ t.flt = s.flt

/-- R593, R596, R597, R600: the input sets MFR_STATUS below 40 V, and below 38 V or above 62 V it takes the module to Off; back in its range
for 10 ms it starts the rails of a module in Off whose input had been removed, each after the one before, with one second attempt. A phase
fault is reported, an over-current sheds the phase, and a rail outside 5 % of nominal is reported in service and fails a start. -/
def Obligations.InputAndRails : Prop :=
  (∀ (s : State) (mv : Nat),
    (40000 ≤ mv → ∀ l, exec (.vinUndervoltage mv l) s = .next s) ∧
    (mv < 40000 → ∃ t, exec (.vinUndervoltage mv false) s = .next t ∧ t.pwr.phase = s.pwr.phase ∧
      t.pwr.mfr = s.pwr.mfr ||| 1 ∧ t.pwr.vinGood = false ∧ SameBytes s t ∧ RegsBut [place 0 Reg.pwrCntVinlow] s t ∧ Frame [.regs, .pwr] s t) ∧
    (mv < 38000 → ∃ t, exec (.vinUndervoltage mv true) s = .next t ∧ t.pwr.phase = .off ∧ t.pwr.vin = false ∧
      (s.pwr.phase ≠ .off → 0 < mv → t.pwr.event = some 1)) ∧
    (mv ≤ 62000 → exec (.vinOvervoltage mv) s = .next s) ∧
    (62000 < mv → ∃ t, exec (.vinOvervoltage mv) s = .next t ∧ t.pwr.phase = .off ∧ t.pwr.vin = false ∧
      (s.pwr.phase ≠ .off → t.pwr.event = some 2)) ∧
    ((mv < 41000 ∨ 60000 < mv ∨ (s.pwr.vin = true ∧ s.pwr.vinGood = true)) → exec (.vinStable mv) s = .next s) ∧
    (41000 ≤ mv → mv ≤ 60000 → (s.pwr.vin && s.pwr.vinGood) = false → ∃ t, exec (.vinStable mv) s = .next t ∧ t.pwr.vin = true ∧
      t.pwr.vinGood = true ∧ (s.pwr.phase = .off → s.pwr.vin = false → t.pwr.phase = .rails ∧ t.pwr.rail = 1) ∧
      ((s.pwr.phase ≠ .off ∨ s.pwr.vin = true) → t.pwr.phase = s.pwr.phase) ∧ Frame [.pwr] s t)) ∧
  (∀ (s : State) (rail : Nat), s.pwr.phase = .rails → rail = s.pwr.rail → rail < 9 →
    (s.pwr.railAt + 640000 ≤ s.pwr.ref → ∃ t, exec (.railInRegulation rail) s = .next t ∧ t = { s with pwr := { s.pwr with
      rails := s.pwr.rails.set rail 1, rail := rail + 1, railAt := s.pwr.ref } }) ∧
    (s.pwr.ref < s.pwr.railAt + 640000 → exec (.railInRegulation rail) s = .next s) ∧
    (s.pwr.railAt + 1280000 ≤ s.pwr.ref → s.pwr.railTry = 0 → ∃ t, exec (.railSequenceTimeout rail) s = .next t ∧
      t.pwr.phase = .rails ∧ t.pwr.rails = railsOff ∧ t.pwr.railTry = 1 ∧ t.pwr.retryAt = some (s.pwr.ref + 640000000) ∧ Frame [.pwr] s t) ∧
    (s.pwr.railAt + 1280000 ≤ s.pwr.ref → s.pwr.railTry ≠ 0 → ∃ t, exec (.railSequenceTimeout rail) s = .next t ∧
      t.pwr.phase = .off ∧ t.pwr.event = some 4)) ∧
  (∀ (s : State) (at' : Nat), s.pwr.phase = .rails → s.pwr.retryAt = some at' → at' ≤ s.pwr.ref →
    ∃ t, exec .railSequenceRetry s = .next t ∧ t = { s with pwr := { s.pwr with rail := 1, railAt := s.pwr.ref, retryAt := none } }) ∧
  (∀ (s : State) (rail phase mA : Nat), phase < railFitted rail → powered s = true →
    (s.flt.queue.filter (·.page == 0x1500)).length < 16 → ∀ excess,
    ∃ t, exec (.pwrPhase rail phase mA excess) s = .next t ∧
      t.flt.queue = s.flt.queue ++ [⟨s.mer, 0x1500, 0x48, 0, 0xFFFF, rail + 16 * phase, execTag s, 0, mA, excess⟩] ∧
      (excess = true → (rail, phase) ∈ t.pwr.shed) ∧ (excess = false → t.pwr = s.pwr) ∧ SameBytes s t ∧ Frame [.regs, .flt, .pwr] s t) ∧
  (∀ (s : State) (rail mv : Nat), rail < 9 →
    let n := railNominal rail
    ((95 * n ≤ 100 * mv ∧ 100 * mv ≤ 105 * n) ∨ powered s = false → exec (.pwrRail rail mv) s = .next s) ∧
    (powered s = true → (100 * mv < 95 * n ∨ 105 * n < 100 * mv) → ∃ t, exec (.pwrRail rail mv) s = .next t ∧
      t.pwr.rails = s.pwr.rails.set rail 2 ∧ (s.pwr.phase = .starting → t.pwr.phase = .failed) ∧
      (s.pwr.phase = .service → (s.flt.queue.filter (·.page == 0x1500)).length < 16 →
        t.flt.queue = s.flt.queue ++ [⟨s.mer, 0x1500, 0x49, 0, 0xFFFF, rail, execTag s, 0, mv, false⟩])))

/-- R574, R608, R610, R616: while the controller has power a Read Word of MFR_STATUS, of a measured value or of an unknown code is answered,
and no write changes anything; without power nothing answers. The lifetime counters are written to NV every 2^36 ticks. A measured value is
a free value (logs 4, 21). -/
def Obligations.SmbusAnswersAndLifetimesAreSaved : Prop :=
  (∀ (s : State) (code : Nat) (data : List Byte),
    (smbusServes s = false → exec (.smbusReadWord code) s = .next s ∧ exec (.smbusWrite code data) s = .next s) ∧
    (smbusServes s = true →
      exec (.smbusReadWord 0xD0) s = .next { s with out := .smbus (some (mfrStatus s)) :: s.out } ∧
      (code ∈ [0x88, 0x89, 0x97, 0x8D, 0x8E, 0x8F] → ∃ t v, exec (.smbusReadWord code) s = .next t ∧ t.out = .smbus (some v) :: s.out ∧
        v < 65536 ∧ Frame [.out, .free] s t) ∧
      (code ∉ [0x88, 0x89, 0x97, 0x8D, 0x8E, 0x8F, 0xD0] →
        exec (.smbusReadWord code) s = .next { s with out := .smbus none :: s.out }) ∧
      (data ≠ [] → ∃ t, exec (.smbusWrite code data) s = .next t ∧ t = { s with out := .smbus none :: s.out }))) ∧
  (∀ s : State, s.pwr.phase = .service →
    (s.pwr.savedAt + 2 ^ 36 ≤ s.pwr.ref → ∃ t, exec .lifetimeSave s = .next t ∧
      (∀ i < 12, kvGet t.pwr.saved i = some (lifeOf s i)) ∧ t.pwr.savedAt = s.pwr.ref ∧ Frame [.pwr] s t) ∧
    (s.pwr.ref < s.pwr.savedAt + 2 ^ 36 → exec .lifetimeSave s = .next s))

/-! ## The whole block -/

/-- Every command completes whose units stand in the device, and any other completes or names a unit that the model's device cannot have;
none is refused. A command that completes leaves the manufacturing record and the commands that wait as they were. -/
def Obligations.EveryCommandCompletes : Prop :=
  ∀ (c : Instr) (s : State),
    (unitsStand s c = true → ∃ t, exec c s = .next t ∧ t.mfg = s.mfg ∧ t.pending = s.pending) ∧
    ((∃ t, exec c s = .next t ∧ t.mfg = s.mfg ∧ t.pending = s.pending) ∨ exec c s = .fault .absentUnit)

/-- An invariant of every step (R527, log 9): whatever the device's manufacturing record is, every step leaves it so, and a step takes
exactly the front command off the queue. -/
def Obligations.TheDeviceStaysTheDevice : Prop :=
  ∀ (m : Mfg) (s t : State), s.mfg = m → step s = .next t → t.mfg = m ∧ t.pending = s.pending.tail

/-- An invariant of every step (the form of the stores is the model's, log 3): every byte of HBM and every register keeps one home, and no
undefined range carries the number of an event that is still to come. -/
def Obligations.EveryByteKeepsOneHome : Prop :=
  ∀ s t : State, OneHome s → step s = .next t → OneHome t

/-- The state after reset (R15, R99, R591; the values that the model names are those of log 2): no command waits, no plan is loaded or runs,
the device is in service in Run, HBM reads zero and its store is in its canonical form, and the invariant of the stores holds. -/
def Obligations.ResetState : Prop :=
  State.reset.pending = [] ∧ planRuns State.reset = false ∧ State.reset.pln.active = none ∧ State.reset.pln.staged = none ∧
    State.reset.pwr.phase = .service ∧ powerState State.reset = 0 ∧ Memory.wf State.reset = true ∧ OneHome State.reset ∧
    (∀ a, readByte State.reset a = 0) ∧ (∀ off < 4096, getReg State.reset 0 0x0100 off = regReset 1 off)

/-- R558, R579: in Dusk, and after a stop, only SD0 serves: an event of the core, the lanes, the memory dies or the engines changes nothing,
and a register command of theirs only draws NOPAGE or TIMEOUT. -/
def Obligations.OnlyServiceServesInDuskAndAfterAStop : Prop :=
  ∀ s : State, s.pwr.phase = .dusk ∨ (s.pwr.phase = .service ∧ s.flt.stopped = true) →
    (∀ c ∈ [Instr.loadComplete, .startBarrierLateArm, .startBarrierUp, .startBarrierZenith, .startOutcomeCell, .stepInfoSend,
        .deadlineJudgement, .outcomeCut, .obarUpSend, .obarDownSend, .outcomeHeld, .outcomeCellSend, .outcomeLost, .outcomeWindowOpen,
        .stepBoundary, .holdIntervalEnd, .rejoinAdmit, .refreshPeriod, .timeParentTimeout], exec c s = .next s) ∧
    (∀ (c : FabCell) (port : Nat), fitsPort s (portNo port) = true → exec (.cellReceive port c .noK277) s = .next s) ∧
    (∀ stack pc, fitsStack s stack = true → pc < 32 → exec (.memPcLost stack pc) s = .next s ∧ exec (.vacateStart stack pc) s = .next s) ∧
    (∀ c ∈ [Instr.load, .arm, .abort, .discard, .vacate 0 0, .restore 0 0, .start 0 0, .cancel 0 0, .recover 0, .memSplitWrite 0],
      ∃ n, exec c s = .next { s with cmdStatus := n } ∧ (n = 2 ∨ n = 9))

/-- R13 (the tick itself is the model's choice, log 1): on an empty queue one tick passes: the Meridian count modulo 2^64 (R410) and the
reference count move on by one while they run, and with nothing on its way no byte and no register but the lifetime counters changes. 09 R326:
the bytes that a sink writes are in HBM after the tick in which a position serves them; without one they wait. -/
def Obligations.AnEmptyQueueLetsATickPass : Prop :=
  ∀ s : State, s.pending = [] → ∃ t, step s = .next t ∧ t.mer = (if merRuns s then (s.mer + 1) % 2 ^ 64 else s.mer) ∧
    t.pwr.ref = s.pwr.ref + 1 ∧ t.pending = [] ∧
    (Quiet s → s.eng.todo = [] → PagesBut [0x15] s t ∧ SameBytes s t ∧ Frame [.mer, .regs, .pwr] s t) ∧
    (∀ x, Quiet s → s.eng.todo = [x] → x.user = .sink → x.len = x.bytes.length → runs s .memory = true → SoundHbm s →
      (accServed s [] x = false → t.eng.todo = [x] ∧ SameBytes s t) ∧
      (accServed s [] x = true → x.left ≤ 1 →
        t.eng.todo = [] ∧ readBytes t x.base x.bytes.length = x.bytes ∧ SameBytesBut x.base x.bytes.length s t))
end

