-- ==== Sys2Proof/Laws/Regs.lean ====
section
/-! SUPPORT. What the sorted stores, the registers and their fields do: a value read after it was set, and everything else as it was. -/

namespace Sys2Proof.Machine

/-! ## Sorted stores -/

section Stores
variable {α : Type}

@[simp] theorem kvGet_kvPut_self (l : List (Nat × α)) (q : Nat) (w : α) : kvGet (kvPut l q w) q = some w := by
  induction l with
  | nil => simp [kvPut, kvGet]
  | cons c l ih =>
    obtain ⟨k, v⟩ := c
    simp only [kvPut]
    split
    · simp [kvGet]
    · split
      · simp [kvGet]
      · rename_i h1 h2
        simp [kvGet, Ne.symm h2, ih]

theorem kvGet_kvPut_ne {l : List (Nat × α)} {p q : Nat} (w : α) (h : p ≠ q) : kvGet (kvPut l q w) p = kvGet l p := by
  induction l with
  | nil => simp [kvPut, kvGet, Ne.symm h]
  | cons c l ih =>
    obtain ⟨k, v⟩ := c
    simp only [kvPut]
    split
    · simp [kvGet, Ne.symm h]
    · split
      · rename_i h2; subst h2; simp [kvGet, Ne.symm h]
      · simp [kvGet, ih]

@[simp] theorem kvGet_kvDel_self (l : List (Nat × α)) (q : Nat) : kvGet (kvDel l q) q = none := by
  induction l with
  | nil => rfl
  | cons c l ih =>
    obtain ⟨k, v⟩ := c
    by_cases h : k = q <;> simp [kvDel, kvGet, h, ih]

theorem kvGet_kvDel_ne {l : List (Nat × α)} {p q : Nat} (h : p ≠ q) : kvGet (kvDel l q) p = kvGet l p := by
  induction l with
  | nil => rfl
  | cons c l ih =>
    obtain ⟨k, v⟩ := c
    by_cases h2 : k = q
    · subst h2; simp [kvDel, kvGet, Ne.symm h, ih]
    · simp [kvDel, kvGet, h2, ih]

variable [DecidableEq α]

theorem kvGet_kvSet_self (d : α) (l : List (Nat × α)) (q : Nat) (w : α) : (kvGet (kvSet d l q w) q).getD d = w := by
  unfold kvSet; split <;> simp_all

theorem kvGet_kvSet_ne {d : α} {l : List (Nat × α)} {p q : Nat} (w : α) (h : p ≠ q) :
    kvGet (kvSet d l q w) p = kvGet l p := by
  unfold kvSet; split
  · exact kvGet_kvDel_ne h
  · exact kvGet_kvPut_ne w h

end Stores

/-! ## Order of keys -/

theorem keysRise_weaken {α : Type} {b c : Nat} {l : List (Nat × α)} (h : b ≤ c) (hl : keysRise (some c) l = true) :
    keysRise (some b) l = true := by
  cases l with
  | nil => rfl
  | cons x l =>
    simp only [keysRise, Bool.and_eq_true, decide_eq_true_eq] at *
    exact ⟨by omega, hl.2⟩

/-- What keysRise says of a bound and of the entries. -/
theorem keysRise_some {α : Type} {b : Nat} {l : List (Nat × α)} :
    keysRise (some b) l = true ↔ keysRise none l = true ∧ ∀ c ∈ l, b < c.1 := by
  induction l generalizing b with
  | nil => simp [keysRise]
  | cons x l ih =>
    obtain ⟨k, v⟩ := x
    simp only [keysRise, Bool.and_eq_true, decide_eq_true_eq, List.mem_cons, forall_eq_or_imp]
    constructor
    · rintro ⟨h1, h2⟩
      exact ⟨h2, h1, fun c hc => by have := (ih.1 h2).2 c hc; omega⟩
    · rintro ⟨h1, h2, -⟩
      exact ⟨h2, h1⟩

theorem keysRise_cons {α : Type} {k : Nat} {v : α} {l : List (Nat × α)} :
    keysRise none ((k, v) :: l) = true ↔ keysRise none l = true ∧ ∀ c ∈ l, k < c.1 := by
  rw [keysRise, keysRise_some]

theorem mem_kvDel {α : Type} {l : List (Nat × α)} {q : Nat} {c : Nat × α} : c ∈ kvDel l q ↔ c ∈ l ∧ c.1 ≠ q := by
  induction l with
  | nil => simp [kvDel]
  | cons x l ih =>
    obtain ⟨k, v⟩ := x
    by_cases h : k = q
    · subst h
      simp only [kvDel, if_pos, ih, List.mem_cons]
      constructor
      · rintro ⟨h1, h2⟩; exact ⟨.inr h1, h2⟩
      · rintro ⟨rfl | h1, h2⟩
        · exact absurd rfl h2
        · exact ⟨h1, h2⟩
    · simp only [kvDel, if_neg h, List.mem_cons, ih]
      constructor
      · rintro (rfl | ⟨h1, h2⟩)
        · exact ⟨.inl rfl, h⟩
        · exact ⟨.inr h1, h2⟩
      · rintro ⟨rfl | h1, h2⟩
        · exact .inl rfl
        · exact .inr ⟨h1, h2⟩

theorem keysRise_kvDel {α : Type} {l : List (Nat × α)} (q : Nat) (h : keysRise none l = true) : keysRise none (kvDel l q) = true := by
  induction l with
  | nil => rfl
  | cons x l ih =>
    obtain ⟨k, v⟩ := x
    obtain ⟨h1, h2⟩ := keysRise_cons.1 h
    by_cases hk : k = q
    · simpa [kvDel, hk] using ih h1
    · simp only [kvDel, if_neg hk]
      exact keysRise_cons.2 ⟨ih h1, fun c hc => h2 c (mem_kvDel.1 hc).1⟩

theorem mem_kvPut {α : Type} {l : List (Nat × α)} {q : Nat} {w : α} {c : Nat × α} (h : c ∈ kvPut l q w) : c = (q, w) ∨ c ∈ l := by
  induction l with
  | nil => simpa [kvPut] using h
  | cons x l ih =>
    obtain ⟨k, v⟩ := x
    simp only [kvPut] at h
    split at h
    · simpa using h
    · split at h
      · rcases List.mem_cons.1 h with h | h
        · exact .inl h
        · exact .inr (List.mem_cons_of_mem _ h)
      · rcases List.mem_cons.1 h with h | h
        · exact .inr (h ▸ List.mem_cons_self ..)
        · exact (ih h).imp_right (List.mem_cons_of_mem _)

theorem keysRise_kvPut {α : Type} {l : List (Nat × α)} (q : Nat) (w : α) (h : keysRise none l = true) :
    keysRise none (kvPut l q w) = true := by
  induction l with
  | nil => rfl
  | cons x l ih =>
    obtain ⟨k, v⟩ := x
    obtain ⟨h1, h2⟩ := keysRise_cons.1 h
    simp only [kvPut]
    split
    · rename_i hq
      refine keysRise_cons.2 ⟨h, fun c hc => ?_⟩
      rcases List.mem_cons.1 hc with rfl | hc
      · exact hq
      · have := h2 c hc; omega
    · split
      · rename_i _ hq; subst hq; exact keysRise_cons.2 ⟨h1, h2⟩
      · refine keysRise_cons.2 ⟨ih h1, fun c hc => ?_⟩
        rcases mem_kvPut hc with rfl | hc
        · simp only; omega
        · exact h2 c hc

theorem keysRise_filter {α : Type} {l : List (Nat × α)} (p : Nat × α → Bool) (h : keysRise none l = true) :
    keysRise none (l.filter p) = true := by
  induction l with
  | nil => rfl
  | cons x l ih =>
    obtain ⟨h1, h2⟩ := keysRise_cons.1 h
    rw [List.filter_cons]
    split
    · exact keysRise_cons.2 ⟨ih h1, fun c hc => h2 c (List.mem_of_mem_filter hc)⟩
    · exact ih h1

/-! ## Bits of a word -/

theorem testBit_bits (w : Word) (lo n i : Nat) : (bits w lo n).testBit i = (decide (i < n) && w.getLsbD (lo + i)) := by
  simp [bits, Nat.testBit_mod_two_pow, Nat.testBit_shiftRight, BitVec.getLsbD]

theorem getLsbD_mask (lo n j : Nat) :
    (BitVec.ofNat 64 ((2 ^ n - 1) <<< lo)).getLsbD j = (decide (j < 64) && (decide (lo ≤ j) && decide (j - lo < n))) := by
  simp [BitVec.getLsbD_ofNat, Nat.testBit_shiftLeft, Nat.testBit_two_pow_sub_one]

theorem getLsbD_putBits (w : Word) (lo n v j : Nat) :
    (putBits w lo n v).getLsbD j =
      (decide (j < 64) && (if lo ≤ j ∧ j - lo < n then v.testBit (j - lo) else w.getLsbD j)) := by
  unfold putBits
  rw [BitVec.getLsbD_or, BitVec.getLsbD_and, BitVec.getLsbD_not, getLsbD_mask, BitVec.getLsbD_ofNat, Nat.testBit_shiftLeft,
    Nat.testBit_mod_two_pow]
  by_cases hj : j < 64
  · by_cases h1 : lo ≤ j <;> by_cases h2 : j - lo < n <;> simp [hj, h1, h2]
  · have : w.getLsbD j = false := BitVec.getLsbD_of_ge w j (by omega)
    simp [hj, this]

/-- The bits that were put read back. -/
theorem bits_putBits_self (w : Word) (lo n v : Nat) (h : lo + n ≤ 64) : bits (putBits w lo n v) lo n = v % 2 ^ n := by
  apply Nat.eq_of_testBit_eq
  intro i
  rw [testBit_bits, getLsbD_putBits, Nat.testBit_mod_two_pow]
  by_cases hi : i < n
  · have h1 : lo + i < 64 := by omega
    simp [hi, h1]
  · simp [hi]

/-- Bits beside those that were put are as they were. -/
theorem bits_putBits_ne (w : Word) (lo n v lo' n' : Nat) (h : lo' + n' ≤ lo ∨ lo + n ≤ lo') :
    bits (putBits w lo n v) lo' n' = bits w lo' n' := by
  apply Nat.eq_of_testBit_eq
  intro i
  rw [testBit_bits, testBit_bits, getLsbD_putBits]
  by_cases hi : i < n'
  · have h1 : ¬ (lo ≤ lo' + i ∧ lo' + i - lo < n) := by omega
    by_cases h2 : lo' + i < 64
    · simp [hi, h1, h2]
    · have : w.getLsbD (lo' + i) = false := BitVec.getLsbD_of_ge w _ (by omega)
      simp [h2, this]
  · simp [hi]

theorem bits_lt (w : Word) (lo n : Nat) : bits w lo n < 2 ^ n := Nat.mod_lt _ (Nat.two_pow_pos n)

/-! ## Registers -/

theorem getReg_eq (s : State) (idx page off : Nat) :
    getReg s idx page off = (kvGet s.regs (regKey idx page off)).getD (regReset (pageKind page) off) := by
  unfold getReg; cases kvGet s.regs (regKey idx page off) <;> rfl

/-- A register reads as it was set. -/
@[simp] theorem getReg_setReg_self (s : State) (idx page off : Nat) (v : Word) : getReg (setReg s idx page off v) idx page off = v := by
  rw [getReg_eq]; exact kvGet_kvSet_self ..

/-- Every other register is as it was. -/
theorem getReg_setReg_ne (s : State) {idx page off idx' page' off' : Nat} (v : Word)
    (h : regKey idx' page' off' ≠ regKey idx page off) :
    getReg (setReg s idx page off v) idx' page' off' = getReg s idx' page' off' := by
  rw [getReg_eq, getReg_eq]; congr 1; exact kvGet_kvSet_ne v h

theorem getReg_congr {s t : State} (h : t.regs = s.regs) (idx page off : Nat) : getReg t idx page off = getReg s idx page off := by
  unfold getReg; rw [h]

theorem getFI_congr {s t : State} (h : t.regs = s.regs) (idx inst n : Nat) (f : Fld) : getFI t idx inst n f = getFI s idx inst n f := by
  unfold getFI; rw [getReg_congr h]

theorem getF_congr {s t : State} (h : t.regs = s.regs) (inst : Nat) (f : Fld) : getF t inst f = getF s inst f := getFI_congr h ..

/-- Key of a field. -/
def fldKey (idx inst n : Nat) (f : Fld) : Nat := regKey idx (pageOf f.kind inst) (f.off + 8 * n)

/-- A field reads as it was set. -/
theorem getFI_setFI_self (s : State) (idx inst n : Nat) (f : Fld) (v : Nat) (h : f.lo + f.width ≤ 64) :
    getFI (setFI s idx inst n f v) idx inst n f = v % 2 ^ f.width := by
  simp only [getFI, setFI, getReg_setReg_self]; exact bits_putBits_self _ _ _ _ h

/-- A field of another register is as it was. -/
theorem getFI_setFI_ne (s : State) {idx inst n idx' inst' n' : Nat} {f g : Fld} (v : Nat)
    (h : fldKey idx' inst' n' g ≠ fldKey idx inst n f) :
    getFI (setFI s idx inst n f v) idx' inst' n' g = getFI s idx' inst' n' g := by
  simp only [getFI, setFI]; rw [getReg_setReg_ne _ _ h]

/-- A field beside it in the same register is as it was. -/
theorem getFI_setFI_beside (s : State) {idx inst n : Nat} {f g : Fld} (v : Nat) (hk : g.kind = f.kind) (ho : g.off = f.off)
    (h : g.lo + g.width ≤ f.lo ∨ f.lo + f.width ≤ g.lo) : getFI (setFI s idx inst n f v) idx inst n g = getFI s idx inst n g := by
  simp only [getFI, setFI, hk, ho, getReg_setReg_self]; exact bits_putBits_ne _ _ _ _ _ _ h

theorem getF_setF_self (s : State) (inst : Nat) (f : Fld) (v : Nat) (h : f.lo + f.width ≤ 64) :
    getF (setF s inst f v) inst f = v % 2 ^ f.width := getFI_setFI_self s 0 inst 0 f v h

theorem getF_setF_ne (s : State) {inst inst' : Nat} {f g : Fld} (v : Nat) (h : fldKey 0 inst' 0 g ≠ fldKey 0 inst 0 f) :
    getF (setF s inst f v) inst' g = getF s inst' g := getFI_setFI_ne s v h

theorem getF_setF_beside (s : State) {inst : Nat} {f g : Fld} (v : Nat) (hk : g.kind = f.kind) (ho : g.off = f.off)
    (h : g.lo + g.width ≤ f.lo ∨ f.lo + f.width ≤ g.lo) : getF (setF s inst f v) inst g = getF s inst g :=
  getFI_setFI_beside s v hk ho h

theorem getFI_lt (s : State) (idx inst n : Nat) (f : Fld) : getFI s idx inst n f < 2 ^ f.width := bits_lt ..

theorem getF_lt (s : State) (inst : Nat) (f : Fld) : getF s inst f < 2 ^ f.width := bits_lt ..

/-- A counter that goes up. -/
theorem getF_bump_self (s : State) (inst : Nat) (c : Fld) (n : Nat) (h : c.lo + c.width ≤ 64) :
    getF (bump s inst c n) inst c = (getF s inst c + n) % 2 ^ c.width := by
  unfold bump; split
  · subst n; rw [Nat.add_zero, Nat.mod_eq_of_lt (getF_lt s inst c)]
  · exact getF_setF_self s inst c _ h

theorem getF_bump_ne (s : State) {inst inst' : Nat} {c g : Fld} (n : Nat) (h : fldKey 0 inst' 0 g ≠ fldKey 0 inst 0 c) :
    getF (bump s inst c n) inst' g = getF s inst' g := by
  unfold bump; split
  · rfl
  · exact getF_setF_ne s _ h

end Sys2Proof.Machine
end

