-- ==== Sys2Proof/Laws/State.lean ====
section
/-! SUPPORT. What each shared update of the state leaves as it is: one lemma for each field of the state and each update. -/

namespace Sys2Proof.Machine

/-- What every step of a fold leaves as it is, the fold leaves as it is. -/
theorem foldl_keeps {σ α β : Type} (g : σ → β) {f : σ → α → σ} (h : ∀ s a, g (f s a) = g s) (s : σ) (l : List α) :
    g (l.foldl f s) = g s := by
  induction l generalizing s with
  | nil => rfl
  | cons a l ih => rw [List.foldl_cons, ih, h]

@[simp] theorem setReg_pending (s : State) (idx page off : Nat) (v : Word) : (setReg s idx page off v).pending = s.pending := rfl
@[simp] theorem setReg_out (s : State) (idx page off : Nat) (v : Word) : (setReg s idx page off v).out = s.out := rfl
@[simp] theorem setReg_freeCtr (s : State) (idx page off : Nat) (v : Word) : (setReg s idx page off v).freeCtr = s.freeCtr := rfl
@[simp] theorem setReg_cmdStatus (s : State) (idx page off : Nat) (v : Word) : (setReg s idx page off v).cmdStatus = s.cmdStatus := rfl
@[simp] theorem setReg_mer (s : State) (idx page off : Nat) (v : Word) : (setReg s idx page off v).mer = s.mer := rfl
@[simp] theorem setReg_pln (s : State) (idx page off : Nat) (v : Word) : (setReg s idx page off v).pln = s.pln := rfl
@[simp] theorem setReg_eng (s : State) (idx page off : Nat) (v : Word) : (setReg s idx page off v).eng = s.eng := rfl
@[simp] theorem setReg_mem (s : State) (idx page off : Nat) (v : Word) : (setReg s idx page off v).mem = s.mem := rfl
@[simp] theorem setReg_fab (s : State) (idx page off : Nat) (v : Word) : (setReg s idx page off v).fab = s.fab := rfl
@[simp] theorem setReg_lanes (s : State) (idx page off : Nat) (v : Word) : (setReg s idx page off v).lanes = s.lanes := rfl
@[simp] theorem setReg_sync (s : State) (idx page off : Nat) (v : Word) : (setReg s idx page off v).sync = s.sync := rfl
@[simp] theorem setReg_ct (s : State) (idx page off : Nat) (v : Word) : (setReg s idx page off v).ct = s.ct := rfl
@[simp] theorem setReg_flt (s : State) (idx page off : Nat) (v : Word) : (setReg s idx page off v).flt = s.flt := rfl
@[simp] theorem setReg_mfg (s : State) (idx page off : Nat) (v : Word) : (setReg s idx page off v).mfg = s.mfg := rfl
@[simp] theorem setReg_owner (s : State) (idx page off : Nat) (v : Word) : (setReg s idx page off v).owner = s.owner := rfl
@[simp] theorem setReg_fw (s : State) (idx page off : Nat) (v : Word) : (setReg s idx page off v).fw = s.fw := rfl
@[simp] theorem setReg_ctl (s : State) (idx page off : Nat) (v : Word) : (setReg s idx page off v).ctl = s.ctl := rfl
@[simp] theorem setReg_host (s : State) (idx page off : Nat) (v : Word) : (setReg s idx page off v).host = s.host := rfl
@[simp] theorem setReg_pwr (s : State) (idx page off : Nat) (v : Word) : (setReg s idx page off v).pwr = s.pwr := rfl
@[simp] theorem setReg_tie (s : State) (idx page off : Nat) (v : Word) : (setReg s idx page off v).tie = s.tie := rfl

@[simp] theorem setFI_pending (s : State) (idx inst n : Nat) (f : Fld) (v : Nat) : (setFI s idx inst n f v).pending = s.pending := rfl
@[simp] theorem setFI_out (s : State) (idx inst n : Nat) (f : Fld) (v : Nat) : (setFI s idx inst n f v).out = s.out := rfl
@[simp] theorem setFI_freeCtr (s : State) (idx inst n : Nat) (f : Fld) (v : Nat) : (setFI s idx inst n f v).freeCtr = s.freeCtr := rfl
@[simp] theorem setFI_cmdStatus (s : State) (idx inst n : Nat) (f : Fld) (v : Nat) : (setFI s idx inst n f v).cmdStatus = s.cmdStatus := rfl
@[simp] theorem setFI_mer (s : State) (idx inst n : Nat) (f : Fld) (v : Nat) : (setFI s idx inst n f v).mer = s.mer := rfl
@[simp] theorem setFI_pln (s : State) (idx inst n : Nat) (f : Fld) (v : Nat) : (setFI s idx inst n f v).pln = s.pln := rfl
@[simp] theorem setFI_eng (s : State) (idx inst n : Nat) (f : Fld) (v : Nat) : (setFI s idx inst n f v).eng = s.eng := rfl
@[simp] theorem setFI_mem (s : State) (idx inst n : Nat) (f : Fld) (v : Nat) : (setFI s idx inst n f v).mem = s.mem := rfl
@[simp] theorem setFI_fab (s : State) (idx inst n : Nat) (f : Fld) (v : Nat) : (setFI s idx inst n f v).fab = s.fab := rfl
@[simp] theorem setFI_lanes (s : State) (idx inst n : Nat) (f : Fld) (v : Nat) : (setFI s idx inst n f v).lanes = s.lanes := rfl
@[simp] theorem setFI_sync (s : State) (idx inst n : Nat) (f : Fld) (v : Nat) : (setFI s idx inst n f v).sync = s.sync := rfl
@[simp] theorem setFI_ct (s : State) (idx inst n : Nat) (f : Fld) (v : Nat) : (setFI s idx inst n f v).ct = s.ct := rfl
@[simp] theorem setFI_flt (s : State) (idx inst n : Nat) (f : Fld) (v : Nat) : (setFI s idx inst n f v).flt = s.flt := rfl
@[simp] theorem setFI_mfg (s : State) (idx inst n : Nat) (f : Fld) (v : Nat) : (setFI s idx inst n f v).mfg = s.mfg := rfl
@[simp] theorem setFI_owner (s : State) (idx inst n : Nat) (f : Fld) (v : Nat) : (setFI s idx inst n f v).owner = s.owner := rfl
@[simp] theorem setFI_fw (s : State) (idx inst n : Nat) (f : Fld) (v : Nat) : (setFI s idx inst n f v).fw = s.fw := rfl
@[simp] theorem setFI_ctl (s : State) (idx inst n : Nat) (f : Fld) (v : Nat) : (setFI s idx inst n f v).ctl = s.ctl := rfl
@[simp] theorem setFI_host (s : State) (idx inst n : Nat) (f : Fld) (v : Nat) : (setFI s idx inst n f v).host = s.host := rfl
@[simp] theorem setFI_pwr (s : State) (idx inst n : Nat) (f : Fld) (v : Nat) : (setFI s idx inst n f v).pwr = s.pwr := rfl
@[simp] theorem setFI_tie (s : State) (idx inst n : Nat) (f : Fld) (v : Nat) : (setFI s idx inst n f v).tie = s.tie := rfl

@[simp] theorem setF_pending (s : State) (inst : Nat) (f : Fld) (v : Nat) : (setF s inst f v).pending = s.pending := rfl
@[simp] theorem setF_out (s : State) (inst : Nat) (f : Fld) (v : Nat) : (setF s inst f v).out = s.out := rfl
@[simp] theorem setF_freeCtr (s : State) (inst : Nat) (f : Fld) (v : Nat) : (setF s inst f v).freeCtr = s.freeCtr := rfl
@[simp] theorem setF_cmdStatus (s : State) (inst : Nat) (f : Fld) (v : Nat) : (setF s inst f v).cmdStatus = s.cmdStatus := rfl
@[simp] theorem setF_mer (s : State) (inst : Nat) (f : Fld) (v : Nat) : (setF s inst f v).mer = s.mer := rfl
@[simp] theorem setF_pln (s : State) (inst : Nat) (f : Fld) (v : Nat) : (setF s inst f v).pln = s.pln := rfl
@[simp] theorem setF_eng (s : State) (inst : Nat) (f : Fld) (v : Nat) : (setF s inst f v).eng = s.eng := rfl
@[simp] theorem setF_mem (s : State) (inst : Nat) (f : Fld) (v : Nat) : (setF s inst f v).mem = s.mem := rfl
@[simp] theorem setF_fab (s : State) (inst : Nat) (f : Fld) (v : Nat) : (setF s inst f v).fab = s.fab := rfl
@[simp] theorem setF_lanes (s : State) (inst : Nat) (f : Fld) (v : Nat) : (setF s inst f v).lanes = s.lanes := rfl
@[simp] theorem setF_sync (s : State) (inst : Nat) (f : Fld) (v : Nat) : (setF s inst f v).sync = s.sync := rfl
@[simp] theorem setF_ct (s : State) (inst : Nat) (f : Fld) (v : Nat) : (setF s inst f v).ct = s.ct := rfl
@[simp] theorem setF_flt (s : State) (inst : Nat) (f : Fld) (v : Nat) : (setF s inst f v).flt = s.flt := rfl
@[simp] theorem setF_mfg (s : State) (inst : Nat) (f : Fld) (v : Nat) : (setF s inst f v).mfg = s.mfg := rfl
@[simp] theorem setF_owner (s : State) (inst : Nat) (f : Fld) (v : Nat) : (setF s inst f v).owner = s.owner := rfl
@[simp] theorem setF_fw (s : State) (inst : Nat) (f : Fld) (v : Nat) : (setF s inst f v).fw = s.fw := rfl
@[simp] theorem setF_ctl (s : State) (inst : Nat) (f : Fld) (v : Nat) : (setF s inst f v).ctl = s.ctl := rfl
@[simp] theorem setF_host (s : State) (inst : Nat) (f : Fld) (v : Nat) : (setF s inst f v).host = s.host := rfl
@[simp] theorem setF_pwr (s : State) (inst : Nat) (f : Fld) (v : Nat) : (setF s inst f v).pwr = s.pwr := rfl
@[simp] theorem setF_tie (s : State) (inst : Nat) (f : Fld) (v : Nat) : (setF s inst f v).tie = s.tie := rfl

@[simp] theorem setB_pending (s : State) (inst : Nat) (f : Fld) (b : Bool) : (setB s inst f b).pending = s.pending := rfl
@[simp] theorem setB_out (s : State) (inst : Nat) (f : Fld) (b : Bool) : (setB s inst f b).out = s.out := rfl
@[simp] theorem setB_freeCtr (s : State) (inst : Nat) (f : Fld) (b : Bool) : (setB s inst f b).freeCtr = s.freeCtr := rfl
@[simp] theorem setB_cmdStatus (s : State) (inst : Nat) (f : Fld) (b : Bool) : (setB s inst f b).cmdStatus = s.cmdStatus := rfl
@[simp] theorem setB_mer (s : State) (inst : Nat) (f : Fld) (b : Bool) : (setB s inst f b).mer = s.mer := rfl
@[simp] theorem setB_pln (s : State) (inst : Nat) (f : Fld) (b : Bool) : (setB s inst f b).pln = s.pln := rfl
@[simp] theorem setB_eng (s : State) (inst : Nat) (f : Fld) (b : Bool) : (setB s inst f b).eng = s.eng := rfl
@[simp] theorem setB_mem (s : State) (inst : Nat) (f : Fld) (b : Bool) : (setB s inst f b).mem = s.mem := rfl
@[simp] theorem setB_fab (s : State) (inst : Nat) (f : Fld) (b : Bool) : (setB s inst f b).fab = s.fab := rfl
@[simp] theorem setB_lanes (s : State) (inst : Nat) (f : Fld) (b : Bool) : (setB s inst f b).lanes = s.lanes := rfl
@[simp] theorem setB_sync (s : State) (inst : Nat) (f : Fld) (b : Bool) : (setB s inst f b).sync = s.sync := rfl
@[simp] theorem setB_ct (s : State) (inst : Nat) (f : Fld) (b : Bool) : (setB s inst f b).ct = s.ct := rfl
@[simp] theorem setB_flt (s : State) (inst : Nat) (f : Fld) (b : Bool) : (setB s inst f b).flt = s.flt := rfl
@[simp] theorem setB_mfg (s : State) (inst : Nat) (f : Fld) (b : Bool) : (setB s inst f b).mfg = s.mfg := rfl
@[simp] theorem setB_owner (s : State) (inst : Nat) (f : Fld) (b : Bool) : (setB s inst f b).owner = s.owner := rfl
@[simp] theorem setB_fw (s : State) (inst : Nat) (f : Fld) (b : Bool) : (setB s inst f b).fw = s.fw := rfl
@[simp] theorem setB_ctl (s : State) (inst : Nat) (f : Fld) (b : Bool) : (setB s inst f b).ctl = s.ctl := rfl
@[simp] theorem setB_host (s : State) (inst : Nat) (f : Fld) (b : Bool) : (setB s inst f b).host = s.host := rfl
@[simp] theorem setB_pwr (s : State) (inst : Nat) (f : Fld) (b : Bool) : (setB s inst f b).pwr = s.pwr := rfl
@[simp] theorem setB_tie (s : State) (inst : Nat) (f : Fld) (b : Bool) : (setB s inst f b).tie = s.tie := rfl

@[simp] theorem setH_pending (s : State) (page : Nat) (f : Fld) (v : Nat) : (setH s page f v).pending = s.pending := rfl
@[simp] theorem setH_out (s : State) (page : Nat) (f : Fld) (v : Nat) : (setH s page f v).out = s.out := rfl
@[simp] theorem setH_freeCtr (s : State) (page : Nat) (f : Fld) (v : Nat) : (setH s page f v).freeCtr = s.freeCtr := rfl
@[simp] theorem setH_cmdStatus (s : State) (page : Nat) (f : Fld) (v : Nat) : (setH s page f v).cmdStatus = s.cmdStatus := rfl
@[simp] theorem setH_mer (s : State) (page : Nat) (f : Fld) (v : Nat) : (setH s page f v).mer = s.mer := rfl
@[simp] theorem setH_pln (s : State) (page : Nat) (f : Fld) (v : Nat) : (setH s page f v).pln = s.pln := rfl
@[simp] theorem setH_eng (s : State) (page : Nat) (f : Fld) (v : Nat) : (setH s page f v).eng = s.eng := rfl
@[simp] theorem setH_mem (s : State) (page : Nat) (f : Fld) (v : Nat) : (setH s page f v).mem = s.mem := rfl
@[simp] theorem setH_fab (s : State) (page : Nat) (f : Fld) (v : Nat) : (setH s page f v).fab = s.fab := rfl
@[simp] theorem setH_lanes (s : State) (page : Nat) (f : Fld) (v : Nat) : (setH s page f v).lanes = s.lanes := rfl
@[simp] theorem setH_sync (s : State) (page : Nat) (f : Fld) (v : Nat) : (setH s page f v).sync = s.sync := rfl
@[simp] theorem setH_ct (s : State) (page : Nat) (f : Fld) (v : Nat) : (setH s page f v).ct = s.ct := rfl
@[simp] theorem setH_flt (s : State) (page : Nat) (f : Fld) (v : Nat) : (setH s page f v).flt = s.flt := rfl
@[simp] theorem setH_mfg (s : State) (page : Nat) (f : Fld) (v : Nat) : (setH s page f v).mfg = s.mfg := rfl
@[simp] theorem setH_owner (s : State) (page : Nat) (f : Fld) (v : Nat) : (setH s page f v).owner = s.owner := rfl
@[simp] theorem setH_fw (s : State) (page : Nat) (f : Fld) (v : Nat) : (setH s page f v).fw = s.fw := rfl
@[simp] theorem setH_ctl (s : State) (page : Nat) (f : Fld) (v : Nat) : (setH s page f v).ctl = s.ctl := rfl
@[simp] theorem setH_host (s : State) (page : Nat) (f : Fld) (v : Nat) : (setH s page f v).host = s.host := rfl
@[simp] theorem setH_pwr (s : State) (page : Nat) (f : Fld) (v : Nat) : (setH s page f v).pwr = s.pwr := rfl
@[simp] theorem setH_tie (s : State) (page : Nat) (f : Fld) (v : Nat) : (setH s page f v).tie = s.tie := rfl

@[simp] theorem bump_pending (s : State) (inst : Nat) (c : Fld) (n : Nat) : (bump s inst c n).pending = s.pending := by unfold bump; split <;> rfl
@[simp] theorem bump_out (s : State) (inst : Nat) (c : Fld) (n : Nat) : (bump s inst c n).out = s.out := by unfold bump; split <;> rfl
@[simp] theorem bump_freeCtr (s : State) (inst : Nat) (c : Fld) (n : Nat) : (bump s inst c n).freeCtr = s.freeCtr := by unfold bump; split <;> rfl
@[simp] theorem bump_cmdStatus (s : State) (inst : Nat) (c : Fld) (n : Nat) : (bump s inst c n).cmdStatus = s.cmdStatus := by unfold bump; split <;> rfl
@[simp] theorem bump_mer (s : State) (inst : Nat) (c : Fld) (n : Nat) : (bump s inst c n).mer = s.mer := by unfold bump; split <;> rfl
@[simp] theorem bump_pln (s : State) (inst : Nat) (c : Fld) (n : Nat) : (bump s inst c n).pln = s.pln := by unfold bump; split <;> rfl
@[simp] theorem bump_eng (s : State) (inst : Nat) (c : Fld) (n : Nat) : (bump s inst c n).eng = s.eng := by unfold bump; split <;> rfl
@[simp] theorem bump_mem (s : State) (inst : Nat) (c : Fld) (n : Nat) : (bump s inst c n).mem = s.mem := by unfold bump; split <;> rfl
@[simp] theorem bump_fab (s : State) (inst : Nat) (c : Fld) (n : Nat) : (bump s inst c n).fab = s.fab := by unfold bump; split <;> rfl
@[simp] theorem bump_lanes (s : State) (inst : Nat) (c : Fld) (n : Nat) : (bump s inst c n).lanes = s.lanes := by unfold bump; split <;> rfl
@[simp] theorem bump_sync (s : State) (inst : Nat) (c : Fld) (n : Nat) : (bump s inst c n).sync = s.sync := by unfold bump; split <;> rfl
@[simp] theorem bump_ct (s : State) (inst : Nat) (c : Fld) (n : Nat) : (bump s inst c n).ct = s.ct := by unfold bump; split <;> rfl
@[simp] theorem bump_flt (s : State) (inst : Nat) (c : Fld) (n : Nat) : (bump s inst c n).flt = s.flt := by unfold bump; split <;> rfl
@[simp] theorem bump_mfg (s : State) (inst : Nat) (c : Fld) (n : Nat) : (bump s inst c n).mfg = s.mfg := by unfold bump; split <;> rfl
@[simp] theorem bump_owner (s : State) (inst : Nat) (c : Fld) (n : Nat) : (bump s inst c n).owner = s.owner := by unfold bump; split <;> rfl
@[simp] theorem bump_fw (s : State) (inst : Nat) (c : Fld) (n : Nat) : (bump s inst c n).fw = s.fw := by unfold bump; split <;> rfl
@[simp] theorem bump_ctl (s : State) (inst : Nat) (c : Fld) (n : Nat) : (bump s inst c n).ctl = s.ctl := by unfold bump; split <;> rfl
@[simp] theorem bump_host (s : State) (inst : Nat) (c : Fld) (n : Nat) : (bump s inst c n).host = s.host := by unfold bump; split <;> rfl
@[simp] theorem bump_pwr (s : State) (inst : Nat) (c : Fld) (n : Nat) : (bump s inst c n).pwr = s.pwr := by unfold bump; split <;> rfl
@[simp] theorem bump_tie (s : State) (inst : Nat) (c : Fld) (n : Nat) : (bump s inst c n).tie = s.tie := by unfold bump; split <;> rfl

@[simp] theorem bumpSat_pending (s : State) (inst : Nat) (f : Fld) (n : Nat) : (bumpSat s inst f n).pending = s.pending := rfl
@[simp] theorem bumpSat_out (s : State) (inst : Nat) (f : Fld) (n : Nat) : (bumpSat s inst f n).out = s.out := rfl
@[simp] theorem bumpSat_freeCtr (s : State) (inst : Nat) (f : Fld) (n : Nat) : (bumpSat s inst f n).freeCtr = s.freeCtr := rfl
@[simp] theorem bumpSat_cmdStatus (s : State) (inst : Nat) (f : Fld) (n : Nat) : (bumpSat s inst f n).cmdStatus = s.cmdStatus := rfl
@[simp] theorem bumpSat_mer (s : State) (inst : Nat) (f : Fld) (n : Nat) : (bumpSat s inst f n).mer = s.mer := rfl
@[simp] theorem bumpSat_pln (s : State) (inst : Nat) (f : Fld) (n : Nat) : (bumpSat s inst f n).pln = s.pln := rfl
@[simp] theorem bumpSat_eng (s : State) (inst : Nat) (f : Fld) (n : Nat) : (bumpSat s inst f n).eng = s.eng := rfl
@[simp] theorem bumpSat_mem (s : State) (inst : Nat) (f : Fld) (n : Nat) : (bumpSat s inst f n).mem = s.mem := rfl
@[simp] theorem bumpSat_fab (s : State) (inst : Nat) (f : Fld) (n : Nat) : (bumpSat s inst f n).fab = s.fab := rfl
@[simp] theorem bumpSat_lanes (s : State) (inst : Nat) (f : Fld) (n : Nat) : (bumpSat s inst f n).lanes = s.lanes := rfl
@[simp] theorem bumpSat_sync (s : State) (inst : Nat) (f : Fld) (n : Nat) : (bumpSat s inst f n).sync = s.sync := rfl
@[simp] theorem bumpSat_ct (s : State) (inst : Nat) (f : Fld) (n : Nat) : (bumpSat s inst f n).ct = s.ct := rfl
@[simp] theorem bumpSat_flt (s : State) (inst : Nat) (f : Fld) (n : Nat) : (bumpSat s inst f n).flt = s.flt := rfl
@[simp] theorem bumpSat_mfg (s : State) (inst : Nat) (f : Fld) (n : Nat) : (bumpSat s inst f n).mfg = s.mfg := rfl
@[simp] theorem bumpSat_owner (s : State) (inst : Nat) (f : Fld) (n : Nat) : (bumpSat s inst f n).owner = s.owner := rfl
@[simp] theorem bumpSat_fw (s : State) (inst : Nat) (f : Fld) (n : Nat) : (bumpSat s inst f n).fw = s.fw := rfl
@[simp] theorem bumpSat_ctl (s : State) (inst : Nat) (f : Fld) (n : Nat) : (bumpSat s inst f n).ctl = s.ctl := rfl
@[simp] theorem bumpSat_host (s : State) (inst : Nat) (f : Fld) (n : Nat) : (bumpSat s inst f n).host = s.host := rfl
@[simp] theorem bumpSat_pwr (s : State) (inst : Nat) (f : Fld) (n : Nat) : (bumpSat s inst f n).pwr = s.pwr := rfl
@[simp] theorem bumpSat_tie (s : State) (inst : Nat) (f : Fld) (n : Nat) : (bumpSat s inst f n).tie = s.tie := rfl

@[simp] theorem setDigest_pending (s : State) (inst : Nat) (f : Fld) (d : Digest) : (setDigest s inst f d).pending = s.pending :=
  foldl_keeps (·.pending) (fun _ _ => by simp) s _
@[simp] theorem setDigest_out (s : State) (inst : Nat) (f : Fld) (d : Digest) : (setDigest s inst f d).out = s.out :=
  foldl_keeps (·.out) (fun _ _ => by simp) s _
@[simp] theorem setDigest_freeCtr (s : State) (inst : Nat) (f : Fld) (d : Digest) : (setDigest s inst f d).freeCtr = s.freeCtr :=
  foldl_keeps (·.freeCtr) (fun _ _ => by simp) s _
@[simp] theorem setDigest_cmdStatus (s : State) (inst : Nat) (f : Fld) (d : Digest) : (setDigest s inst f d).cmdStatus = s.cmdStatus :=
  foldl_keeps (·.cmdStatus) (fun _ _ => by simp) s _
@[simp] theorem setDigest_mer (s : State) (inst : Nat) (f : Fld) (d : Digest) : (setDigest s inst f d).mer = s.mer :=
  foldl_keeps (·.mer) (fun _ _ => by simp) s _
@[simp] theorem setDigest_pln (s : State) (inst : Nat) (f : Fld) (d : Digest) : (setDigest s inst f d).pln = s.pln :=
  foldl_keeps (·.pln) (fun _ _ => by simp) s _
@[simp] theorem setDigest_eng (s : State) (inst : Nat) (f : Fld) (d : Digest) : (setDigest s inst f d).eng = s.eng :=
  foldl_keeps (·.eng) (fun _ _ => by simp) s _
@[simp] theorem setDigest_mem (s : State) (inst : Nat) (f : Fld) (d : Digest) : (setDigest s inst f d).mem = s.mem :=
  foldl_keeps (·.mem) (fun _ _ => by simp) s _
@[simp] theorem setDigest_fab (s : State) (inst : Nat) (f : Fld) (d : Digest) : (setDigest s inst f d).fab = s.fab :=
  foldl_keeps (·.fab) (fun _ _ => by simp) s _
@[simp] theorem setDigest_lanes (s : State) (inst : Nat) (f : Fld) (d : Digest) : (setDigest s inst f d).lanes = s.lanes :=
  foldl_keeps (·.lanes) (fun _ _ => by simp) s _
@[simp] theorem setDigest_sync (s : State) (inst : Nat) (f : Fld) (d : Digest) : (setDigest s inst f d).sync = s.sync :=
  foldl_keeps (·.sync) (fun _ _ => by simp) s _
@[simp] theorem setDigest_ct (s : State) (inst : Nat) (f : Fld) (d : Digest) : (setDigest s inst f d).ct = s.ct :=
  foldl_keeps (·.ct) (fun _ _ => by simp) s _
@[simp] theorem setDigest_flt (s : State) (inst : Nat) (f : Fld) (d : Digest) : (setDigest s inst f d).flt = s.flt :=
  foldl_keeps (·.flt) (fun _ _ => by simp) s _
@[simp] theorem setDigest_mfg (s : State) (inst : Nat) (f : Fld) (d : Digest) : (setDigest s inst f d).mfg = s.mfg :=
  foldl_keeps (·.mfg) (fun _ _ => by simp) s _
@[simp] theorem setDigest_owner (s : State) (inst : Nat) (f : Fld) (d : Digest) : (setDigest s inst f d).owner = s.owner :=
  foldl_keeps (·.owner) (fun _ _ => by simp) s _
@[simp] theorem setDigest_fw (s : State) (inst : Nat) (f : Fld) (d : Digest) : (setDigest s inst f d).fw = s.fw :=
  foldl_keeps (·.fw) (fun _ _ => by simp) s _
@[simp] theorem setDigest_ctl (s : State) (inst : Nat) (f : Fld) (d : Digest) : (setDigest s inst f d).ctl = s.ctl :=
  foldl_keeps (·.ctl) (fun _ _ => by simp) s _
@[simp] theorem setDigest_host (s : State) (inst : Nat) (f : Fld) (d : Digest) : (setDigest s inst f d).host = s.host :=
  foldl_keeps (·.host) (fun _ _ => by simp) s _
@[simp] theorem setDigest_pwr (s : State) (inst : Nat) (f : Fld) (d : Digest) : (setDigest s inst f d).pwr = s.pwr :=
  foldl_keeps (·.pwr) (fun _ _ => by simp) s _
@[simp] theorem setDigest_tie (s : State) (inst : Nat) (f : Fld) (d : Digest) : (setDigest s inst f d).tie = s.tie :=
  foldl_keeps (·.tie) (fun _ _ => by simp) s _

@[simp] theorem emit_pending (s : State) (o : Out) : (emit s o).pending = s.pending := rfl
@[simp] theorem emit_freeCtr (s : State) (o : Out) : (emit s o).freeCtr = s.freeCtr := rfl
@[simp] theorem emit_cmdStatus (s : State) (o : Out) : (emit s o).cmdStatus = s.cmdStatus := rfl
@[simp] theorem emit_mer (s : State) (o : Out) : (emit s o).mer = s.mer := rfl
@[simp] theorem emit_regs (s : State) (o : Out) : (emit s o).regs = s.regs := rfl
@[simp] theorem emit_pln (s : State) (o : Out) : (emit s o).pln = s.pln := rfl
@[simp] theorem emit_eng (s : State) (o : Out) : (emit s o).eng = s.eng := rfl
@[simp] theorem emit_mem (s : State) (o : Out) : (emit s o).mem = s.mem := rfl
@[simp] theorem emit_fab (s : State) (o : Out) : (emit s o).fab = s.fab := rfl
@[simp] theorem emit_lanes (s : State) (o : Out) : (emit s o).lanes = s.lanes := rfl
@[simp] theorem emit_sync (s : State) (o : Out) : (emit s o).sync = s.sync := rfl
@[simp] theorem emit_ct (s : State) (o : Out) : (emit s o).ct = s.ct := rfl
@[simp] theorem emit_flt (s : State) (o : Out) : (emit s o).flt = s.flt := rfl
@[simp] theorem emit_mfg (s : State) (o : Out) : (emit s o).mfg = s.mfg := rfl
@[simp] theorem emit_owner (s : State) (o : Out) : (emit s o).owner = s.owner := rfl
@[simp] theorem emit_fw (s : State) (o : Out) : (emit s o).fw = s.fw := rfl
@[simp] theorem emit_ctl (s : State) (o : Out) : (emit s o).ctl = s.ctl := rfl
@[simp] theorem emit_host (s : State) (o : Out) : (emit s o).host = s.host := rfl
@[simp] theorem emit_pwr (s : State) (o : Out) : (emit s o).pwr = s.pwr := rfl

@[simp] theorem emit_out (s : State) (o : Out) : (emit s o).out = o :: s.out := rfl
@[simp] theorem emit_tie (s : State) (o : Out) : (emit s o).tie = s.tie := rfl

@[simp] theorem noteNv_pending (s : State) : (noteNv s).pending = s.pending := rfl
@[simp] theorem noteNv_out (s : State) : (noteNv s).out = s.out := rfl
@[simp] theorem noteNv_freeCtr (s : State) : (noteNv s).freeCtr = s.freeCtr := rfl
@[simp] theorem noteNv_cmdStatus (s : State) : (noteNv s).cmdStatus = s.cmdStatus := rfl
@[simp] theorem noteNv_mer (s : State) : (noteNv s).mer = s.mer := rfl
@[simp] theorem noteNv_regs (s : State) : (noteNv s).regs = s.regs := rfl
@[simp] theorem noteNv_pln (s : State) : (noteNv s).pln = s.pln := rfl
@[simp] theorem noteNv_eng (s : State) : (noteNv s).eng = s.eng := rfl
@[simp] theorem noteNv_mem (s : State) : (noteNv s).mem = s.mem := rfl
@[simp] theorem noteNv_fab (s : State) : (noteNv s).fab = s.fab := rfl
@[simp] theorem noteNv_lanes (s : State) : (noteNv s).lanes = s.lanes := rfl
@[simp] theorem noteNv_sync (s : State) : (noteNv s).sync = s.sync := rfl
@[simp] theorem noteNv_ct (s : State) : (noteNv s).ct = s.ct := rfl
@[simp] theorem noteNv_flt (s : State) : (noteNv s).flt = s.flt := rfl
@[simp] theorem noteNv_mfg (s : State) : (noteNv s).mfg = s.mfg := rfl
@[simp] theorem noteNv_owner (s : State) : (noteNv s).owner = s.owner := rfl
@[simp] theorem noteNv_fw (s : State) : (noteNv s).fw = s.fw := rfl
@[simp] theorem noteNv_ctl (s : State) : (noteNv s).ctl = s.ctl := rfl
@[simp] theorem noteNv_host (s : State) : (noteNv s).host = s.host := rfl
@[simp] theorem noteNv_tie (s : State) : (noteNv s).tie = s.tie := rfl

@[simp] theorem putByte_pending (s : State) (a : Nat) (b : Byte) : (putByte s a b).pending = s.pending := rfl
@[simp] theorem putByte_out (s : State) (a : Nat) (b : Byte) : (putByte s a b).out = s.out := rfl
@[simp] theorem putByte_freeCtr (s : State) (a : Nat) (b : Byte) : (putByte s a b).freeCtr = s.freeCtr := rfl
@[simp] theorem putByte_cmdStatus (s : State) (a : Nat) (b : Byte) : (putByte s a b).cmdStatus = s.cmdStatus := rfl
@[simp] theorem putByte_mer (s : State) (a : Nat) (b : Byte) : (putByte s a b).mer = s.mer := rfl
@[simp] theorem putByte_regs (s : State) (a : Nat) (b : Byte) : (putByte s a b).regs = s.regs := rfl
@[simp] theorem putByte_pln (s : State) (a : Nat) (b : Byte) : (putByte s a b).pln = s.pln := rfl
@[simp] theorem putByte_eng (s : State) (a : Nat) (b : Byte) : (putByte s a b).eng = s.eng := rfl
@[simp] theorem putByte_fab (s : State) (a : Nat) (b : Byte) : (putByte s a b).fab = s.fab := rfl
@[simp] theorem putByte_lanes (s : State) (a : Nat) (b : Byte) : (putByte s a b).lanes = s.lanes := rfl
@[simp] theorem putByte_sync (s : State) (a : Nat) (b : Byte) : (putByte s a b).sync = s.sync := rfl
@[simp] theorem putByte_ct (s : State) (a : Nat) (b : Byte) : (putByte s a b).ct = s.ct := rfl
@[simp] theorem putByte_flt (s : State) (a : Nat) (b : Byte) : (putByte s a b).flt = s.flt := rfl
@[simp] theorem putByte_mfg (s : State) (a : Nat) (b : Byte) : (putByte s a b).mfg = s.mfg := rfl
@[simp] theorem putByte_owner (s : State) (a : Nat) (b : Byte) : (putByte s a b).owner = s.owner := rfl
@[simp] theorem putByte_fw (s : State) (a : Nat) (b : Byte) : (putByte s a b).fw = s.fw := rfl
@[simp] theorem putByte_ctl (s : State) (a : Nat) (b : Byte) : (putByte s a b).ctl = s.ctl := rfl
@[simp] theorem putByte_host (s : State) (a : Nat) (b : Byte) : (putByte s a b).host = s.host := rfl
@[simp] theorem putByte_pwr (s : State) (a : Nat) (b : Byte) : (putByte s a b).pwr = s.pwr := rfl
@[simp] theorem putByte_tie (s : State) (a : Nat) (b : Byte) : (putByte s a b).tie = s.tie := rfl

@[simp] theorem putBytes_pending (s : State) (a : Nat) (bs : List Byte) : (putBytes s a bs).pending = s.pending := by
  induction bs generalizing s a with
  | nil => rfl
  | cons b bs ih => simp [putBytes, ih]
@[simp] theorem putBytes_out (s : State) (a : Nat) (bs : List Byte) : (putBytes s a bs).out = s.out := by
  induction bs generalizing s a with
  | nil => rfl
  | cons b bs ih => simp [putBytes, ih]
@[simp] theorem putBytes_freeCtr (s : State) (a : Nat) (bs : List Byte) : (putBytes s a bs).freeCtr = s.freeCtr := by
  induction bs generalizing s a with
  | nil => rfl
  | cons b bs ih => simp [putBytes, ih]
@[simp] theorem putBytes_cmdStatus (s : State) (a : Nat) (bs : List Byte) : (putBytes s a bs).cmdStatus = s.cmdStatus := by
  induction bs generalizing s a with
  | nil => rfl
  | cons b bs ih => simp [putBytes, ih]
@[simp] theorem putBytes_mer (s : State) (a : Nat) (bs : List Byte) : (putBytes s a bs).mer = s.mer := by
  induction bs generalizing s a with
  | nil => rfl
  | cons b bs ih => simp [putBytes, ih]
@[simp] theorem putBytes_regs (s : State) (a : Nat) (bs : List Byte) : (putBytes s a bs).regs = s.regs := by
  induction bs generalizing s a with
  | nil => rfl
  | cons b bs ih => simp [putBytes, ih]
@[simp] theorem putBytes_pln (s : State) (a : Nat) (bs : List Byte) : (putBytes s a bs).pln = s.pln := by
  induction bs generalizing s a with
  | nil => rfl
  | cons b bs ih => simp [putBytes, ih]
@[simp] theorem putBytes_eng (s : State) (a : Nat) (bs : List Byte) : (putBytes s a bs).eng = s.eng := by
  induction bs generalizing s a with
  | nil => rfl
  | cons b bs ih => simp [putBytes, ih]
@[simp] theorem putBytes_fab (s : State) (a : Nat) (bs : List Byte) : (putBytes s a bs).fab = s.fab := by
  induction bs generalizing s a with
  | nil => rfl
  | cons b bs ih => simp [putBytes, ih]
@[simp] theorem putBytes_lanes (s : State) (a : Nat) (bs : List Byte) : (putBytes s a bs).lanes = s.lanes := by
  induction bs generalizing s a with
  | nil => rfl
  | cons b bs ih => simp [putBytes, ih]
@[simp] theorem putBytes_sync (s : State) (a : Nat) (bs : List Byte) : (putBytes s a bs).sync = s.sync := by
  induction bs generalizing s a with
  | nil => rfl
  | cons b bs ih => simp [putBytes, ih]
@[simp] theorem putBytes_ct (s : State) (a : Nat) (bs : List Byte) : (putBytes s a bs).ct = s.ct := by
  induction bs generalizing s a with
  | nil => rfl
  | cons b bs ih => simp [putBytes, ih]
@[simp] theorem putBytes_flt (s : State) (a : Nat) (bs : List Byte) : (putBytes s a bs).flt = s.flt := by
  induction bs generalizing s a with
  | nil => rfl
  | cons b bs ih => simp [putBytes, ih]
@[simp] theorem putBytes_mfg (s : State) (a : Nat) (bs : List Byte) : (putBytes s a bs).mfg = s.mfg := by
  induction bs generalizing s a with
  | nil => rfl
  | cons b bs ih => simp [putBytes, ih]
@[simp] theorem putBytes_owner (s : State) (a : Nat) (bs : List Byte) : (putBytes s a bs).owner = s.owner := by
  induction bs generalizing s a with
  | nil => rfl
  | cons b bs ih => simp [putBytes, ih]
@[simp] theorem putBytes_fw (s : State) (a : Nat) (bs : List Byte) : (putBytes s a bs).fw = s.fw := by
  induction bs generalizing s a with
  | nil => rfl
  | cons b bs ih => simp [putBytes, ih]
@[simp] theorem putBytes_ctl (s : State) (a : Nat) (bs : List Byte) : (putBytes s a bs).ctl = s.ctl := by
  induction bs generalizing s a with
  | nil => rfl
  | cons b bs ih => simp [putBytes, ih]
@[simp] theorem putBytes_host (s : State) (a : Nat) (bs : List Byte) : (putBytes s a bs).host = s.host := by
  induction bs generalizing s a with
  | nil => rfl
  | cons b bs ih => simp [putBytes, ih]
@[simp] theorem putBytes_pwr (s : State) (a : Nat) (bs : List Byte) : (putBytes s a bs).pwr = s.pwr := by
  induction bs generalizing s a with
  | nil => rfl
  | cons b bs ih => simp [putBytes, ih]
@[simp] theorem putBytes_tie (s : State) (a : Nat) (bs : List Byte) : (putBytes s a bs).tie = s.tie := by
  induction bs generalizing s a with
  | nil => rfl
  | cons b bs ih => simp [putBytes, ih]

@[simp] theorem makeUndef_pending (s : State) (base len : Nat) (onlyPc : Option (Nat × Nat × Nat)) : (makeUndef s base len onlyPc).pending = s.pending := by unfold makeUndef; split <;> rfl
@[simp] theorem makeUndef_out (s : State) (base len : Nat) (onlyPc : Option (Nat × Nat × Nat)) : (makeUndef s base len onlyPc).out = s.out := by unfold makeUndef; split <;> rfl
@[simp] theorem makeUndef_freeCtr (s : State) (base len : Nat) (onlyPc : Option (Nat × Nat × Nat)) : (makeUndef s base len onlyPc).freeCtr = s.freeCtr := by unfold makeUndef; split <;> rfl
@[simp] theorem makeUndef_cmdStatus (s : State) (base len : Nat) (onlyPc : Option (Nat × Nat × Nat)) : (makeUndef s base len onlyPc).cmdStatus = s.cmdStatus := by unfold makeUndef; split <;> rfl
@[simp] theorem makeUndef_mer (s : State) (base len : Nat) (onlyPc : Option (Nat × Nat × Nat)) : (makeUndef s base len onlyPc).mer = s.mer := by unfold makeUndef; split <;> rfl
@[simp] theorem makeUndef_regs (s : State) (base len : Nat) (onlyPc : Option (Nat × Nat × Nat)) : (makeUndef s base len onlyPc).regs = s.regs := by unfold makeUndef; split <;> rfl
@[simp] theorem makeUndef_pln (s : State) (base len : Nat) (onlyPc : Option (Nat × Nat × Nat)) : (makeUndef s base len onlyPc).pln = s.pln := by unfold makeUndef; split <;> rfl
@[simp] theorem makeUndef_eng (s : State) (base len : Nat) (onlyPc : Option (Nat × Nat × Nat)) : (makeUndef s base len onlyPc).eng = s.eng := by unfold makeUndef; split <;> rfl
@[simp] theorem makeUndef_fab (s : State) (base len : Nat) (onlyPc : Option (Nat × Nat × Nat)) : (makeUndef s base len onlyPc).fab = s.fab := by unfold makeUndef; split <;> rfl
@[simp] theorem makeUndef_lanes (s : State) (base len : Nat) (onlyPc : Option (Nat × Nat × Nat)) : (makeUndef s base len onlyPc).lanes = s.lanes := by unfold makeUndef; split <;> rfl
@[simp] theorem makeUndef_sync (s : State) (base len : Nat) (onlyPc : Option (Nat × Nat × Nat)) : (makeUndef s base len onlyPc).sync = s.sync := by unfold makeUndef; split <;> rfl
@[simp] theorem makeUndef_ct (s : State) (base len : Nat) (onlyPc : Option (Nat × Nat × Nat)) : (makeUndef s base len onlyPc).ct = s.ct := by unfold makeUndef; split <;> rfl
@[simp] theorem makeUndef_flt (s : State) (base len : Nat) (onlyPc : Option (Nat × Nat × Nat)) : (makeUndef s base len onlyPc).flt = s.flt := by unfold makeUndef; split <;> rfl
@[simp] theorem makeUndef_mfg (s : State) (base len : Nat) (onlyPc : Option (Nat × Nat × Nat)) : (makeUndef s base len onlyPc).mfg = s.mfg := by unfold makeUndef; split <;> rfl
@[simp] theorem makeUndef_owner (s : State) (base len : Nat) (onlyPc : Option (Nat × Nat × Nat)) : (makeUndef s base len onlyPc).owner = s.owner := by unfold makeUndef; split <;> rfl
@[simp] theorem makeUndef_fw (s : State) (base len : Nat) (onlyPc : Option (Nat × Nat × Nat)) : (makeUndef s base len onlyPc).fw = s.fw := by unfold makeUndef; split <;> rfl
@[simp] theorem makeUndef_ctl (s : State) (base len : Nat) (onlyPc : Option (Nat × Nat × Nat)) : (makeUndef s base len onlyPc).ctl = s.ctl := by unfold makeUndef; split <;> rfl
@[simp] theorem makeUndef_host (s : State) (base len : Nat) (onlyPc : Option (Nat × Nat × Nat)) : (makeUndef s base len onlyPc).host = s.host := by unfold makeUndef; split <;> rfl
@[simp] theorem makeUndef_pwr (s : State) (base len : Nat) (onlyPc : Option (Nat × Nat × Nat)) : (makeUndef s base len onlyPc).pwr = s.pwr := by unfold makeUndef; split <;> rfl
@[simp] theorem makeUndef_tie (s : State) (base len : Nat) (onlyPc : Option (Nat × Nat × Nat)) : (makeUndef s base len onlyPc).tie = s.tie := by unfold makeUndef; split <;> rfl

@[simp] theorem enqueueFault_pending (s : State) (m : FaultMsg) : (enqueueFault s m).pending = s.pending := by
 unfold enqueueFault; dsimp only; split
 · rfl
 · split <;> simp
@[simp] theorem enqueueFault_out (s : State) (m : FaultMsg) : (enqueueFault s m).out = s.out := by
 unfold enqueueFault; dsimp only; split
 · rfl
 · split <;> simp
@[simp] theorem enqueueFault_freeCtr (s : State) (m : FaultMsg) : (enqueueFault s m).freeCtr = s.freeCtr := by
 unfold enqueueFault; dsimp only; split
 · rfl
 · split <;> simp
@[simp] theorem enqueueFault_cmdStatus (s : State) (m : FaultMsg) : (enqueueFault s m).cmdStatus = s.cmdStatus := by
 unfold enqueueFault; dsimp only; split
 · rfl
 · split <;> simp
@[simp] theorem enqueueFault_mer (s : State) (m : FaultMsg) : (enqueueFault s m).mer = s.mer := by
 unfold enqueueFault; dsimp only; split
 · rfl
 · split <;> simp
@[simp] theorem enqueueFault_pln (s : State) (m : FaultMsg) : (enqueueFault s m).pln = s.pln := by
 unfold enqueueFault; dsimp only; split
 · rfl
 · split <;> simp
@[simp] theorem enqueueFault_eng (s : State) (m : FaultMsg) : (enqueueFault s m).eng = s.eng := by
 unfold enqueueFault; dsimp only; split
 · rfl
 · split <;> simp
@[simp] theorem enqueueFault_mem (s : State) (m : FaultMsg) : (enqueueFault s m).mem = s.mem := by
 unfold enqueueFault; dsimp only; split
 · rfl
 · split <;> simp
@[simp] theorem enqueueFault_fab (s : State) (m : FaultMsg) : (enqueueFault s m).fab = s.fab := by
 unfold enqueueFault; dsimp only; split
 · rfl
 · split <;> simp
@[simp] theorem enqueueFault_lanes (s : State) (m : FaultMsg) : (enqueueFault s m).lanes = s.lanes := by
 unfold enqueueFault; dsimp only; split
 · rfl
 · split <;> simp
@[simp] theorem enqueueFault_sync (s : State) (m : FaultMsg) : (enqueueFault s m).sync = s.sync := by
 unfold enqueueFault; dsimp only; split
 · rfl
 · split <;> simp
@[simp] theorem enqueueFault_ct (s : State) (m : FaultMsg) : (enqueueFault s m).ct = s.ct := by
 unfold enqueueFault; dsimp only; split
 · rfl
 · split <;> simp
@[simp] theorem enqueueFault_mfg (s : State) (m : FaultMsg) : (enqueueFault s m).mfg = s.mfg := by
 unfold enqueueFault; dsimp only; split
 · rfl
 · split <;> simp
@[simp] theorem enqueueFault_owner (s : State) (m : FaultMsg) : (enqueueFault s m).owner = s.owner := by
 unfold enqueueFault; dsimp only; split
 · rfl
 · split <;> simp
@[simp] theorem enqueueFault_fw (s : State) (m : FaultMsg) : (enqueueFault s m).fw = s.fw := by
 unfold enqueueFault; dsimp only; split
 · rfl
 · split <;> simp
@[simp] theorem enqueueFault_ctl (s : State) (m : FaultMsg) : (enqueueFault s m).ctl = s.ctl := by
 unfold enqueueFault; dsimp only; split
 · rfl
 · split <;> simp
@[simp] theorem enqueueFault_host (s : State) (m : FaultMsg) : (enqueueFault s m).host = s.host := by
 unfold enqueueFault; dsimp only; split
 · rfl
 · split <;> simp
@[simp] theorem enqueueFault_pwr (s : State) (m : FaultMsg) : (enqueueFault s m).pwr = s.pwr := by
 unfold enqueueFault; dsimp only; split
 · rfl
 · split <;> simp
@[simp] theorem enqueueFault_tie (s : State) (m : FaultMsg) : (enqueueFault s m).tie = s.tie := by
 unfold enqueueFault; dsimp only; split
 · rfl
 · split <;> simp

@[simp] theorem fault_pending (s : State) (kind page sub node addr detail : Nat) : (fault s kind page sub node addr detail).pending = s.pending := by simp [fault]
@[simp] theorem fault_out (s : State) (kind page sub node addr detail : Nat) : (fault s kind page sub node addr detail).out = s.out := by simp [fault]
@[simp] theorem fault_freeCtr (s : State) (kind page sub node addr detail : Nat) : (fault s kind page sub node addr detail).freeCtr = s.freeCtr := by simp [fault]
@[simp] theorem fault_cmdStatus (s : State) (kind page sub node addr detail : Nat) : (fault s kind page sub node addr detail).cmdStatus = s.cmdStatus := by simp [fault]
@[simp] theorem fault_mer (s : State) (kind page sub node addr detail : Nat) : (fault s kind page sub node addr detail).mer = s.mer := by simp [fault]
@[simp] theorem fault_pln (s : State) (kind page sub node addr detail : Nat) : (fault s kind page sub node addr detail).pln = s.pln := by simp [fault]
@[simp] theorem fault_eng (s : State) (kind page sub node addr detail : Nat) : (fault s kind page sub node addr detail).eng = s.eng := by simp [fault]
@[simp] theorem fault_mem (s : State) (kind page sub node addr detail : Nat) : (fault s kind page sub node addr detail).mem = s.mem := by simp [fault]
@[simp] theorem fault_fab (s : State) (kind page sub node addr detail : Nat) : (fault s kind page sub node addr detail).fab = s.fab := by simp [fault]
@[simp] theorem fault_lanes (s : State) (kind page sub node addr detail : Nat) : (fault s kind page sub node addr detail).lanes = s.lanes := by simp [fault]
@[simp] theorem fault_sync (s : State) (kind page sub node addr detail : Nat) : (fault s kind page sub node addr detail).sync = s.sync := by simp [fault]
@[simp] theorem fault_ct (s : State) (kind page sub node addr detail : Nat) : (fault s kind page sub node addr detail).ct = s.ct := by simp [fault]
@[simp] theorem fault_mfg (s : State) (kind page sub node addr detail : Nat) : (fault s kind page sub node addr detail).mfg = s.mfg := by simp [fault]
@[simp] theorem fault_owner (s : State) (kind page sub node addr detail : Nat) : (fault s kind page sub node addr detail).owner = s.owner := by simp [fault]
@[simp] theorem fault_fw (s : State) (kind page sub node addr detail : Nat) : (fault s kind page sub node addr detail).fw = s.fw := by simp [fault]
@[simp] theorem fault_ctl (s : State) (kind page sub node addr detail : Nat) : (fault s kind page sub node addr detail).ctl = s.ctl := by simp [fault]
@[simp] theorem fault_host (s : State) (kind page sub node addr detail : Nat) : (fault s kind page sub node addr detail).host = s.host := by simp [fault]
@[simp] theorem fault_pwr (s : State) (kind page sub node addr detail : Nat) : (fault s kind page sub node addr detail).pwr = s.pwr := by simp [fault]
@[simp] theorem fault_tie (s : State) (kind page sub node addr detail : Nat) : (fault s kind page sub node addr detail).tie = s.tie := by simp [fault]

@[simp] theorem reportFrom_pending (s : State) (cause source : Nat) : (reportFrom s cause source).pending = s.pending := by
 unfold reportFrom; split
 · dsimp only; split <;> rfl
 · rfl
@[simp] theorem reportFrom_out (s : State) (cause source : Nat) : (reportFrom s cause source).out = s.out := by
 unfold reportFrom; split
 · dsimp only; split <;> rfl
 · rfl
@[simp] theorem reportFrom_freeCtr (s : State) (cause source : Nat) : (reportFrom s cause source).freeCtr = s.freeCtr := by
 unfold reportFrom; split
 · dsimp only; split <;> rfl
 · rfl
@[simp] theorem reportFrom_cmdStatus (s : State) (cause source : Nat) : (reportFrom s cause source).cmdStatus = s.cmdStatus := by
 unfold reportFrom; split
 · dsimp only; split <;> rfl
 · rfl
@[simp] theorem reportFrom_mer (s : State) (cause source : Nat) : (reportFrom s cause source).mer = s.mer := by
 unfold reportFrom; split
 · dsimp only; split <;> rfl
 · rfl
@[simp] theorem reportFrom_regs (s : State) (cause source : Nat) : (reportFrom s cause source).regs = s.regs := by
 unfold reportFrom; split
 · dsimp only; split <;> rfl
 · rfl
@[simp] theorem reportFrom_eng (s : State) (cause source : Nat) : (reportFrom s cause source).eng = s.eng := by
 unfold reportFrom; split
 · dsimp only; split <;> rfl
 · rfl
@[simp] theorem reportFrom_mem (s : State) (cause source : Nat) : (reportFrom s cause source).mem = s.mem := by
 unfold reportFrom; split
 · dsimp only; split <;> rfl
 · rfl
@[simp] theorem reportFrom_fab (s : State) (cause source : Nat) : (reportFrom s cause source).fab = s.fab := by
 unfold reportFrom; split
 · dsimp only; split <;> rfl
 · rfl
@[simp] theorem reportFrom_lanes (s : State) (cause source : Nat) : (reportFrom s cause source).lanes = s.lanes := by
 unfold reportFrom; split
 · dsimp only; split <;> rfl
 · rfl
@[simp] theorem reportFrom_sync (s : State) (cause source : Nat) : (reportFrom s cause source).sync = s.sync := by
 unfold reportFrom; split
 · dsimp only; split <;> rfl
 · rfl
@[simp] theorem reportFrom_ct (s : State) (cause source : Nat) : (reportFrom s cause source).ct = s.ct := by
 unfold reportFrom; split
 · dsimp only; split <;> rfl
 · rfl
@[simp] theorem reportFrom_flt (s : State) (cause source : Nat) : (reportFrom s cause source).flt = s.flt := by
 unfold reportFrom; split
 · dsimp only; split <;> rfl
 · rfl
@[simp] theorem reportFrom_mfg (s : State) (cause source : Nat) : (reportFrom s cause source).mfg = s.mfg := by
 unfold reportFrom; split
 · dsimp only; split <;> rfl
 · rfl
@[simp] theorem reportFrom_owner (s : State) (cause source : Nat) : (reportFrom s cause source).owner = s.owner := by
 unfold reportFrom; split
 · dsimp only; split <;> rfl
 · rfl
@[simp] theorem reportFrom_fw (s : State) (cause source : Nat) : (reportFrom s cause source).fw = s.fw := by
 unfold reportFrom; split
 · dsimp only; split <;> rfl
 · rfl
@[simp] theorem reportFrom_ctl (s : State) (cause source : Nat) : (reportFrom s cause source).ctl = s.ctl := by
 unfold reportFrom; split
 · dsimp only; split <;> rfl
 · rfl
@[simp] theorem reportFrom_host (s : State) (cause source : Nat) : (reportFrom s cause source).host = s.host := by
 unfold reportFrom; split
 · dsimp only; split <;> rfl
 · rfl
@[simp] theorem reportFrom_pwr (s : State) (cause source : Nat) : (reportFrom s cause source).pwr = s.pwr := by
 unfold reportFrom; split
 · dsimp only; split <;> rfl
 · rfl
@[simp] theorem reportFrom_tie (s : State) (cause source : Nat) : (reportFrom s cause source).tie = s.tie := by
 unfold reportFrom; split
 · dsimp only; split <;> rfl
 · rfl

@[simp] theorem report_pending (s : State) (cause : Nat) : (report s cause).pending = s.pending := by simp [report]
@[simp] theorem report_out (s : State) (cause : Nat) : (report s cause).out = s.out := by simp [report]
@[simp] theorem report_freeCtr (s : State) (cause : Nat) : (report s cause).freeCtr = s.freeCtr := by simp [report]
@[simp] theorem report_cmdStatus (s : State) (cause : Nat) : (report s cause).cmdStatus = s.cmdStatus := by simp [report]
@[simp] theorem report_mer (s : State) (cause : Nat) : (report s cause).mer = s.mer := by simp [report]
@[simp] theorem report_regs (s : State) (cause : Nat) : (report s cause).regs = s.regs := by simp [report]
@[simp] theorem report_eng (s : State) (cause : Nat) : (report s cause).eng = s.eng := by simp [report]
@[simp] theorem report_mem (s : State) (cause : Nat) : (report s cause).mem = s.mem := by simp [report]
@[simp] theorem report_fab (s : State) (cause : Nat) : (report s cause).fab = s.fab := by simp [report]
@[simp] theorem report_lanes (s : State) (cause : Nat) : (report s cause).lanes = s.lanes := by simp [report]
@[simp] theorem report_sync (s : State) (cause : Nat) : (report s cause).sync = s.sync := by simp [report]
@[simp] theorem report_ct (s : State) (cause : Nat) : (report s cause).ct = s.ct := by simp [report]
@[simp] theorem report_flt (s : State) (cause : Nat) : (report s cause).flt = s.flt := by simp [report]
@[simp] theorem report_mfg (s : State) (cause : Nat) : (report s cause).mfg = s.mfg := by simp [report]
@[simp] theorem report_owner (s : State) (cause : Nat) : (report s cause).owner = s.owner := by simp [report]
@[simp] theorem report_fw (s : State) (cause : Nat) : (report s cause).fw = s.fw := by simp [report]
@[simp] theorem report_ctl (s : State) (cause : Nat) : (report s cause).ctl = s.ctl := by simp [report]
@[simp] theorem report_host (s : State) (cause : Nat) : (report s cause).host = s.host := by simp [report]
@[simp] theorem report_pwr (s : State) (cause : Nat) : (report s cause).pwr = s.pwr := by simp [report]
@[simp] theorem report_tie (s : State) (cause : Nat) : (report s cause).tie = s.tie := by simp [report]

@[simp] theorem addLoss_pending (s : State) (l : Loss) : (addLoss s l).pending = s.pending := by
 unfold addLoss; split
 · rfl
 · split <;> rfl
@[simp] theorem addLoss_out (s : State) (l : Loss) : (addLoss s l).out = s.out := by
 unfold addLoss; split
 · rfl
 · split <;> rfl
@[simp] theorem addLoss_freeCtr (s : State) (l : Loss) : (addLoss s l).freeCtr = s.freeCtr := by
 unfold addLoss; split
 · rfl
 · split <;> rfl
@[simp] theorem addLoss_cmdStatus (s : State) (l : Loss) : (addLoss s l).cmdStatus = s.cmdStatus := by
 unfold addLoss; split
 · rfl
 · split <;> rfl
@[simp] theorem addLoss_mer (s : State) (l : Loss) : (addLoss s l).mer = s.mer := by
 unfold addLoss; split
 · rfl
 · split <;> rfl
@[simp] theorem addLoss_regs (s : State) (l : Loss) : (addLoss s l).regs = s.regs := by
 unfold addLoss; split
 · rfl
 · split <;> rfl
@[simp] theorem addLoss_eng (s : State) (l : Loss) : (addLoss s l).eng = s.eng := by
 unfold addLoss; split
 · rfl
 · split <;> rfl
@[simp] theorem addLoss_mem (s : State) (l : Loss) : (addLoss s l).mem = s.mem := by
 unfold addLoss; split
 · rfl
 · split <;> rfl
@[simp] theorem addLoss_fab (s : State) (l : Loss) : (addLoss s l).fab = s.fab := by
 unfold addLoss; split
 · rfl
 · split <;> rfl
@[simp] theorem addLoss_lanes (s : State) (l : Loss) : (addLoss s l).lanes = s.lanes := by
 unfold addLoss; split
 · rfl
 · split <;> rfl
@[simp] theorem addLoss_sync (s : State) (l : Loss) : (addLoss s l).sync = s.sync := by
 unfold addLoss; split
 · rfl
 · split <;> rfl
@[simp] theorem addLoss_ct (s : State) (l : Loss) : (addLoss s l).ct = s.ct := by
 unfold addLoss; split
 · rfl
 · split <;> rfl
@[simp] theorem addLoss_flt (s : State) (l : Loss) : (addLoss s l).flt = s.flt := by
 unfold addLoss; split
 · rfl
 · split <;> rfl
@[simp] theorem addLoss_mfg (s : State) (l : Loss) : (addLoss s l).mfg = s.mfg := by
 unfold addLoss; split
 · rfl
 · split <;> rfl
@[simp] theorem addLoss_owner (s : State) (l : Loss) : (addLoss s l).owner = s.owner := by
 unfold addLoss; split
 · rfl
 · split <;> rfl
@[simp] theorem addLoss_fw (s : State) (l : Loss) : (addLoss s l).fw = s.fw := by
 unfold addLoss; split
 · rfl
 · split <;> rfl
@[simp] theorem addLoss_ctl (s : State) (l : Loss) : (addLoss s l).ctl = s.ctl := by
 unfold addLoss; split
 · rfl
 · split <;> rfl
@[simp] theorem addLoss_host (s : State) (l : Loss) : (addLoss s l).host = s.host := by
 unfold addLoss; split
 · rfl
 · split <;> rfl
@[simp] theorem addLoss_pwr (s : State) (l : Loss) : (addLoss s l).pwr = s.pwr := by
 unfold addLoss; split
 · rfl
 · split <;> rfl
@[simp] theorem addLoss_tie (s : State) (l : Loss) : (addLoss s l).tie = s.tie := by
 unfold addLoss; split
 · rfl
 · split <;> rfl

@[simp] theorem putJob_pending (s : State) (j : Job) : (putJob s j).pending = s.pending := rfl
@[simp] theorem putJob_out (s : State) (j : Job) : (putJob s j).out = s.out := rfl
@[simp] theorem putJob_freeCtr (s : State) (j : Job) : (putJob s j).freeCtr = s.freeCtr := rfl
@[simp] theorem putJob_cmdStatus (s : State) (j : Job) : (putJob s j).cmdStatus = s.cmdStatus := rfl
@[simp] theorem putJob_mer (s : State) (j : Job) : (putJob s j).mer = s.mer := rfl
@[simp] theorem putJob_regs (s : State) (j : Job) : (putJob s j).regs = s.regs := rfl
@[simp] theorem putJob_pln (s : State) (j : Job) : (putJob s j).pln = s.pln := rfl
@[simp] theorem putJob_mem (s : State) (j : Job) : (putJob s j).mem = s.mem := rfl
@[simp] theorem putJob_fab (s : State) (j : Job) : (putJob s j).fab = s.fab := rfl
@[simp] theorem putJob_lanes (s : State) (j : Job) : (putJob s j).lanes = s.lanes := rfl
@[simp] theorem putJob_sync (s : State) (j : Job) : (putJob s j).sync = s.sync := rfl
@[simp] theorem putJob_ct (s : State) (j : Job) : (putJob s j).ct = s.ct := rfl
@[simp] theorem putJob_flt (s : State) (j : Job) : (putJob s j).flt = s.flt := rfl
@[simp] theorem putJob_mfg (s : State) (j : Job) : (putJob s j).mfg = s.mfg := rfl
@[simp] theorem putJob_owner (s : State) (j : Job) : (putJob s j).owner = s.owner := rfl
@[simp] theorem putJob_fw (s : State) (j : Job) : (putJob s j).fw = s.fw := rfl
@[simp] theorem putJob_ctl (s : State) (j : Job) : (putJob s j).ctl = s.ctl := rfl
@[simp] theorem putJob_host (s : State) (j : Job) : (putJob s j).host = s.host := rfl
@[simp] theorem putJob_pwr (s : State) (j : Job) : (putJob s j).pwr = s.pwr := rfl
@[simp] theorem putJob_tie (s : State) (j : Job) : (putJob s j).tie = s.tie := rfl

@[simp] theorem dropRequests_pending (s : State) (gone : Nat → Bool) : (dropRequests s gone).pending = s.pending := rfl
@[simp] theorem dropRequests_out (s : State) (gone : Nat → Bool) : (dropRequests s gone).out = s.out := rfl
@[simp] theorem dropRequests_freeCtr (s : State) (gone : Nat → Bool) : (dropRequests s gone).freeCtr = s.freeCtr := rfl
@[simp] theorem dropRequests_cmdStatus (s : State) (gone : Nat → Bool) : (dropRequests s gone).cmdStatus = s.cmdStatus := rfl
@[simp] theorem dropRequests_mer (s : State) (gone : Nat → Bool) : (dropRequests s gone).mer = s.mer := rfl
@[simp] theorem dropRequests_regs (s : State) (gone : Nat → Bool) : (dropRequests s gone).regs = s.regs := rfl
@[simp] theorem dropRequests_pln (s : State) (gone : Nat → Bool) : (dropRequests s gone).pln = s.pln := rfl
@[simp] theorem dropRequests_eng (s : State) (gone : Nat → Bool) : (dropRequests s gone).eng = s.eng := rfl
@[simp] theorem dropRequests_mem (s : State) (gone : Nat → Bool) : (dropRequests s gone).mem = s.mem := rfl
@[simp] theorem dropRequests_fab (s : State) (gone : Nat → Bool) : (dropRequests s gone).fab = s.fab := rfl
@[simp] theorem dropRequests_lanes (s : State) (gone : Nat → Bool) : (dropRequests s gone).lanes = s.lanes := rfl
@[simp] theorem dropRequests_sync (s : State) (gone : Nat → Bool) : (dropRequests s gone).sync = s.sync := rfl
@[simp] theorem dropRequests_ct (s : State) (gone : Nat → Bool) : (dropRequests s gone).ct = s.ct := rfl
@[simp] theorem dropRequests_flt (s : State) (gone : Nat → Bool) : (dropRequests s gone).flt = s.flt := rfl
@[simp] theorem dropRequests_mfg (s : State) (gone : Nat → Bool) : (dropRequests s gone).mfg = s.mfg := rfl
@[simp] theorem dropRequests_owner (s : State) (gone : Nat → Bool) : (dropRequests s gone).owner = s.owner := rfl
@[simp] theorem dropRequests_fw (s : State) (gone : Nat → Bool) : (dropRequests s gone).fw = s.fw := rfl
@[simp] theorem dropRequests_host (s : State) (gone : Nat → Bool) : (dropRequests s gone).host = s.host := rfl
@[simp] theorem dropRequests_pwr (s : State) (gone : Nat → Bool) : (dropRequests s gone).pwr = s.pwr := rfl
@[simp] theorem dropRequests_tie (s : State) (gone : Nat → Bool) : (dropRequests s gone).tie = s.tie := rfl

@[simp] theorem keepFixed_pending (s t : State) : (keepFixed s t).pending = s.pending := rfl
@[simp] theorem keepFixed_out (s t : State) : (keepFixed s t).out = t.out := rfl
@[simp] theorem keepFixed_freeCtr (s t : State) : (keepFixed s t).freeCtr = t.freeCtr := rfl
@[simp] theorem keepFixed_cmdStatus (s t : State) : (keepFixed s t).cmdStatus = t.cmdStatus := rfl
@[simp] theorem keepFixed_mer (s t : State) : (keepFixed s t).mer = t.mer := rfl
@[simp] theorem keepFixed_regs (s t : State) : (keepFixed s t).regs = t.regs := rfl
@[simp] theorem keepFixed_pln (s t : State) : (keepFixed s t).pln = t.pln := rfl
@[simp] theorem keepFixed_eng (s t : State) : (keepFixed s t).eng = t.eng := rfl
@[simp] theorem keepFixed_mem (s t : State) : (keepFixed s t).mem = t.mem := rfl
@[simp] theorem keepFixed_fab (s t : State) : (keepFixed s t).fab = t.fab := rfl
@[simp] theorem keepFixed_lanes (s t : State) : (keepFixed s t).lanes = t.lanes := rfl
@[simp] theorem keepFixed_sync (s t : State) : (keepFixed s t).sync = t.sync := rfl
@[simp] theorem keepFixed_ct (s t : State) : (keepFixed s t).ct = t.ct := rfl
@[simp] theorem keepFixed_flt (s t : State) : (keepFixed s t).flt = t.flt := rfl
@[simp] theorem keepFixed_mfg (s t : State) : (keepFixed s t).mfg = s.mfg := rfl
@[simp] theorem keepFixed_owner (s t : State) : (keepFixed s t).owner = t.owner := rfl
@[simp] theorem keepFixed_fw (s t : State) : (keepFixed s t).fw = t.fw := rfl
@[simp] theorem keepFixed_ctl (s t : State) : (keepFixed s t).ctl = t.ctl := rfl
@[simp] theorem keepFixed_host (s t : State) : (keepFixed s t).host = t.host := rfl
@[simp] theorem keepFixed_pwr (s t : State) : (keepFixed s t).pwr = t.pwr := rfl
@[simp] theorem keepFixed_tie (s t : State) : (keepFixed s t).tie = t.tie := rfl

@[simp] theorem noteWrote_pending (s : State) (key : Nat) : (noteWrote s key).pending = s.pending := rfl
@[simp] theorem noteWrote_out (s : State) (key : Nat) : (noteWrote s key).out = s.out := rfl
@[simp] theorem noteWrote_freeCtr (s : State) (key : Nat) : (noteWrote s key).freeCtr = s.freeCtr := rfl
@[simp] theorem noteWrote_cmdStatus (s : State) (key : Nat) : (noteWrote s key).cmdStatus = s.cmdStatus := rfl
@[simp] theorem noteWrote_mer (s : State) (key : Nat) : (noteWrote s key).mer = s.mer := rfl
@[simp] theorem noteWrote_regs (s : State) (key : Nat) : (noteWrote s key).regs = s.regs := rfl
@[simp] theorem noteWrote_pln (s : State) (key : Nat) : (noteWrote s key).pln = s.pln := rfl
@[simp] theorem noteWrote_eng (s : State) (key : Nat) : (noteWrote s key).eng = s.eng := rfl
@[simp] theorem noteWrote_mem (s : State) (key : Nat) : (noteWrote s key).mem = s.mem := rfl
@[simp] theorem noteWrote_fab (s : State) (key : Nat) : (noteWrote s key).fab = s.fab := rfl
@[simp] theorem noteWrote_lanes (s : State) (key : Nat) : (noteWrote s key).lanes = s.lanes := rfl
@[simp] theorem noteWrote_sync (s : State) (key : Nat) : (noteWrote s key).sync = s.sync := rfl
@[simp] theorem noteWrote_ct (s : State) (key : Nat) : (noteWrote s key).ct = s.ct := rfl
@[simp] theorem noteWrote_flt (s : State) (key : Nat) : (noteWrote s key).flt = s.flt := rfl
@[simp] theorem noteWrote_mfg (s : State) (key : Nat) : (noteWrote s key).mfg = s.mfg := rfl
@[simp] theorem noteWrote_owner (s : State) (key : Nat) : (noteWrote s key).owner = s.owner := rfl
@[simp] theorem noteWrote_fw (s : State) (key : Nat) : (noteWrote s key).fw = s.fw := rfl
@[simp] theorem noteWrote_ctl (s : State) (key : Nat) : (noteWrote s key).ctl = s.ctl := rfl
@[simp] theorem noteWrote_host (s : State) (key : Nat) : (noteWrote s key).host = s.host := rfl
@[simp] theorem noteWrote_pwr (s : State) (key : Nat) : (noteWrote s key).pwr = s.pwr := rfl

@[simp] theorem keepRan_pending (s : State) : (keepRan s).pending = s.pending := rfl
@[simp] theorem keepRan_out (s : State) : (keepRan s).out = s.out := rfl
@[simp] theorem keepRan_freeCtr (s : State) : (keepRan s).freeCtr = s.freeCtr := rfl
@[simp] theorem keepRan_cmdStatus (s : State) : (keepRan s).cmdStatus = s.cmdStatus := rfl
@[simp] theorem keepRan_mer (s : State) : (keepRan s).mer = s.mer := rfl
@[simp] theorem keepRan_regs (s : State) : (keepRan s).regs = s.regs := rfl
@[simp] theorem keepRan_pln (s : State) : (keepRan s).pln = s.pln := rfl
@[simp] theorem keepRan_eng (s : State) : (keepRan s).eng = s.eng := rfl
@[simp] theorem keepRan_mem (s : State) : (keepRan s).mem = s.mem := rfl
@[simp] theorem keepRan_fab (s : State) : (keepRan s).fab = s.fab := rfl
@[simp] theorem keepRan_lanes (s : State) : (keepRan s).lanes = s.lanes := rfl
@[simp] theorem keepRan_sync (s : State) : (keepRan s).sync = s.sync := rfl
@[simp] theorem keepRan_ct (s : State) : (keepRan s).ct = s.ct := rfl
@[simp] theorem keepRan_flt (s : State) : (keepRan s).flt = s.flt := rfl
@[simp] theorem keepRan_mfg (s : State) : (keepRan s).mfg = s.mfg := rfl
@[simp] theorem keepRan_owner (s : State) : (keepRan s).owner = s.owner := rfl
@[simp] theorem keepRan_fw (s : State) : (keepRan s).fw = s.fw := rfl
@[simp] theorem keepRan_ctl (s : State) : (keepRan s).ctl = s.ctl := rfl
@[simp] theorem keepRan_host (s : State) : (keepRan s).host = s.host := rfl
@[simp] theorem keepRan_pwr (s : State) : (keepRan s).pwr = s.pwr := rfl

/-- What a settled command answers. -/
@[simp] theorem settled_next (s t : State) : settled s (.next t) = .next (keepFixed s t) := rfl

theorem whenRuns_runs {s : State} {d : Domain} (h : runs s d = true) (t : State) :
    whenRuns s d (.next t) = .next (keepFixed s t) := by simp [whenRuns, h]

theorem whenRuns_not {s : State} {d : Domain} (h : runs s d = false) (o : Host.Outcome State Fault Refusal) :
    whenRuns s d o = .next s := by simp [whenRuns, h]

theorem whenServes_runs {s : State} {d : Domain} (h : runs s d = true) (t : State) :
    whenServes s d (.next t) = .next (keepFixed s t) := by simp [whenServes, h]

theorem whenServes_not {s : State} {d : Domain} (h : runs s d = false) (o : Host.Outcome State Fault Refusal) :
    whenServes s d o = .next { s with cmdStatus := if s.pwr.phase = .dusk then 2 else 9 } := by simp [whenServes, h]

end Sys2Proof.Machine
end

