-- ==== Sys2Proof/Laws/Frame.lean ====
section
/-! SUPPORT. How the frame terms of Safety.lean compose: nothing changed, one more place changed, one after the other. -/

namespace Sys2Proof.Safety

open Machine

/-! ## Places -/

theorem RegsBut.of_regs {s t : State} (ps : List Place) (h : t.regs = s.regs) : RegsBut ps s t :=
  fun idx page off _ _ _ _ => by rw [getReg_congr h]

theorem RegsBut.refl (ps : List Place) (s : State) : RegsBut ps s s := .of_regs ps rfl

theorem RegsBut.mono {ps qs : List Place} {s t : State} (h : RegsBut ps s t) (hs : ∀ p ∈ ps, p ∈ qs) : RegsBut qs s t :=
  fun idx page off b h1 h2 h3 => h idx page off b h1 h2 fun p hp => h3 p (hs p hp)

theorem RegsBut.trans {ps : List Place} {s t u : State} (h : RegsBut ps s t) (h' : RegsBut ps t u) : RegsBut ps s u :=
  fun idx page off b h1 h2 h3 => (h' idx page off b h1 h2 h3).trans (h idx page off b h1 h2 h3)

/-- In the range of page numbers and offsets a key names one register. -/
theorem regKey_inj {idx page off idx' page' off' : Nat} (hp : page < 65536) (ho : off < 4096) (hp' : page' < 65536)
    (ho' : off' < 4096) (h : regKey idx page off = regKey idx' page' off') : idx = idx' ∧ page = page' ∧ off = off' := by
  unfold regKey at h; omega

/-- A field that is set changes its own bits alone. -/
theorem RegsBut.setFI {ps : List Place} {s t : State} {idx inst n : Nat} {f : Fld} (v : Nat) (h : RegsBut ps s t)
    (hm : Place.mk idx inst n f ∈ ps) (hp : pageOf f.kind inst < 65536) (ho : f.off + 8 * n < 4096) :
    RegsBut ps s (Machine.setFI t idx inst n f v) := by
  intro idx' page off b h1 h2 h3
  rw [← h idx' page off b h1 h2 h3]
  by_cases hk : regKey idx' page off = regKey idx (pageOf f.kind inst) (f.off + 8 * n)
  · obtain ⟨rfl, rfl, rfl⟩ := regKey_inj h1 h2 hp ho hk
    have hc := h3 _ hm
    simp only [Place.covers, true_and] at hc
    simp only [Machine.setFI, getReg_setReg_self, getLsbD_putBits]
    by_cases hb : b < 64
    · have : ¬ (f.lo ≤ b ∧ b - f.lo < f.width) := by omega
      simp [hb, this]
    · have : (getReg t idx' (pageOf f.kind inst) (f.off + 8 * n)).getLsbD b = false := BitVec.getLsbD_of_ge _ b (by omega)
      simp [hb, this]
  · rw [Machine.setFI, getReg_setReg_ne _ _ hk]

theorem RegsBut.setF {ps : List Place} {s t : State} {inst : Nat} {f : Fld} (v : Nat) (h : RegsBut ps s t)
    (hm : place inst f ∈ ps) (hp : pageOf f.kind inst < 65536) (ho : f.off < 4096) : RegsBut ps s (Machine.setF t inst f v) :=
  RegsBut.setFI v h hm hp ho

theorem RegsBut.bump {ps : List Place} {s t : State} {inst : Nat} {f : Fld} (n : Nat) (h : RegsBut ps s t)
    (hm : place inst f ∈ ps) (hp : pageOf f.kind inst < 65536) (ho : f.off < 4096) : RegsBut ps s (Machine.bump t inst f n) := by
  unfold Machine.bump; split
  · exact h
  · exact h.setF _ hm hp ho

theorem RegsBut.setDigest {ps : List Place} {s t : State} {inst : Nat} {f : Fld} (d : Digest) (h : RegsBut ps s t)
    (hm : ∀ p ∈ digestPlaces inst f, p ∈ ps) (hp : pageOf f.kind inst < 65536) (ho : f.off + 48 ≤ 4096) :
    RegsBut ps s (Machine.setDigest t inst f d) := by
  have step : ∀ (l : List Nat) (u : State), (∀ n ∈ l, n < 6) → RegsBut ps s u →
      RegsBut ps s (l.foldl (fun s n => Machine.setFI s 0 inst n f ((d.toNat >>> (64 * n)) % 2 ^ 64)) u) := by
    intro l
    induction l with
    | nil => intro u _ hu; exact hu
    | cons n l ih =>
      intro u hl hu
      have hn := hl n (List.mem_cons_self ..)
      refine ih _ (fun k hk => hl k (List.mem_cons_of_mem _ hk)) (hu.setFI _ (hm _ ?_) hp (by omega))
      exact List.mem_map.2 ⟨n, List.mem_range.2 hn, rfl⟩
  exact step _ t (fun n hn => List.mem_range.1 hn) h

theorem RegsBut.congr {ps : List Place} {s t u : State} (h : RegsBut ps s t) (hr : u.regs = t.regs) : RegsBut ps s u :=
  h.trans (.of_regs ps hr)

/-- A field that no changed place touches reads as before. -/
theorem RegsBut.getFI {ps : List Place} {s t : State} (h : RegsBut ps s t) {idx inst n : Nat} {f : Fld}
    (hp : pageOf f.kind inst < 65536) (ho : f.off + 8 * n < 4096)
    (hd : ∀ p ∈ ps, ∀ b, f.lo ≤ b → b < f.lo + f.width → ¬ p.covers idx (pageOf f.kind inst) (f.off + 8 * n) b) :
    getFI t idx inst n f = getFI s idx inst n f := by
  apply Nat.eq_of_testBit_eq
  intro i
  simp only [Machine.getFI, testBit_bits]
  by_cases hi : i < f.width
  · rw [h idx _ _ (f.lo + i) hp ho fun p hp' => hd p hp' _ (by omega) (by omega)]
  · simp [hi]

/-! ## Pages -/

theorem PagesBut.of_regs {s t : State} (ks : List Nat) (h : t.regs = s.regs) : PagesBut ks s t :=
  fun idx page off _ _ _ => getReg_congr h idx page off

theorem PagesBut.refl (ks : List Nat) (s : State) : PagesBut ks s s := .of_regs ks rfl

theorem PagesBut.trans {ks : List Nat} {s t u : State} (h : PagesBut ks s t) (h' : PagesBut ks t u) : PagesBut ks s u :=
  fun idx page off h1 h2 h3 => (h' idx page off h1 h2 h3).trans (h idx page off h1 h2 h3)

theorem PagesBut.congr {ks : List Nat} {s t u : State} (h : PagesBut ks s t) (hr : u.regs = t.regs) : PagesBut ks s u :=
  h.trans (.of_regs ks hr)

theorem PagesBut.setReg {ks : List Nat} {s t : State} {idx page off : Nat} (v : Word) (h : PagesBut ks s t)
    (hk : pageKind page ∈ ks) (hp : page < 65536) (ho : off < 4096) : PagesBut ks s (Machine.setReg t idx page off v) := by
  intro idx' page' off' h1 h2 h3
  rw [getReg_setReg_ne _ _ ?_, h idx' page' off' h1 h2 h3]
  intro hk'
  obtain ⟨-, rfl, -⟩ := regKey_inj h1 h2 hp ho hk'
  exact h3 hk

/-! ## Parts -/

theorem Frame.refl (c : List Part) (s : State) : Frame c s s := fun p _ => by cases p <;> rfl

theorem Frame.trans {c : List Part} {s t u : State} (h : Frame c s t) (h' : Frame c t u) : Frame c s u := fun p hp => by
  have a := h p hp
  have b := h' p hp
  cases p <;> exact Eq.trans b a

theorem Frame.mono {c d : List Part} {s t : State} (h : Frame c s t) (hc : ∀ p ∈ c, p ∈ d) : Frame d s t :=
  fun p hp => h p fun hp' => hp (hc p hp')

theorem Frame.of_same {c : List Part} {s t : State} (h : ∀ p : Part, p.same s t ∨ p ∈ c) : Frame c s t :=
  fun p hp => (h p).resolve_right hp

/-! ## Parts and pages together -/

/-- A change that touches the named parts alone, and of the registers those of the named page kinds alone. -/
def Touches (c : List Part) (ks : List Nat) (s t : State) : Prop := Frame c s t ∧ PagesBut ks s t

namespace Touches

variable {c : List Part} {ks : List Nat} {s t : State}

theorem refl (c : List Part) (ks : List Nat) (s : State) : Touches c ks s s := ⟨.refl c s, .refl ks s⟩

theorem trans {u : State} (h : Touches c ks s t) (h' : Touches c ks t u) : Touches c ks s u :=
  ⟨h.1.trans h'.1, h.2.trans h'.2⟩

theorem mono {d : List Part} {ls : List Nat} (h : Touches c ks s t) (hc : ∀ p ∈ c, p ∈ d) (hk : ∀ k ∈ ks, k ∈ ls) :
    Touches d ls s t :=
  ⟨h.1.mono hc, fun idx page off h1 h2 h3 => h.2 idx page off h1 h2 fun hp => h3 (hk _ hp)⟩

/-- An update that leaves the registers alone. -/
theorem upd {u : State} (h : Touches c ks s t) (hf : Frame c t u) (hr : u.regs = t.regs) : Touches c ks s u :=
  h.trans ⟨hf, .of_regs ks hr⟩

/-- A choice between two states. -/
theorem iff_then {p : Prop} [Decidable p] {a b : State} (ha : Touches c ks s a) (hb : Touches c ks s b) :
    Touches c ks s (if p then a else b) := by split <;> assumption

theorem foldl {α : Type} {f : State → α → State} (l : List α) (hf : ∀ u a, Touches c ks s u → Touches c ks s (f u a))
    (h : Touches c ks s t) : Touches c ks s (l.foldl f t) := by
  induction l generalizing t with
  | nil => exact h
  | cons a l ih => exact ih (hf _ _ h)

theorem setReg {idx page off : Nat} (v : Word) (h : Touches c ks s t) (hm : .regs ∈ c) (hk : pageKind page ∈ ks)
    (hp : page < 65536) (ho : off < 4096) : Touches c ks s (Machine.setReg t idx page off v) := by
  refine ⟨h.1.trans fun p hp' => ?_, h.2.setReg v hk hp ho⟩
  cases p <;> first | rfl | exact absurd hm hp'

/-- The kind of a field's page, its instance below 256. -/
theorem kind_page {f : Fld} {inst : Nat} (hi : inst < 256) : pageKind (pageOf f.kind inst) = f.kind := by
  unfold pageKind pageOf; omega

theorem setFI {idx inst n : Nat} {f : Fld} (v : Nat) (h : Touches c ks s t) (hm : .regs ∈ c) (hk : f.kind ∈ ks)
    (hf : f.kind < 256) (hi : inst < 256) (ho : f.off + 8 * n < 4096) : Touches c ks s (Machine.setFI t idx inst n f v) :=
  h.setReg _ hm (by rwa [kind_page hi]) (by unfold pageOf; omega) ho

theorem setF {inst : Nat} {f : Fld} (v : Nat) (h : Touches c ks s t) (hm : .regs ∈ c) (hk : f.kind ∈ ks)
    (hf : f.kind < 256) (hi : inst < 256) (ho : f.off < 4096) : Touches c ks s (Machine.setF t inst f v) :=
  h.setFI v hm hk hf hi ho

theorem bump {inst : Nat} {f : Fld} (n : Nat) (h : Touches c ks s t) (hm : .regs ∈ c) (hk : f.kind ∈ ks)
    (hf : f.kind < 256) (hi : inst < 256) (ho : f.off < 4096) : Touches c ks s (Machine.bump t inst f n) := by
  unfold Machine.bump; split
  · exact h
  · exact h.setF _ hm hk hf hi ho

theorem setDigest {inst : Nat} {f : Fld} (d : Digest) (h : Touches c ks s t) (hm : .regs ∈ c) (hk : f.kind ∈ ks)
    (hf : f.kind < 256) (hi : inst < 256) (ho : f.off + 48 ≤ 4096) : Touches c ks s (Machine.setDigest t inst f d) := by
  have step : ∀ (l : List Nat) (u : State), (∀ n ∈ l, n < 6) → Touches c ks s u →
      Touches c ks s (l.foldl (fun s n => Machine.setFI s 0 inst n f ((d.toNat >>> (64 * n)) % 2 ^ 64)) u) := by
    intro l
    induction l with
    | nil => intro u _ hu; exact hu
    | cons n l ih =>
      intro u hl hu
      have hn := hl n (List.mem_cons_self ..)
      exact ih _ (fun k hk => hl k (List.mem_cons_of_mem _ hk)) (hu.setFI _ hm hk hf hi (by omega))
  exact step _ t (fun n hn => List.mem_range.1 hn) h

theorem emit (o : Out) (h : Touches c ks s t) (hm : .out ∈ c) : Touches c ks s (Machine.emit t o) :=
  h.upd (fun p hp => by cases p <;> first | rfl | exact absurd hm hp) rfl

theorem enqueueFault (m : FaultMsg) (h : Touches c ks s t) (hr : .regs ∈ c) (hm : .flt ∈ c) (hk : 0x13 ∈ ks) :
    Touches c ks s (Machine.enqueueFault t m) := by
  have hu : ∀ f : FaultCol, Touches c ks s { t with flt := f } := fun f =>
    h.upd (fun p hp => by cases p <;> first | rfl | exact absurd hm hp) rfl
  unfold Machine.enqueueFault; dsimp only; split
  · exact hu _
  · split
    · exact hu _
    · exact h.bump _ hr (by exact hk) (by decide) (by decide) (by decide)

theorem fault (kind page sub node addr detail : Nat) (h : Touches c ks s t) (hr : .regs ∈ c) (hm : .flt ∈ c) (hk : 0x13 ∈ ks) :
    Touches c ks s (Machine.fault t kind page sub node addr detail) := h.enqueueFault _ hr hm hk

theorem reportFrom (cause source : Nat) (h : Touches c ks s t) (hm : .pln ∈ c) :
    Touches c ks s (Machine.reportFrom t cause source) := by
  have hu : ∀ q : Sequencer, Touches c ks s { t with pln := q } := fun q =>
    h.upd (fun p hp => by cases p <;> first | rfl | exact absurd hm hp) rfl
  unfold Machine.reportFrom; split
  · dsimp only; split <;> exact hu _
  · exact h

theorem report (cause : Nat) (h : Touches c ks s t) (hm : .pln ∈ c) : Touches c ks s (Machine.report t cause) :=
  h.reportFrom _ _ hm

theorem addLoss (l : Loss) (h : Touches c ks s t) (hm : .pln ∈ c) : Touches c ks s (Machine.addLoss t l) := by
  have hu : ∀ q : Sequencer, Touches c ks s { t with pln := q } := fun q =>
    h.upd (fun p hp => by cases p <;> first | rfl | exact absurd hm hp) rfl
  unfold Machine.addLoss; split
  · exact h
  · split <;> exact hu _

theorem keepFixed (h : Touches c ks s t) : Touches c ks s (Machine.keepFixed s t) := by
  refine ⟨fun p hp => ?_, h.2.congr rfl⟩
  have := h.1 p hp
  cases p <;> first | exact this | rfl

/-- A field of a page that no change touches reads as before. -/
theorem getFI {idx inst n : Nat} {f : Fld} (h : Touches c ks s t) (hk : f.kind ∉ ks) (hf : f.kind < 256) (hi : inst < 256)
    (ho : f.off + 8 * n < 4096) : Machine.getFI t idx inst n f = Machine.getFI s idx inst n f := by
  unfold Machine.getFI
  rw [h.2 idx _ _ (by unfold pageOf; omega) ho (by rwa [kind_page hi])]

theorem getF {inst : Nat} {f : Fld} (h : Touches c ks s t) (hk : f.kind ∉ ks) (hf : f.kind < 256) (hi : inst < 256)
    (ho : f.off < 4096) : Machine.getF t inst f = Machine.getF s inst f := h.getFI hk hf hi ho

end Touches

end Sys2Proof.Safety
end

