-- ==== Sys2Proof/Laws/Memory.lean ====
section
/-! SUPPORT. What the memory operations do: reads after writes, and the canonical form of HBM. -/

namespace Sys2Proof.Machine

open Safety

theorem physOf_congr {s t : State} (hr : t.regs = s.regs) (hm : t.mfg = s.mfg) (a : Nat) : physOf t a = physOf s a := by
  unfold physOf; rw [getF_congr hr, hm]

theorem covers_congr {s t : State} (hr : t.regs = s.regs) (hm : t.mfg = s.mfg) (u : Undef) (a : Nat) :
    Undef.covers t u a = Undef.covers s u a := by
  unfold Undef.covers; rw [physOf_congr hr hm]

theorem memDefault_congr {s t : State} (hr : t.regs = s.regs) (hm : t.mfg = s.mfg) (hu : t.mem.undef = s.mem.undef) (a : Nat) :
    memDefault t a = memDefault s a := by
  unfold memDefault; rw [hu]; simp only [covers_congr hr hm]

/-- A state with the same registers, grade and memory reads the same bytes. -/
theorem rawByte_congr {s t : State} (hr : t.regs = s.regs) (hm : t.mfg = s.mfg) (h : t.mem = s.mem) (a : Nat) :
    rawByte t a = rawByte s a := by
  unfold rawByte; rw [h, memDefault_congr hr hm (by rw [h])]

@[simp] theorem memDefault_putByte (s : State) (a : Nat) (b : Byte) (c : Nat) : memDefault (putByte s a b) c = memDefault s c :=
  memDefault_congr rfl rfl rfl c

/-- A byte reads as it was stored. -/
theorem rawByte_putByte_self (s : State) (a : Nat) (b : Byte) : rawByte (putByte s a b) a = b := by
  have h := kvGet_kvSet_self (memDefault s a) s.mem.hbm a b
  unfold rawByte; rw [memDefault_putByte]
  simp only [putByte] at *
  cases hk : kvGet (kvSet (memDefault s a) s.mem.hbm a b) a <;> simp_all

/-- Every other byte reads as before. -/
theorem rawByte_putByte_ne (s : State) {a c : Nat} (b : Byte) (h : c ≠ a) : rawByte (putByte s a b) c = rawByte s c := by
  unfold rawByte; rw [memDefault_putByte]
  have : kvGet (putByte s a b).mem.hbm c = kvGet s.mem.hbm c := kvGet_kvSet_ne b h
  rw [this]

/-- Bytes outside a store read as before. -/
theorem rawByte_putBytes_out (s : State) (a : Nat) (bs : List Byte) (c : Nat) (h : ¬ (a ≤ c ∧ c < a + bs.length)) :
    rawByte (putBytes s a bs) c = rawByte s c := by
  induction bs generalizing s a with
  | nil => rfl
  | cons b bs ih =>
    simp only [List.length_cons] at h
    rw [putBytes, ih _ _ (by omega), rawByte_putByte_ne _ _ (by omega)]

/-- The bytes of a store read as they were stored. -/
theorem rawByte_putBytes_in (s : State) (a : Nat) (bs : List Byte) (i : Nat) (h : i < bs.length) :
    rawByte (putBytes s a bs) (a + i) = bs[i] := by
  induction bs generalizing s a i with
  | nil => exact absurd h (Nat.not_lt_zero i)
  | cons b bs ih =>
    rw [putBytes]
    cases i with
    | zero => rw [rawByte_putBytes_out _ _ _ _ (by omega)]; exact rawByte_putByte_self s a b
    | succ i =>
      have := ih (putByte s a b) (a + 1) i (by simpa using h)
      rw [show a + (i + 1) = a + 1 + i by omega, this]; rfl

/-! ## The canonical form -/

theorem wf_iff (s : State) : Memory.wf s = true ↔
    keysRise none s.mem.hbm = true ∧ ∀ c ∈ s.mem.hbm, c.2 ≠ memDefault s c.1 := by
  simp [Memory.wf, List.all_eq_true]

/-- The canonical form speaks of the registers, the grade and the memory alone. -/
theorem wf_congr {s t : State} (hr : t.regs = s.regs) (hm : t.mfg = s.mfg) (h : t.mem = s.mem) : Memory.wf t = Memory.wf s := by
  unfold Memory.wf; rw [h]; simp only [memDefault_congr hr hm (by rw [h])]

theorem wf_reset : Memory.wf State.reset = true := by decide

theorem mem_kvSet {α : Type} [DecidableEq α] {d : α} {l : List (Nat × α)} {q : Nat} {w : α} {c : Nat × α} (h : c ∈ kvSet d l q w) :
    (c = (q, w) ∧ w ≠ d) ∨ c ∈ l := by
  unfold kvSet at h
  split at h
  · exact .inr (mem_kvDel.1 h).1
  · rename_i hw; exact (mem_kvPut h).imp_left fun e => ⟨e, hw⟩

theorem keysRise_kvSet {α : Type} [DecidableEq α] (d : α) {l : List (Nat × α)} (q : Nat) (w : α) (h : keysRise none l = true) :
    keysRise none (kvSet d l q w) = true := by
  unfold kvSet; split
  · exact keysRise_kvDel q h
  · exact keysRise_kvPut q w h

theorem wf_putByte {s : State} (a : Nat) (b : Byte) (h : Memory.wf s = true) : Memory.wf (putByte s a b) = true := by
  obtain ⟨h1, h2⟩ := (wf_iff s).1 h
  refine (wf_iff _).2 ⟨keysRise_kvSet _ _ _ h1, fun c hc => ?_⟩
  rw [memDefault_putByte]
  rcases mem_kvSet hc with ⟨rfl, hne⟩ | hc
  · exact hne
  · exact h2 c hc

theorem wf_putBytes {s : State} (a : Nat) (bs : List Byte) (h : Memory.wf s = true) : Memory.wf (putBytes s a bs) = true := by
  induction bs generalizing s a with
  | nil => exact h
  | cons b bs ih => exact ih _ (wf_putByte a b h)

theorem wf_makeUndef {s : State} (base len : Nat) (onlyPc : Option (Nat × Nat × Nat)) (h : Memory.wf s = true) :
    Memory.wf (makeUndef s base len onlyPc) = true := by
  obtain ⟨h1, h2⟩ := (wf_iff s).1 h
  unfold makeUndef; split
  · exact h
  · refine (wf_iff _).2 ⟨keysRise_filter _ h1, fun c hc => ?_⟩
    have hc := List.mem_filter.1 hc
    have hn : Undef.covers s ⟨base, len, onlyPc, s.mem.epoch⟩ c.1 = false := by
      have h3 : (!(Undef.covers s ⟨base, len, onlyPc, 0⟩ c.1)) = true := hc.2
      exact Bool.not_eq_true' _ ▸ h3
    have : memDefault { s with mem := { s.mem with
        hbm := dropRange s base len onlyPc, undef := ⟨base, len, onlyPc, s.mem.epoch⟩ :: s.mem.undef, epoch := s.mem.epoch + 1 } } c.1 =
        memDefault s c.1 := by
      unfold memDefault
      simp only [List.find?_cons]
      rw [show Undef.covers { s with mem := { s.mem with
        hbm := dropRange s base len onlyPc, undef := ⟨base, len, onlyPc, s.mem.epoch⟩ :: s.mem.undef, epoch := s.mem.epoch + 1 } }
        ⟨base, len, onlyPc, s.mem.epoch⟩ c.1 = false from hn]
      rfl
    rw [this]; exact h2 c hc.1

theorem wf_clearUe {s : State} (b : Nat) (h : Memory.wf s = true) : Memory.wf (clearUe s b) = true := by
  obtain ⟨h1, h2⟩ := (wf_iff s).1 h
  refine (wf_iff _).2 ⟨h1, fun c hc => ?_⟩
  rw [memDefault_congr (s := s) (t := clearUe s b) rfl rfl rfl]; exact h2 c hc

theorem stack_lt (a wn S : Nat) (h1 : 0 < S) (h5 : S ≤ 5) (x y : Phys)
    (hx : x.stack = 5 * (a / wn) + (a - a / wn * wn) / 256 % S) (hy : y.stack = 5 * ((a - 4 * wn) / 256 % 4) + (a - 4 * wn) / 256 / 4 % S) :
    (if a < 4 * wn then x else y).stack < 256 := by
  split
  · rename_i h
    have hk : a / wn < 4 := by
      rcases Nat.eq_zero_or_pos wn with h0 | h0
      · omega
      · exact Nat.div_lt_of_lt_mul (by rw [Nat.mul_comm]; exact h)
    have := Nat.mod_lt ((a - a / wn * wn) / 256) h1
    omega
  · have := Nat.mod_lt (((a - 4 * wn) / 256) / 4) h1
    omega

theorem stacksPerDie_pos (g : Nat) : 0 < Config.stacksPerDie g ∧ Config.stacksPerDie g ≤ 5 := by
  unfold Config.stacksPerDie; split <;> simp

/-- The stack of a line names one of the stack pages. -/
theorem physOf_stack_lt (s : State) (a : Nat) : (physOf s a).stack < 256 :=
  stack_lt a _ _ (stacksPerDie_pos s.mfg.grade).1 (stacksPerDie_pos s.mfg.grade).2 _ _ rfl rfl

/-- A relocated line stays in its stack (08 R276). -/
theorem movedTo_stack {s : State} {p q : Phys} (h : movedTo s p = some q) : q.stack = p.stack := by
  unfold movedTo at h
  split at h
  · split at h
    · obtain ⟨t, _, rfl⟩ := Option.map_eq_some_iff.1 h; rfl
    · cases h
  · cases h

theorem locOf_stack (s : State) (a : Nat) : (locOf s a).stack = (physOf s a).stack := by
  unfold locOf
  generalize physOf s a = p
  cases h : movedTo s p with
  | none => rw [Option.getD_none]
  | some q => rw [Option.getD_some, movedTo_stack h]

theorem locOf_stack_lt (s : State) (a : Nat) : (locOf s a).stack < 256 := locOf_stack s a ▸ physOf_stack_lt s a

theorem locThen_stack_lt (s : State) (a : Nat) : (locThen s a).stack < 256 := locOf_stack_lt _ a

end Sys2Proof.Machine

namespace Sys2Proof.Safety.Touches

open Machine

variable {c : List Part} {ks : List Nat} {s t : State}

theorem logUe (a : Nat) (copy : Bool) (h : Touches c ks s t) (hr : .regs ∈ c) (hk : 8 ∈ ks) :
    Touches c ks s (Machine.logUe t a copy) := h.setReg _ hr hk (by decide) (by decide)

/-- An uncorrectable read touches the memory pages, the lost-message counter and the queue of fault messages. -/
theorem memUe (a : Nat) (h : Touches c ks s t) (hr : .regs ∈ c) (hf : .flt ∈ c) (h8 : 8 ∈ ks) (h9 : 9 ∈ ks) (h13 : 0x13 ∈ ks) :
    Touches c ks s (Machine.memUe t a) := by
  unfold Machine.memUe
  have hs := locThen_stack_lt t a
  generalize locThen t a = p at hs
  exact (((h.bump 1 hr h8 (by decide) (by decide) (by decide)).bump 1 hr h9 (by decide) hs (by decide)).logUe a false hr h8).fault
    _ _ _ _ _ _ hr hf h13

end Sys2Proof.Safety.Touches
end

