-- ==== Sys2Proof/Laws/Canonical.lean ====
section
/-! SUPPORT. Every memory operation keeps the canonical form of HBM. -/

namespace Sys2Proof.Machine

open Safety

/-- NEAR_UNITS, on which the place of an undefined line depends. -/
theorem physOf_near {s t : State} (hn : getF t 0 Reg.memSplit_nearUnits = getF s 0 Reg.memSplit_nearUnits) (hm : t.mfg = s.mfg)
    (a : Nat) : physOf t a = physOf s a := by
  unfold physOf; rw [hn, hm]

theorem covers_near {s t : State} (hn : getF t 0 Reg.memSplit_nearUnits = getF s 0 Reg.memSplit_nearUnits) (hm : t.mfg = s.mfg)
    (u : Undef) (a : Nat) : Undef.covers t u a = Undef.covers s u a := by
  unfold Undef.covers; rw [physOf_near hn hm]

/-- A state whose HBM, undefined ranges, split and grade are those of another. -/
structure SameHbm (s t : State) : Prop where
  hbm : t.mem.hbm = s.mem.hbm
  undef : t.mem.undef = s.mem.undef
  near : getF t 0 Reg.memSplit_nearUnits = getF s 0 Reg.memSplit_nearUnits
  mfg : t.mfg = s.mfg

theorem SameHbm.refl (s : State) : SameHbm s s := ⟨rfl, rfl, rfl, rfl⟩

theorem SameHbm.trans {s t u : State} (h : SameHbm s t) (h' : SameHbm t u) : SameHbm s u :=
  ⟨h'.hbm.trans h.hbm, h'.undef.trans h.undef, h'.near.trans h.near, h'.mfg.trans h.mfg⟩

theorem SameHbm.memDefault {s t : State} (h : SameHbm s t) (a : Nat) : memDefault t a = Machine.memDefault s a := by
  unfold Machine.memDefault; rw [h.undef]; simp only [covers_near h.near h.mfg]

theorem SameHbm.wf {s t : State} (h : SameHbm s t) (hw : Memory.wf s = true) : Memory.wf t = true := by
  obtain ⟨h1, h2⟩ := (wf_iff s).1 hw
  exact (wf_iff t).2 ⟨h.hbm ▸ h1, fun c hc => by rw [h.memDefault]; exact h2 c (h.hbm ▸ hc)⟩

/-- A register beside MEM_SPLIT does not move any byte. -/
theorem SameHbm.setReg {s t : State} {idx page off : Nat} (v : Word) (h : SameHbm s t)
    (hk : regKey 0 (pageOf 8 0) 0x100 ≠ regKey idx page off) : SameHbm s (Machine.setReg t idx page off v) :=
  ⟨h.hbm, h.undef, by rw [← h.near]; unfold getF getFI; exact congrArg (bits · _ _) (getReg_setReg_ne t v hk), h.mfg⟩

theorem SameHbm.setF {s t : State} {inst : Nat} {f : Fld} (v : Nat) (h : SameHbm s t)
    (hk : regKey 0 (pageOf 8 0) 0x100 ≠ regKey 0 (pageOf f.kind inst) (f.off + 8 * 0)) : SameHbm s (Machine.setF t inst f v) :=
  h.setReg _ hk

theorem SameHbm.bump {s t : State} {inst : Nat} {f : Fld} (n : Nat) (h : SameHbm s t)
    (hk : regKey 0 (pageOf 8 0) 0x100 ≠ regKey 0 (pageOf f.kind inst) (f.off + 8 * 0)) : SameHbm s (Machine.bump t inst f n) := by
  unfold Machine.bump; split
  · exact h
  · exact h.setF _ hk

theorem SameHbm.fault {s t : State} (kind page sub node addr detail : Nat) (h : SameHbm s t) :
    SameHbm s (Machine.fault t kind page sub node addr detail) := by
  unfold Machine.fault Machine.enqueueFault
  dsimp only
  split
  · exact ⟨h.hbm, h.undef, h.near, h.mfg⟩
  · split
    · exact ⟨h.hbm, h.undef, h.near, h.mfg⟩
    · exact h.bump _ (by decide)

theorem SameHbm.report {s t : State} (cause : Nat) (h : SameHbm s t) : SameHbm s (Machine.report t cause) := by
  unfold Machine.report Machine.reportFrom
  dsimp only
  split
  · split <;> exact ⟨h.hbm, h.undef, h.near, h.mfg⟩
  · exact h

/-- An uncorrectable read moves no byte. -/
theorem SameHbm.memUe {s t : State} (a : Nat) (h : SameHbm s t) : SameHbm s (Machine.memUe t a) := by
  unfold Machine.memUe logUe
  generalize locThen t a = p
  have h1 : SameHbm s (Machine.bump t 0 Reg.memCntUe) := h.bump 1 (by simp [regKey, pageOf, Reg.memCntUe])
  have h2 := h1.bump (inst := p.stack) (f := Reg.memStkCntUe) 1 (by simp only [regKey, pageOf, Reg.memStkCntUe]; omega)
  exact (h2.setReg _ (by simp [regKey, pageOf])).fault _ _ _ _ _ _

/-! ## Writes -/

theorem SameHbm.freshBurst {s t : State} (a : Nat) (h : SameHbm s t) : SameHbm s (Machine.freshBurst t a) := by
  unfold Machine.freshBurst; split
  · exact h
  · exact ⟨h.hbm, h.undef, h.near, h.mfg⟩

theorem wf_freshBurst {s : State} (a : Nat) (h : Memory.wf s = true) : Memory.wf (freshBurst s a) = true :=
  ((SameHbm.refl s).freshBurst a).wf h

theorem wf_writeBurst {s : State} (a : Nat) (bs : List Byte) (h : Memory.wf s = true) : Memory.wf (writeBurst s a bs).1 = true := by
  unfold writeBurst
  split
  · split
    · exact h
    · exact ((SameHbm.refl s).memUe a).wf h
  · split
    · split
      · exact wf_freshBurst _ (wf_putBytes _ _ (wf_clearUe _ h))
      · exact ((SameHbm.refl s).memUe a).wf h
    · exact wf_freshBurst _ (wf_putBytes _ _ h)

theorem wf_overStage {s : State} (a : Nat) (bs : List Byte) (h : Memory.wf s = true) : Memory.wf (overStage s a bs) = true :=
  SameHbm.wf (s := s) ⟨rfl, rfl, rfl, rfl⟩ h

theorem wf_writeChecked {s : State} (a : Nat) (bs : List Byte) (h : Memory.wf s = true) :
    Memory.wf (writeChecked s a bs).1 = true := by
  unfold writeChecked
  have : ∀ (l : List (Nat × List Byte)) (r : State × List Nat), Memory.wf r.1 = true →
      Memory.wf (l.foldl (fun r p =>
        if inStage r.1 p.1 p.2.length then r
        else
          let w := writeBurst r.1 p.1 p.2
          (w.1, r.2 ++ w.2.toList)) r).1 = true := by
    intro l
    induction l with
    | nil => exact fun _ h => h
    | cons p l ih =>
      intro r h
      refine ih _ ?_
      dsimp only
      split
      · exact h
      · exact wf_writeBurst p.1 p.2 h
  exact this _ (overStage s a bs, []) (wf_overStage a bs h)

theorem wf_writeVoid {s : State} (a : Nat) (bs : List Byte) (h : Memory.wf s = true) : Memory.wf (writeVoid s a bs) = true := by
  unfold writeVoid
  dsimp only
  split
  · exact wf_writeChecked a bs h
  · exact ((SameHbm.refl _).report 4).wf (wf_writeChecked a bs h)

theorem wf_drainWord {s : State} (kw : Nat × Word) (h : Memory.wf s = true) : Memory.wf (drainWord s kw) = true := by
  unfold drainWord
  split
  · exact wf_writeBurst _ _ (SameHbm.wf (s := s) ⟨rfl, rfl, rfl, rfl⟩ h)
  · exact h

theorem wf_drainStage {s : State} (h : Memory.wf s = true) : Memory.wf (drainStage s) = true := by
  have : ∀ (l : List (Nat × Word)) (s : State), Memory.wf s = true → Memory.wf (l.foldl drainWord s) = true := by
    intro l
    induction l with
    | nil => exact fun _ h => h
    | cons p l ih => exact fun s h => ih _ (wf_drainWord p h)
  exact SameHbm.wf (s := s.eng.stage.foldl drainWord s) ⟨rfl, rfl, rfl, rfl⟩ (this _ _ h)

theorem wf_cutStage {s : State} (h : Memory.wf s = true) : Memory.wf (cutStage s) = true := by
  have : ∀ (l : List (Nat × Word)) (s : State), Memory.wf s = true → Memory.wf (l.foldl (fun s kw =>
      let d := drawBool s
      if d.1 then drainWord d.2 kw
      else
        let t := d.2
        { t with eng := { t.eng with stage := kvDel t.eng.stage kw.1 } }) s) = true := by
    intro l
    induction l with
    | nil => exact fun _ h => h
    | cons p l ih =>
      intro s h
      refine ih _ ?_
      dsimp only
      split
      · exact wf_drainWord p (SameHbm.wf (s := s) ⟨rfl, rfl, rfl, rfl⟩ h)
      · exact SameHbm.wf (s := s) ⟨rfl, rfl, rfl, rfl⟩ h
  exact this _ _ h

/-! ## Contents lost as a whole -/

/-- With no byte listed the form holds. -/
theorem wf_nil {s : State} (h : s.mem.hbm = []) : Memory.wf s = true := (wf_iff s).2 ⟨by rw [h]; rfl, by rw [h]; simp⟩

theorem wf_forgetAll (s : State) : Memory.wf (forgetAll s) = true := wf_nil rfl

/-- A power-on scrubs every byte. -/
theorem wf_scrubAll (s : State) : Memory.wf (scrubOutside s []) = true := wf_nil (by simp [scrubOutside, inRanges])

/-- A piece of an undefined range in a range that holds the byte covers it as the range does. -/
theorem covers_within (s : State) (u v : Undef) (r : Nat × Nat) (a : Nat) (h : u.within r = some v) :
    Undef.covers s v a = (Undef.covers s u a && decide (r.1 ≤ a ∧ a < r.1 + r.2)) ∧ v.epoch = u.epoch := by
  unfold Undef.within at h
  dsimp only at h
  split at h
  · cases h
    refine ⟨?_, rfl⟩
    simp only [Undef.covers]
    rw [Bool.eq_iff_iff]
    simp only [Bool.and_eq_true, decide_eq_true_eq]
    generalize (match u.onlyPc with
      | none => true
      | some q => decide ((physOf s a).stack = q.1) && decide ((physOf s a).pc = q.2.1) && decide (q.2.2 ≤ (physOf s a).r)) = b
    constructor
    · rintro ⟨⟨h1, h2⟩, h3⟩; exact ⟨⟨⟨by omega, by omega⟩, h3⟩, by omega, by omega⟩
    · rintro ⟨⟨⟨h1, h2⟩, h3⟩, h4, h5⟩; exact ⟨⟨by omega, by omega⟩, h3⟩
  · cases h

theorem within_none (s : State) (u : Undef) (r : Nat × Nat) (a : Nat) (h : u.within r = none) (hr : r.1 ≤ a ∧ a < r.1 + r.2) :
    Undef.covers s u a = false := by
  unfold Undef.within at h
  dsimp only at h
  split at h
  · cases h
  · simp only [Undef.covers, Bool.and_eq_false_iff, decide_eq_false_iff_not]; omega

/-- The first piece that covers a byte is a piece of the first range that covers it. -/
theorem find_pieces (s : State) (l : List (Nat × Nat)) (a : Nat) (ha : inRanges l a = true) (us : List Undef) :
    ((us.flatMap fun u => l.filterMap u.within).find? (Undef.covers s · a)).map (·.epoch) =
      (us.find? (Undef.covers s · a)).map (·.epoch) := by
  induction us with
  | nil => rfl
  | cons u us ih =>
    rw [List.flatMap_cons, List.find?_append, List.find?_cons]
    cases hu : Undef.covers s u a with
    | false =>
      have : (l.filterMap u.within).find? (Undef.covers s · a) = none := by
        rw [List.find?_eq_none]
        intro v hv
        obtain ⟨r, _, h⟩ := List.mem_filterMap.1 hv
        rw [(covers_within s u v r a h).1, hu]; simp
      rw [this]; simpa using ih
    | true =>
      have hs : ((l.filterMap u.within).find? (Undef.covers s · a)).isSome = true := by
        rw [List.find?_isSome]
        obtain ⟨r, hr, h⟩ := List.any_eq_true.1 ha
        simp only [Bool.and_eq_true, decide_eq_true_eq] at h
        cases hw : u.within r with
        | none => rw [within_none s u r a hw h] at hu; cases hu
        | some v =>
          exact ⟨v, List.mem_filterMap.2 ⟨r, hr, hw⟩, by rw [(covers_within s u v r a hw).1, hu]; simpa using h⟩
      obtain ⟨v, hv⟩ := Option.isSome_iff_exists.1 hs
      obtain ⟨r, _, h⟩ := List.mem_filterMap.1 (List.mem_of_find?_eq_some hv)
      rw [hv]; simp [(covers_within s u v r a h).2]

theorem wf_scrubOutside {s : State} (l : List (Nat × Nat)) (h : Memory.wf s = true) : Memory.wf (scrubOutside s l) = true := by
  obtain ⟨h1, h2⟩ := (wf_iff s).1 h
  refine (wf_iff _).2 ⟨keysRise_filter _ h1, fun c hc => ?_⟩
  have hc := List.mem_filter.1 hc
  have hd : memDefault (scrubOutside s l) c.1 = memDefault s c.1 := by
    have hf := find_pieces s l c.1 hc.2 s.mem.undef
    have e : ∀ us : List Undef, us.find? (Undef.covers (scrubOutside s l) · c.1) = us.find? (Undef.covers s · c.1) := by
      intro us; congr 1
    unfold memDefault
    rw [e]
    show (match (s.mem.undef.flatMap fun u => l.filterMap u.within).find? (Undef.covers s · c.1) with
      | some u => Config.freeByte u.epoch c.1 | none => 0) = _
    cases h3 : (s.mem.undef.flatMap fun u => l.filterMap u.within).find? (Undef.covers s · c.1) <;>
      cases h4 : s.mem.undef.find? (Undef.covers s · c.1) <;> simp_all
  rw [hd]; exact h2 c hc.1

/-- What a reset leaves of HBM is in its canonical form. -/
theorem wf_applyRetain {s : State} (h : Memory.wf s = true) : Memory.wf (applyRetain s) = true := by
  unfold applyRetain
  split
  · exact h
  · exact wf_scrubOutside _ h
  · exact wf_scrubOutside _ h

/-- A write of NEAR_UNITS. -/
theorem wf_splitWrite {s : State} (n : Nat) (h : Memory.wf s = true) : Memory.wf (splitWrite s n) = true := by
  unfold splitWrite
  split
  · exact SameHbm.wf (s := s) ⟨rfl, rfl, rfl, rfl⟩ h
  · split
    · exact SameHbm.wf (s := s) ⟨rfl, rfl, rfl, rfl⟩ h
    · split
      · exact SameHbm.wf (s := s) ⟨rfl, rfl, rfl, rfl⟩ h
      · split
        · exact SameHbm.wf (s := s) ⟨rfl, rfl, rfl, rfl⟩ h
        · exact wf_forgetAll _

end Sys2Proof.Machine
end

