-- ==== Sys2Proof/Laws/Ports.lean ====
section
/-! SUPPORT. What the shared operations on links, lanes and neighbours touch. -/

namespace Sys2Proof.Safety

open Machine

theorem portNo_lt (code : Nat) : portNo code < 256 := by unfold portNo; omega

theorem dieOf_lt (code : Nat) : portNo code / 6 < 256 := by unfold portNo; omega

namespace Touches

variable {c : List Part} {ks : List Nat} {s t : State}

theorem showState (p : Nat) (h : Touches c ks s t) (hr : .regs ∈ c) (hk : 0xB ∈ ks) (hp : p < 256) :
    Touches c ks s (Machine.showState t p) := h.setF _ hr hk (by decide) hp (by decide)

theorem setLink (l : Link) (h : Touches c ks s t) (hr : .regs ∈ c) (hl : .lanes ∈ c) (hk : 0xB ∈ ks) :
    Touches c ks s (Machine.setLink t l) := by
  unfold Machine.setLink
  exact showState _ (h.upd (fun p hp => by cases p <;> first | rfl | exact absurd hl hp) rfl) hr hk (portNo_lt _)

theorem setLane {die lane : Nat} {f : Fld} (v : Nat) (h : Touches c ks s t) (hr : .regs ∈ c) (hk : f.kind ∈ ks) (hf : f.kind < 256)
    (hd : die < 256) (ho : f.off < 4096) : Touches c ks s (Machine.setLane t die lane f v) := h.setFI v hr hk hf hd ho

theorem setStages (code v : Nat) (h : Touches c ks s t) (hr : .regs ∈ c) (hk : 0xC ∈ ks) :
    Touches c ks s (Machine.setStages t code v) :=
  foldl _ (fun _ _ hu => hu.setLane _ hr hk (by decide) (dieOf_lt _) (by decide)) h

theorem clearPortLanes (code : Nat) (h : Touches c ks s t) (hl : .lanes ∈ c) : Touches c ks s (Machine.clearPortLanes t code) :=
  h.upd (fun p hp => by cases p <;> first | rfl | exact absurd hl hp) rfl

theorem idlePort (code : Nat) (h : Touches c ks s t) (hl : .lanes ∈ c) : Touches c ks s (Machine.idlePort t code) :=
  foldl _ (fun _ _ hu => hu.upd (fun p hp => by cases p <;> first | rfl | exact absurd hl hp) rfl) h

theorem showNeighbour (p : Nat) (h : Touches c ks s t) (hr : .regs ∈ c) (hb : 0xB ∈ ks) (hp : p < 256) :
    Touches c ks s (Machine.showNeighbour t p) := h.setF _ hr hb (by decide) hp (by decide)

theorem linkDown (code : Nat) (h : Touches c ks s t) (hr : .regs ∈ c) (hl : .lanes ∈ c) (hb : 0xB ∈ ks) (hk : 0xC ∈ ks) :
    Touches c ks s (Machine.linkDown t code) :=
  setStages _ _ ((((h.clearPortLanes code hl).idlePort code hl).setLink _ hr hl hb).showNeighbour _ hr hb (portNo_lt _)) hr hk

theorem losePort (code : Nat) (h : Touches c ks s t) (hp : .pln ∈ c) : Touches c ks s (Machine.losePort t code) := by
  unfold Machine.losePort
  have h1 : Touches c ks s (if stepUses t code then Machine.report t 6 else t) := iff_then (h.report _ hp) h
  exact iff_then (h1.addLoss _ hp) h1

theorem setReason (code r : Nat) (h : Touches c ks s t) (hr : .regs ∈ c) (hl : .lanes ∈ c) (hb : 0xB ∈ ks) :
    Touches c ks s (Machine.setReason t code r) :=
  (h.setLink _ hr hl hb).setF _ hr hb (by decide) (portNo_lt _) (by decide)

theorem quarantine (code r : Nat) (h : Touches c ks s t) (hr : .regs ∈ c) (hl : .lanes ∈ c) (hp : .pln ∈ c) (hb : 0xB ∈ ks) :
    Touches c ks s (Machine.quarantine t code r) := by
  have h1 := (h.setLink { linkOf t code with state := 3 } hr hl hb).setReason code r hr hl hb
  unfold Machine.quarantine
  exact iff_then (iff_then (h1.losePort _ hp) (h1.addLoss _ hp)) h1

theorem admitPort (code : Nat) (h : Touches c ks s t) (hr : .regs ∈ c) (hl : .lanes ∈ c) (hp : .pln ∈ c) (hb : 0xB ∈ ks) :
    Touches c ks s (Machine.admitPort t code) := by
  unfold Machine.admitPort
  exact iff_then (h.setReason _ _ hr hl hb) (iff_then (h.quarantine _ _ hr hl hp hb) ((h.setLink _ hr hl hb).setReason _ _ hr hl hb))

theorem remapPorts (d : Nat) (ports : List Nat) (h : Touches c ks s t) (hr : .regs ∈ c) (hl : .lanes ∈ c) (hb : 0xB ∈ ks) :
    Touches c ks s (Machine.remapPorts t d ports) :=
  foldl _ (fun _ _ hu => (hu.setF _ hr hb (by decide) (portNo_lt _) (by decide)).setF _ hr hb (by decide) (portNo_lt _) (by decide))
    (h.upd (fun p hp => by cases p <;> first | rfl | exact absurd hl hp) rfl)

theorem settlePort (p : Plan) (code : Nat) (h : Touches c ks s t) (hr : .regs ∈ c) (hl : .lanes ∈ c) (hp : .pln ∈ c)
    (hb : 0xB ∈ ks) : Touches c ks s (Machine.settlePort t p code) := by
  unfold Machine.settlePort
  split
  · split
    · exact h.admitPort _ hr hl hp hb
    · exact h.quarantine _ _ hr hl hp hb
  · exact h

theorem swapPort (p : Plan) (code : Nat) (i : Ident) (h : Touches c ks s t) (hr : .regs ∈ c) (hl : .lanes ∈ c) (hp : .pln ∈ c)
    (hb : 0xB ∈ ks) : Touches c ks s (Machine.swapPort t p code i) := by
  unfold Machine.swapPort
  refine iff_then (h.quarantine _ _ hr hl hp hb) (iff_then (iff_then ?_ (h.setReason _ _ hr hl hb)) ?_)
  · exact foldl _ (fun _ _ hu => hu.settlePort _ _ hr hl hp hb) (h.remapPorts _ _ hr hl hb)
  · exact foldl _ (fun _ _ hu => hu.quarantine _ _ hr hl hp hb) h

theorem decidePort (code : Nat) (h : Touches c ks s t) (hr : .regs ∈ c) (hl : .lanes ∈ c) (hp : .pln ∈ c) (hb : 0xB ∈ ks) :
    Touches c ks s (Machine.decidePort t code) := by
  unfold Machine.decidePort
  split
  · split
    · split
      · exact h.admitPort _ hr hl hp hb
      · exact foldl _ (fun _ _ hu => hu.quarantine _ _ hr hl hp hb) (h.quarantine _ _ hr hl hp hb)
      · exact h.swapPort _ _ _ hr hl hp hb
      · exact h.quarantine _ _ hr hl hp hb
    · exact h
  · exact h

/-- A new governing plan or time parent touches the synchronisation and its register. -/
theorem settleTime (h : Touches c ks s t) (hr : .regs ∈ c) (hs : .sync ∈ c) (hd : 0xD ∈ ks) : Touches c ks s (Machine.settleTime t) := by
  unfold Machine.settleTime
  refine iff_then h ?_
  have h1 : Touches c ks s { t with sync := { t.sync with parent := timeParentNode t, set := false, good := 0, heardAt := t.mer } } :=
    h.upd (fun p hp => by cases p <;> first | rfl | exact absurd hs hp) rfl
  exact ((h1.setF 0 hr hd (by decide) (by decide) (by decide)).setF 0 hr hd (by decide) (by decide) (by decide)).setF 0 hr hd (by decide)
    (by decide) (by decide)

/-- Deciding every port anew touches the links, the port pages, the synchronisation and the losses of the plan. -/
theorem recheckPorts (h : Touches c ks s t) (hr : .regs ∈ c) (hl : .lanes ∈ c) (hp : .pln ∈ c) (hs : .sync ∈ c) (hb : 0xB ∈ ks)
    (hd : 0xD ∈ ks) : Touches c ks s (Machine.recheckPorts t) :=
  foldl _ (fun _ _ hu => hu.decidePort _ hr hl hp hb) (h.settleTime hr hs hd)

/-- So does deciding every port but the moved ones. -/
theorem recheckOthers (h : Touches c ks s t) (hr : .regs ∈ c) (hl : .lanes ∈ c) (hp : .pln ∈ c) (hs : .sync ∈ c) (hb : 0xB ∈ ks)
    (hd : 0xD ∈ ks) : Touches c ks s (Machine.recheckOthers t) :=
  foldl _ (fun _ _ hu => hu.decidePort _ hr hl hp hb) (h.settleTime hr hs hd)

end Touches

/-! ## Reports and losses of the plan -/

/-- Of the sequencer at most the reports and the losses differ. -/
def Noted (s t : State) : Prop :=
  t.pln = { s.pln with
    reports := t.pln.reports, nextReports := t.pln.nextReports, losses := t.pln.losses, nextLosses := t.pln.nextLosses }

namespace Noted

variable {s t : State}

theorem of_eq (h : t.pln = s.pln) : Noted s t := by unfold Noted; rw [h]

theorem refl (s : State) : Noted s s := rfl

theorem trans {u : State} (h : Noted s t) (h' : Noted t u) : Noted s u := by
  unfold Noted at *; rw [h', h]

theorem upd {u : State} (h : Noted s t) (e : u.pln = t.pln) : Noted s u := h.trans (.of_eq e)

theorem iff_then {p : Prop} [Decidable p] {a b : State} (ha : Noted s a) (hb : Noted s b) : Noted s (if p then a else b) := by
  split <;> assumption

theorem foldl {α : Type} {f : State → α → State} (l : List α) (hf : ∀ u a, Noted s u → Noted s (f u a)) (h : Noted s t) :
    Noted s (l.foldl f t) := by
  induction l generalizing t with
  | nil => exact h
  | cons a l ih => exact ih (hf _ _ h)

theorem reportFrom (cause source : Nat) (h : Noted s t) : Noted s (Machine.reportFrom t cause source) := by
  refine h.trans ?_
  unfold Machine.reportFrom; split
  · dsimp only; split <;> rfl
  · rfl

theorem report (cause : Nat) (h : Noted s t) : Noted s (Machine.report t cause) := h.reportFrom _ _

theorem addLoss (l : Loss) (h : Noted s t) : Noted s (Machine.addLoss t l) := by
  refine h.trans ?_
  unfold Machine.addLoss; split
  · rfl
  · split <;> rfl

theorem losePort (code : Nat) (h : Noted s t) : Noted s (Machine.losePort t code) := by
  unfold Machine.losePort
  have h1 : Noted s (if stepUses t code then Machine.report t 6 else t) := iff_then (h.report _) h
  exact iff_then (h1.addLoss _) h1

theorem quarantine (code r : Nat) (h : Noted s t) : Noted s (Machine.quarantine t code r) := by
  have h1 : Noted s (Machine.setReason (Machine.setLink t { linkOf t code with state := 3 }) code r) := h.upd rfl
  unfold Machine.quarantine
  exact iff_then (iff_then (h1.losePort _) (h1.addLoss _)) h1

theorem admitPort (code : Nat) (h : Noted s t) : Noted s (Machine.admitPort t code) := by
  unfold Machine.admitPort
  exact iff_then (h.upd rfl) (iff_then (h.quarantine _ _) (h.upd rfl))

theorem settlePort (p : Plan) (code : Nat) (h : Noted s t) : Noted s (Machine.settlePort t p code) := by
  unfold Machine.settlePort
  split
  · split
    · exact h.admitPort _
    · exact h.quarantine _ _
  · exact h

theorem remapPorts (d : Nat) (ports : List Nat) (h : Noted s t) : Noted s (Machine.remapPorts t d ports) :=
  foldl _ (fun _ _ hu => hu.upd rfl) (h.upd rfl)

theorem swapPort (p : Plan) (code : Nat) (i : Ident) (h : Noted s t) : Noted s (Machine.swapPort t p code i) := by
  unfold Machine.swapPort
  refine iff_then (h.quarantine _ _) (iff_then (iff_then ?_ (h.upd rfl)) ?_)
  · exact foldl _ (fun _ _ hu => hu.settlePort _ _) (h.remapPorts _ _)
  · exact foldl _ (fun _ _ hu => hu.quarantine _ _) h

theorem decidePort (code : Nat) (h : Noted s t) : Noted s (Machine.decidePort t code) := by
  unfold Machine.decidePort
  split
  · split
    · split
      · exact h.admitPort _
      · exact foldl _ (fun _ _ hu => hu.quarantine _ _) (h.quarantine _ _)
      · exact h.swapPort _ _ _
      · exact h.quarantine _ _
    · exact h
  · exact h

theorem settleTime (h : Noted s t) : Noted s (Machine.settleTime t) := by
  unfold Machine.settleTime
  exact iff_then h (h.upd rfl)

theorem recheckOthers (h : Noted s t) : Noted s (Machine.recheckOthers t) := foldl _ (fun _ _ hu => hu.decidePort _) h.settleTime

theorem recheckPorts (h : Noted s t) : Noted s (Machine.recheckPorts t) := foldl _ (fun _ _ hu => hu.decidePort _) h.settleTime

end Noted

end Sys2Proof.Safety
end

