-- ==== Sys2Proof/Tests/Slice0.lean ====
section
/-! SUPPORT. The model's own tests: a command that is not well-formed for each check, the states that meet the hypotheses of the
statements, and results that the manual gives. -/

namespace Sys2Proof.Tests

open Machine Safety

set_option Elab.async false

/-! ## Small states -/

/-- The device right after reset with the owner record of node 1. -/
def dev : State := { State.reset with owner := some ⟨1, 1, false, 0, [], []⟩ }

/-- A step of 100,000 ticks that the plan retries twice, and whose outcome window is 8192 ticks long. -/
def stepOf (n : Nat) : StepRec := ⟨n, 0, 2, false, true, 100000, 100000, 100000, 8192, 1000, 0⟩

/-- An OCD of FP32. -/
def ocd : Ocd := ⟨2, 0, 0, false, 0x3F800000, 0, 0, 0⟩

/-- Step 0 has a reduction record on unit 0x001, a barrier record on barrier unit 0 and a pool record on unit 0x002. -/
def tables : List SlotTable :=
  [⟨0x60000001, 100000, 7, 0, 0, [⟨1000, 100, 0xB, 0, 0, 0, 7⟩, ⟨2000, 1, 0xC, 0, 0, 0, 7⟩]⟩,
    ⟨0x600000F5, 100000, 7, 0, 0, [⟨1000, 10, 0xB, 0, 0, 0, 8⟩, ⟨2000, 1, 0xC, 0, 0, 0, 8⟩]⟩,
    ⟨0x60000002, 100000, 7, 0, 0, [⟨1000, 10, 0xB, 0, 0, 0, 9⟩, ⟨2000, 1, 0xC, 0, 0, 0, 9⟩]⟩,
    ⟨0x10000000, 100000, 7, 0, 0, [⟨1024, 50, 1, 0, 6, 3, 0⟩]⟩]

def pool : PoolRec where
  tableRegion := 1
  rowLen := 4
  elemFmt := 2
  weightMode := 0
  tableOfs := 0
  rowStride := 16
  rows := 4
  fabricIdx := false
  skip := false
  emptyCfg := false
  partitioned := false
  inFlow := 0
  inSrc := 0
  maxBags := 1
  maxIndices := 4
  idxRegion := 1
  idxOfs := 1024
  fabricDest := false
  outFlow := 0
  destNode := 0
  destRegion := 1
  outStride := 16
  destOfs := 2048
  ocd := ocd
  empty := 0

/-- A home record for region 1. -/
def home : HomeRec := ⟨1, [1], []⟩

def redW : WorkRec := ⟨1, 0, 7, .red ⟨0, 0, 2, 4, 5, 6, 0, 0, 1, 0, ocd⟩⟩
def barW : WorkRec := ⟨0xF5, 0, 8, .bar ⟨0, [0], 9, 10, 1, 512⟩⟩
def poolW : WorkRec := ⟨2, 0, 9, .pool pool⟩
def homeW : WorkRec := ⟨3, 0, 10, .home home⟩

/-- A plan of two steps on node 1 with the endpoint 3 behind port 0; the other T4896, node 2, is behind port 1. The tree-0 parent of
node 1 is node 2, or node 1 is the zenith. -/
def planOn (zenith : Bool) (work : List WorkRec) : Plan where
  planDigest := 5
  imageDigest := 0
  treeDigest := 0
  fwDigest := 0
  planId := 1
  serial := 1
  node := 1
  devices := 2
  endpoints := 1
  slackMargin := 4
  strict := false
  loopFirst := 0
  loopLast := 0
  loopCount := 1
  numericMode := 0x100
  keyId := 0
  manifest := [⟨1, 1, 0⟩, ⟨2, 1, 0⟩, ⟨3, 2, 0⟩]
  steps := [stepOf 0, stepOf 1]
  tables := tables
  routes := ⟨4096, 1, 0, [⟨3, 15, false, 0, false, 0⟩, ⟨2, 15, true, 1, false, 0⟩], [], [], []⟩
  regions := [⟨1, 0, 0, 0, 4096, 4096⟩]
  cableMax := 4
  trees := [⟨0, if zenith then 1 else 2, 2, if zenith then [⟨1, 0xFFFF, 2⟩, ⟨2, 1, 1⟩, ⟨3, 1, 0⟩]
    else [⟨1, 2, 1⟩, ⟨2, 0xFFFF, 2⟩, ⟨3, 1, 0⟩]⟩]
  work := work
  alts := [⟨0, [], []⟩]

/-- The device runs step 0 of a plan from tick 0 on, at a tick. -/
def running (p : Plan) (mer : Nat) (q : Sequencer := .reset) : State :=
  setF { dev with mer := mer, pln := { q with active := some p } } 0 Reg.plnState_active 2

/-- The device is armed for a start at tick 100,000. -/
def armed (p : Plan) (mer : Nat) (q : Sequencer := .reset) : State :=
  setF { dev with mer := mer, pln := { q with active := some p, starting := true, startAt := 100000 } } 0 Reg.plnState_active 1

/-- An outcome COMMIT with no loss. -/
def commit : ObarMsg := ⟨true, false, 0, some [], ⟨0, 0, 0⟩, .empty, BitVec.allOnes 512⟩

/-- An outcome VOID by this device's cause 4 with no loss. -/
def voided : ObarMsg := ⟨false, false, 0, some [], ⟨4, 1, 10⟩, .empty, 0⟩

/-- The next state of a command, or the state before it. -/
def after (c : Instr) (s : State) : State :=
  match exec c s with
  | .next t => t
  | _ => s

/-! ## States that meet the hypotheses of the statements -/

theorem meets_PlanCommandsStartOrAreIgnored :
    (runs dev .core = true ∧ getF dev 0 Reg.pwrState_state = 0 ∧ getF dev 0 Reg.fltState_faultstate = 0 ∧
      getF dev 0 Reg.plnState_staged = 0 ∧ getF dev 0 Reg.plnState_staged ≠ 2 ∧ getF dev 0 Reg.plnState_active ≠ 2) ∧
    (runs (setStaged dev 3) .core = true ∧ getF (setStaged dev 3) 0 Reg.plnState_staged = 3 ∧
      getF (setStaged dev 3) 0 Reg.pwrState_state = 0 ∧ getF (setStaged dev 3) 0 Reg.fltState_faultstate = 0) ∧
    (runs (setStaged dev 1) .core = true ∧ getF (setStaged dev 1) 0 Reg.plnState_staged = 1) ∧
    (runs (setStaged dev 2) .core = true ∧ getF (setStaged dev 2) 0 Reg.plnState_staged = 2) := by decide +kernel

theorem meets_LoaderLoadsOrRefuses :
    (∀ x ∈ [(0, 640, true), (0, 639, false), (4, 640, false)],
      let s := { dev with pln := { Sequencer.reset with loading := some (x.1, x.2.1, false) } }
      runs s .core = true ∧ s.pln.loading = some (x.1, x.2.1, false) ∧ lengthOk s x.1 x.2.1 = x.2.2) ∧
    (let s := putBytes dev 8 (leBytes 8 640)
     firstUe s 8 8 = none ∧ checkLength s 0 640 (readBytes s 0 16) = none ∧ firstUe s 0 640 = none ∧
      (checkImage s 0 640 false (readBytes s 0 640)).isSome = true ∧
      (checkLength s 0 648 (readBytes s 0 16)).isSome = true) ∧
    (let s := { putBytes dev 8 (leBytes 8 640) with mem := { (putBytes dev 8 (leBytes 8 640)).mem with ue := [608] } }
     firstUe s 8 8 = none ∧ (firstUe s 0 640).isSome = true) ∧
    (firstUe { dev with mem := { MemSys.reset with ue := [0] } } 8 8).isSome = true := by decide +kernel

theorem meets_ArmDiscardAndAbortActOnTheirBank :
    (let s := setStaged { dev with pln := { Sequencer.reset with staged := some (planOn true []) } } 2
     runs s .core = true ∧ getF s 0 Reg.pwrState_state = 0 ∧ getF s 0 Reg.fltState_faultstate = 0 ∧ s.pln.handover = none ∧
      getF s 0 Reg.plnState_staged = 2 ∧ s.pln.staged = some (planOn true []) ∧ getF s 0 Reg.plnState_active = 0 ∧
      getF s 0 Reg.secFwAct_pending = 0 ∧ powerChanging s = false ∧ getF s 0 Reg.plnState_staged ≠ 1 ∧ s.mem.retireWait = []) ∧
    (let s := running (planOn true []) 10
     runs s .core = true ∧ getF s 0 Reg.plnState_active = 2 ∧ pastCut s = false) ∧
    (let s := running (planOn true []) 99990 { Sequencer.reset with cutDone := true }
     runs s .core = true ∧ getF s 0 Reg.plnState_active = 2 ∧ pastCut s = true) := by decide +kernel

theorem meets_StartBarrierRuns :
    (let s := armed (planOn true []) 90000 { Sequencer.reset with outOfStart := true }
     runs s .core = true ∧ s.pln.starting = true ∧ s.pln.outOfStart = true) ∧
    (let s := armed (planOn false []) 91808
     runs s .core = true ∧ s.pln.starting = true ∧ s.pln.outOfStart = false ∧ s.pln.active = some (planOn false []) ∧
      s.pln.upSent = false ∧ isZenith s 0 = false ∧ s.mer = startUpAt s ∧ (∀ k ∈ obarChildren s, childMissing s k = false)) ∧
    (let s := armed (planOn true []) 95904
     runs s .core = true ∧ s.pln.starting = true ∧ s.pln.outOfStart = false ∧ s.pln.active = some (planOn true []) ∧
      s.pln.held = none ∧ isZenith s 0 = true ∧ s.pln.startAt = s.mer + 4096) ∧
    (let s := armed (planOn true []) 99968 { Sequencer.reset with held := some commit }
     runs s .core = true ∧ s.pln.starting = true ∧ s.pln.outOfStart = false ∧ s.pln.active = some (planOn true []) ∧
      s.pln.cellsSent = false ∧ s.pln.startAt = s.mer + 32 ∧ startCommits (outcomeHeld s) = true) ∧
    (let s := armed (planOn true []) 99968
     runs s .core = true ∧ s.pln.starting = true ∧ s.pln.outOfStart = false ∧ s.pln.active = some (planOn true []) ∧
      s.pln.cellsSent = false ∧ s.pln.startAt = s.mer + 32 ∧ startCommits (outcomeHeld s) = false) := by decide +kernel

/-- The device runs step 0 with jobs and arrivals. -/
def working (mer : Nat) (e : Engines) (q : Sequencer := .reset) : State :=
  { running (planOn true [redW, barW, poolW]) mer q with eng := e }

/-- A job of a unit that began at tick 1000. -/
def job (u seq : Nat) (done : Option Nat) : Job := ⟨u, seq, 1000, 0, done, false, false, false, 0, [], [], 0, 0, [], [], [], [], .empty⟩

/-- The endpoint 3 and the device 2 have sent their cells of the reduction and of the barrier record. -/
def arrived : List Arrival :=
  [⟨redW.rid, 3, 5, 1, 0, 0, 500, 524, 0⟩, ⟨redW.rid, 2, 5, 1, 0, 0, 500, 524, 1⟩, ⟨redW.rid, 2, 5, 1, 1, 0, 501, 525, 1⟩,
    ⟨barW.rid, 3, 9, 2, 0, 0, 502, 526, 0⟩, ⟨barW.rid, 2, 9, 2, 0, 0, 503, 527, 1⟩]

theorem meets_RecordsAreTakenUpCompletedAndReleased :
    (∀ x ∈ [(1, 7, redW), (0xF5, 8, barW), (2, 9, poolW)],
      let s := working 1000 .reset
      runs s .core = true ∧ unitExists x.1 = true ∧ inStep s = true ∧ unitRuns s x.1 = true ∧ unitBusy s x.1 = false ∧
        unitRecord s x.1 (fun q => firstRun s x.1 q == some (sinceBase s)) = some x.2.2 ∧ s.eng.job x.1 x.2.2.seq = none) ∧
    (let j := { job 2 9 none with state := 3 }
     let s := working 1005 { Engines.reset with jobs := [j] }
     (s.eng.jobs.find? fun j => j.unit == 2 && j.doneAt.isNone && !j.released && !j.busErr) = some j ∧ j.state = 3 ∧
      recordOf s 2 9 = some poolW ∧ runTick s 2 9 = true) ∧
    (let s := working 1050 { Engines.reset with jobs := [job 3 10 none] }
     let p := { planOn true [homeW] with tables := [⟨0x60000003, 100000, 7, 0, 0, [⟨1000, 100, 0xB, 0, 0, 0, 10⟩]⟩] }
     let s := { s with pln := { s.pln with active := some p } }
     runs s .core = true ∧ unitExists 3 = true ∧
      (s.eng.jobs.find? fun j => j.unit == 3 && j.doneAt.isNone && !j.released && !j.busErr) = some (job 3 10 none) ∧
      recordOf s 3 10 = some homeW ∧ todoOf s 3 10 = []) ∧
    (∀ x ∈ [(1, 7, redW), (0xF5, 8, barW)],
      let s := working 1050 { Engines.reset with jobs := [job x.1 x.2.1 none], arrivals := arrived }
      runs s .core = true ∧ unitExists x.1 = true ∧
        (s.eng.jobs.find? fun j => j.unit == x.1 && j.doneAt.isNone && !j.released && !j.busErr) = some (job x.1 x.2.1 none) ∧
        recordOf s x.1 x.2.1 = some x.2.2 ∧ inputsDone s x.2.2 = true) ∧
    (∀ x ∈ [(1, 7, redW), (0xF5, 8, barW), (2, 9, poolW)],
      let s := working 2000 { Engines.reset with jobs := [job x.1 x.2.1 (some 1996)] }
      runs s .core = true ∧ unitExists x.1 = true ∧ inStep s = true ∧
        unitRecord s x.1 (fun q => releaseAt s x.1 q == some (sinceBase s)) = some x.2.2 ∧
        s.eng.job x.1 x.2.2.seq = some (job x.1 x.2.1 (some 1996)) ∧ 1996 < s.mer ∧ slackMargin s ≤ s.mer - 1996) ∧
    (let s := working 2000 { Engines.reset with jobs := [job 1 7 none] }
     runs s .core = true ∧ inStep s = true ∧ unitRecord s 1 (fun q => releaseAt s 1 q == some (sinceBase s)) = some redW ∧
      s.eng.job 1 7 = some (job 1 7 none) ∧ pastCut s = false) := by decide +kernel

theorem meets_DeadlinesAreJudged :
    (let s := { running (planOn true [redW]) 1100 with eng := { Engines.reset with arrivals := arrived } }
     runs s .core = true ∧ inStep s = true ∧ stepWork s = [redW] ∧ judgeAt s redW = some s.mer ∧
      (s.eng.missed.any (·.1 == redW.rid)) = false ∧ missingInputs s redW = []) ∧
    (let s := running (planOn true [barW]) 1000
     runs s .core = true ∧ inStep s = true ∧ stepWork s = [barW] ∧ judgeAt s barW = some s.mer ∧
      (s.eng.missed.any (·.1 == barW.rid)) = false ∧ missingInputs s barW = [3] ∧ pastCut s = false) := by decide +kernel

/-- A port in cell service. -/
def link (code state : Nat) : Link := { Link.fresh code with state := state, stage := 9 }

/-- The IDENT of the endpoint 3, ARMED for no start (R397). -/
def rejoining : Ident := ⟨3, 2, 4, 0, 0xFF, 1, 0, 0, 5, 0, 0, 0⟩

theorem meets_WindowAndCutOfTheOutcome :
    (∀ z, ∀ d ∈ [0, 1], let s := running (planOn z []) (cutAt (running (planOn z []) 50000) + d)
     runs s .core = true ∧ barrierOpen s = true ∧ s.pln.cutDone = false ∧ (s.mer = cutAt s ↔ d = 0) ∧ s.pln.hold = none ∧ dropShort s 5 = s) ∧
    (let q := { Sequencer.reset with hold := some 200000, holdNext := some (0, 1, 0) }
     let s := running (planOn false []) (cutAt (running (planOn false []) 150000 q)) q
     runs s .core = true ∧ barrierOpen s = true ∧ s.pln.cutDone = false ∧ s.mer = cutAt s ∧ s.pln.hold.isSome = true) ∧
    (∀ x ∈ [(3, true), (4, false)],
      let s := setLink (running (planOn true []) 91808) { link 0 x.1 with ident := some rejoining, reason := 11 }
      0 ∈ allPorts s ∧ isHalf 0 = false ∧ rejoinReady s 0 = x.2 ∧ ∀ c ∈ allPorts s, c ≠ 0 → rejoinReady s c = false) ∧
    (let s := running (planOn true []) 91808
     runs s .core = true ∧ inStep s = true ∧ s.mer = stepW s ∧ s.pln.active = some (planOn true []) ∧ s.pln.window = false ∧
      s.pln.fwStep = false ∧ rejoinPoint s = true ∧ s.pln.rejoinDone = false ∧ s.pln.idleExec = false ∧ s.pln.cutDone = false) := by
  decide +kernel

theorem meets_OutcomeGoesUpDownAndOut :
    (let q := { Sequencer.reset with own := some commit, cutDone := true }
     let s := running (planOn false []) (cutAt (running (planOn false []) 50000) + 57) q
     runs s .core = true ∧ barrierOpen s = true ∧ s.pln.own = some commit ∧ s.pln.cutDone = true ∧ s.pln.upSent = false ∧
      isZenith s 0 = false ∧ s.mer = cutAt s + 57) ∧
    (let q := { Sequencer.reset with own := some commit, cutDone := true }
     let s := running (planOn true []) (cutAt (running (planOn true []) 50000) + 71) q
     runs s .core = true ∧ barrierOpen s = true ∧ s.pln.own = some commit ∧ s.pln.cutDone = true ∧ s.pln.downSent = false ∧
      s.pln.starting = false ∧ isZenith s 0 = true ∧ s.mer = cutAt s + 71) ∧
    (∀ a ∈ [99975, 99976],
      let s := running (planOn false []) 99999 { Sequencer.reset with obar := some (commit, a) }
      runs s .core = true ∧ barrierOpen s = true ∧ s.pln.obar = some (commit, a) ∧ s.pln.held = none ∧ s.pln.starting = false ∧
        s.pln.downSent = false ∧
        isZenith s 0 = false ∧ ((a + 24 ≤ s.mer ∧ a + 24 < barrierEnd s) ∨ barrierEnd s ≤ a + 24)) ∧
    (let s := running (planOn true []) 99968 { Sequencer.reset with held := some commit }
     runs s .core = true ∧ barrierOpen s = true ∧ s.pln.held = some commit ∧ (verdict s).isSome = true ∧ s.pln.cellsSent = false ∧
      barrierEnd s = s.mer + 32 ∧ attached s = [3]) := by decide +kernel

theorem meets_BoundaryBeginsTheNextExecution :
    (∀ x ∈ [(commit, 1, 0, 1), (voided, 0, 1, 0)],
      let s := running (planOn true []) 100000 { Sequencer.reset with held := some x.1 }
      runs s .core = true ∧ s.pln.active = some (planOn true []) ∧ s.pln.held = some x.1 ∧ s.pln.starting = false ∧ s.pln.hold = none ∧
        stepsRun s = true ∧ curStep s = some (stepOf 0) ∧ stepEnd s = s.mer ∧
        (stepVerdict s (planOn true []) (stepOf 0) x.1).next = some x.2 ∧
        (stepVerdict s (planOn true []) (stepOf 0) x.1).hold = false) := by decide +kernel

theorem meets_VoidSparesOtherBytes :
    let s := running (planOn true [redW]) 100000
    writtenRegions s = [1] ∧ planRegion s 1 = some ⟨1, 0, 0, 0, 4096, 4096⟩ ∧ ¬ (4096 ≤ 8192 ∧ 8192 < 4096 + 4096) ∧
      ¬ (4096 ≤ 4095 ∧ 4095 < 4096 + 4096) := by decide +kernel

theorem meets_HoldsEndAndLostOutcomesRejoin :
    (let s := running (planOn true []) 200000
       { Sequencer.reset with held := some voided, hold := some 200000, holdNext := some (0, 1, 0) }
     runs s .core = true ∧ s.pln.active = some (planOn true []) ∧ s.pln.held = some voided ∧ s.pln.hold = some 200000 ∧
      s.pln.holdNext = some (0, 1, 0) ∧ 200000 = s.mer ∧ voided.band ≠ 3 ∧ coverMsg (planOn true []) voided = some 0) ∧
    (let s := running (planOn false []) 100000
     runs s .core = true ∧ barrierOpen s = true ∧ (outcomeHeld s).pln.held = none ∧ barrierEnd s = s.mer) := by decide +kernel

/-- STEP_INFO of execution 9, step 0, that began at tick 2048, of the plan with digest 5 (R406). -/
def stepInfo : Payload := payOf (leBytes 1 0x10 ++ leBytes 1 1 ++ leBytes 2 0 ++ leBytes 4 0 ++ leBytes 8 9 ++ leBytes 8 2048 ++ leBytes 16 5)

def withLink (s : State) (l : Link) : State := setLink s l

theorem meets_StepInfoRejoins :
    (let s := running (planOn true []) 10
     runs s .core = true ∧ inStep s = true ∧ s.pln.infoSent = false ∧ s.pln.idleExec = false ∧ ∀ c ∈ allPorts s, portState s c ≠ 3) ∧
    (let s := setLink (running (planOn true []) 10) { link 0 3 with reason := 11 }
     inStep s = true ∧ 0 ∈ allPorts s ∧ s.lanes.remap = [] ∧ portState s 0 = 3 ∧ (linkOf s 0).reason = 11 ∧
      (egressOf s 0).svc = [] ∧ getF s 0 Reg.bufLevel_levelC ≤ 3 ∧ s.fab.freedAt ≠ s.mer ∧
      poolUse s + (allPorts s).length < 98304) ∧
    (let s := withLink (setF { dev with
       mer := 4000, pln := { Sequencer.reset with active := some (planOn true []), rejoin := true } } 0 Reg.plnState_active 1) (link 1 4)
     let pay := stepInfo
     runs s .lanes = true ∧ fitsPort s (portNo 1) = true ∧ 2 ≤ portState s 1 ∧ s.pln.active = some (planOn true []) ∧
      (planOn true []).steps[payNat pay 4 4]? = some (stepOf 0) ∧ s.pln.rejoin = true ∧ getF s 0 Reg.plnState_active = 1 ∧
      payNat pay 0 1 = 0x10 ∧ payNat pay 1 1 % 2 = 1 ∧ (stepOf 0).rejoin = true ∧ payNat pay 2 1 < 3 ∧
      payNat pay 0x18 16 = (planOn true []).planDigest.toNat % 2 ^ 128 ∧
      s.mer + 2048 ≤ payNat pay 0x10 8 + (stepOf 0).len (payNat pay 2 1) - (stepOf 0).outwin) := by decide +kernel

/-! ### Cells -/

/-- The device runs at tick 1024 + 10, its port 0 in service toward endpoint 3. -/
def onLink (mer : Nat) : State := setLink (running (planOn true []) mer) (link 0 4)

/-- A DATA cell of flow 6 on VC_PLAN. -/
def dataCell (dst src seq : Nat) : FabCell := mkCell 1 false 0 dst src 6 seq 0 0 0

/-- An ACK or RESEND_REQ about this device's flow 6 to endpoint 3: the cells below SEQ 2 are acknowledged, or SEQ 2 is asked for. -/
def svcAbout (kind : Nat) : FabCell := mkCell kind false 3 1 3 6 0 0 0 (payOf ([0] ++ leBytes 2 3 ++ [0] ++ leBytes 4 2))

def key (src dst : Nat) : FlowKey := ⟨src, dst, 0, 6⟩

theorem meets_CellsAtAPort :
    (let s := onLink 2000
     let c := dataCell 2 3 0
     let s0 := sampleCell (setLink s { linkOf s 0 with lastCell := some s.mer }) 0 c
     let s1 := enterIngress (cross s0 3 (laneLink 0) c (s.mer + 24)) 0 c
     runs s .lanes = true ∧ fitsPort s (portNo 0) = true ∧ 2 ≤ portState s 0 ∧ portState s 1 < 2 ∧ followsCell s 0 = false ∧
      dropsCells s0 0 = false ∧ portState s0 0 = 4 ∧ dstBad c = false ∧ ingressFull s0 0 c = false ∧ poolAdmits s1 c = true ∧ cellDst c ≠ nodeId s1 ∧
      isGroupDst (cellDst c) = false ∧ (cellDst c ≠ 0xFFFE ∨ cellVc c ≠ 3)) ∧
    (let s := setF (onLink 2000) 0 Reg.bufLevel_levelC 4
     let s0 := sampleCell (setLink s { linkOf s 0 with lastCell := some s.mer }) 0 (dataCell 2 3 0)
     poolAdmits (enterIngress (cross s0 3 (laneLink 0) (dataCell 2 3 0) (s.mer + 24)) 0 (dataCell 2 3 0)) (dataCell 2 3 0) = false) ∧
    (let s := setRx (onLink 2000) ⟨key 3 1, 0, 0, 1, [], 1, 1990, none, none⟩
     let c := dataCell 1 3 0
     let s0 := sampleCell (setLink s { linkOf s 0 with lastCell := some s.mer }) 0 c
     let s1 := enterIngress (cross s0 3 (laneLink 0) c (s.mer + 24)) 0 c
     let b := poolTake s1 (requester 0 (cellVc c))
     dropsCells s0 0 = false ∧ portState s0 0 = 4 ∧ dstBad c = false ∧ ingressFull s0 0 c = false ∧ poolAdmits s1 c = true ∧
      cellDst c = nodeId s1 ∧ cellVc c ≠ 3 ∧ isGroupDst (cellDst c) = false ∧ destCheck b.1 c = (b.1, true) ∧ stepCells b.1 = true ∧
      cellSeq c < (rxFlow b.1 (cellKey c) 0 0).next) := by decide +kernel

/-- Port 0 retains the first cell of flow 6. -/
def retaining (mer : Nat) : State := setEgress (onLink mer) { Egress.empty 0 with ret := [⟨key 1 3, 0, dataCell 3 1 0, 1000, 0⟩] }

theorem meets_CellsAreAcknowledgedAndResent :
    (∀ k ∈ [0x10, 0x11], let s := retaining 2000
     runs s .lanes = true ∧ fitsPort s (portNo 0) = true ∧ destCheck s (svcAbout k) = (s, true) ∧ cellKind (svcAbout k) = k ∧
      portState s 0 = 4 ∧ cellFlow (svcAbout k) ≠ 0xFFF) ∧
    (let r : RxFlow := ⟨key 3 1, 0, 0, 1, [], 1, 1936, none, none⟩
     let s := setRx (onLink 2000) r
     runs s .lanes = true ∧ stepCells s = true ∧ s.fab.rx.filter (·.key == key 3 1) = [r] ∧ 0 < r.sinceAck ∧ r.lastNew + 64 ≤ s.mer) ∧
    (let r : RxFlow := ⟨key 3 1, 0, 0, 1, [⟨2, dataCell 1 3 2, 1984, 0⟩], 1, 1984, none, none⟩
     let s := setRx (onLink 2000) r
     runs s .lanes = true ∧ s.fab.rx.filter (·.key == key 3 1) = [r] ∧ rreqDue s r = true) ∧
    (let x : RetCell := ⟨key 1 3, 0, dataCell 3 1 0, 1000, 0⟩
     let s := retaining 5096
     runs s .lanes = true ∧ fitsPort s (portNo 0) = true ∧ retained s 0 (key 1 3) = [(0, x)] ∧ stepCells s = true ∧
      x.sentAt + ackWait s ≤ s.mer ∧ copyWaits (egressOf s 0) x = false) := by decide +kernel

theorem meets_PlannedCellsLeaveOneByOne :
    (∀ x ∈ [(1024, 0), (1025, 256), (1027, 384)], let s := onLink x.1
     runs s .lanes = true ∧ x.2 < 512 ∧ fitsPort s (portNo x.2) = true ∧
      (markerTick s x.2 = true ∨ (isHalf x.2 = true ∧ s.mer % 2 = 1))) ∧
    (let q : QCell := ⟨dataCell 3 1 0, 0, noBuf⟩
     let r : Run := ⟨1024, 50, 1, 0, 6, 3, 0⟩
     let s := setEgress (onLink 1030) { Egress.empty 0 with plan := [q] }
     runs s .lanes = true ∧ 0 < 512 ∧ fitsPort s (portNo 0) = true ∧ markerTick s 0 = false ∧ isHalf 0 = false ∧
      stepCells s = true ∧ s.pln.idleExec = false ∧ portState s (physicalPort s 0) = 4 ∧ runNow s (2 ^ 28 + 0) = some r ∧
      r.use = useOfVc r.vc ∧ matchFirst s (egressOf s 0) r = some q ∧ txDiscards s (physicalPort s 0) = false) := by decide +kernel

/-- R313: in its planned tick the cell stands on the wire, and the port keeps it for a resend (R332). -/
theorem test_planned_cell_leaves :
    let t := after (.cellEgress 0x10000000) (setEgress (onLink 1030) { Egress.empty 0 with plan := [⟨dataCell 3 1 0, 0, noBuf⟩] })
    t.out = [.cell 1030 0 (dataCell 3 1 0)] ∧ (egressOf t 0).plan = [] ∧ ((egressOf t 0).ret.map (·.seq)) = [0] := by decide +kernel

/-! ### Lanes -/

/-- Port 0 has a link, and both spares of its die reach it. -/
def linked (mer : Nat) (l : Link) (reqs : List LaneReq := []) : State :=
  let s := setLink { dev with mer := mer } { l with up := { l.up with reach := 3 } }
  { s with lanes := { s.lanes with reqs := reqs } }

theorem meets_LostLaneStopsThePort :
    (let s := linked 2000 (link 0 4)
     runs s .lanes = true ∧ fitsDie s 0 = true ∧ carried s 0 3 = some (0, 3) ∧ 2 ≤ portState s 0 ∧
      (s.lanes.losses.any fun x => x.die == 0 && x.lane == 3) = false ∧ freshSpare s 0 3 = false ∧ 4 ∈ logicalLanes 0 ∧
      physLane s 0 4 ≠ 3 ∧ (s.lanes.losses.any fun x => x.die == 0 && x.lane == physLane s 0 4) = false) ∧
    (∀ k < 2, carried dev 0 (48 + k) = none) := by decide +kernel

theorem meets_LostLanesRecoverOrAreReplaced :
    (∀ m ∈ [3024, 3000, 4000], let s := linked m (link 0 4)
     let s := { s with lanes := { s.lanes with losses := [⟨0, 3, 2000⟩] } }
     runs s .lanes = true ∧ fitsDie s 0 = true ∧ carried s 0 3 = some (0, 3) ∧
      (s.lanes.losses.find? fun x => x.die == 0 && x.lane == 3) = some ⟨0, 3, 2000⟩ ∧
      (s.lanes.reqs.any fun r => r.own && r.port == 0 && r.lane == 3) = false ∧ (s.mer ≤ 2000 + 1024 ∨ 2000 + 1024 ≤ s.mer) ∧
      ([0, 1].find? fun k => spareFree s 0 k && !spareAsked s (portNo 0 / 6) k) = some 0) ∧
    (let r : LaneReq := ⟨0, true, 2, 3, 0, 65536, 4096, 0⟩
     let s := linked (4096 + 65536) (link 0 4) [r]
     runs s .lanes = true ∧ fitsDie s 0 = true ∧ carried s 0 3 = some (0, 3) ∧
      (s.lanes.reqs.find? fun r => r.own && r.opcode == 2 && r.port == 0 && r.lane == 3) = some r ∧ s.mer = r.start + r.ticks) ∧
    (let r : LaneReq := ⟨0, false, 2, 3, 0, 65536, 4096, 0⟩
     let s := linked 4096 (link 0 4) [r]
     runs s .lanes = true ∧ fitsPort s (portNo 0) = true ∧
      (s.lanes.reqs.find? fun r => !r.own && r.opcode == 2 && r.port == 0 && r.lane == 3 && r.start == s.mer) = some r) := by
  decide +kernel

/-- A LOOP request for lane 3 at tick 8192, and one whose OPCODE does not exist (R378, R385). -/
def loopReq (opcode : Nat) : Payload := payOf (leBytes 1 opcode ++ leBytes 1 3 ++ leBytes 2 0 ++ leBytes 4 1024 ++ leBytes 8 8192)

/-- A pending request for every lane stands against one for lane 3 until it is over (R378). -/
theorem meets_requests_of_one_lane :
    let r := reqOf 0 (loopReq 3)
    let s := linked 6144 (link 0 4) [{ r with lane := 0xFF, start := 4096 }]
    ∀ q ∈ s.lanes.reqs, q.own = false → q.port = 0 → (q.lane = r.lane ∨ q.lane = 0xFF ∨ r.lane = 0xFF) → q.start + q.ticks + 1 ≤ s.mer := by
  decide +kernel

theorem meets_LaneEventsAndTests :
    (∀ o ∈ [3, 4], let s := linked 6144 (link 0 4)
     runs s .lanes = true ∧ fitsDie s 0 = true ∧ fitsPort s (portNo 0) = true ∧ 2 ≤ portState s 0 ∧
      reqOf 0 (loopReq o) ∉ s.lanes.taken ∧ reqBad 0 (loopReq o) = decide (o = 4) ∧ (reqOf 0 (loopReq o)).start % 1024 = 0 ∧
      s.mer + 2048 ≤ (reqOf 0 (loopReq o)).start ∧ planRuns s = false) ∧
    (let s := linked 6144 (link 0 4)
     let s := { s with lanes := { s.lanes with taken := [reqOf 0 (loopReq 3)] } }
     2 ≤ portState s 0 ∧ reqOf 0 (loopReq 3) ∈ s.lanes.taken) ∧
    (let s := linked 8192 (link 0 4) [reqOf 0 (loopReq 3)]
     runs s .lanes = true ∧ fitsPort s (portNo 0) = true ∧
      (s.lanes.reqs.find? fun r => !r.own && r.opcode == 3 && r.port == 0 && r.lane == 3 && r.start == s.mer)
        = some (reqOf 0 (loopReq 3))) ∧
    (let s := linked 9216 { link 0 1 with stage := 14, testEnd := some 9216 }
     runs s .lanes = true ∧ fitsPort s (portNo 0) = true ∧ (linkOf s 0).testEnd = some 9216 ∧ 9216 ≤ s.mer ∧ (linkOf s 0).stage = 14) ∧
    (let s := linked 6144 (link 0 4)
     fitsDie s 0 = true ∧ planRuns s = false ∧ carried s 0 (getF s 0 Reg.laneSel_lane) = some (0, 0) ∧ bits 1 0 4 ≠ 0) ∧
    (let s := linked 6144 { link 0 1 with stage := 14 }
     planRuns s = false ∧ carried s 0 (getF s 0 Reg.laneSel_lane) = some (0, 0) ∧ bits 0 0 4 = 0 ∧ (linkOf s 0).stage = 14) ∧
    (runs (onLink 10) .lanes = true ∧ fitsDie (onLink 10) 0 = true ∧ planRuns (onLink 10) = true) := by decide +kernel

theorem meets_SpareTakesTheLane :
    ∀ k ∈ [0, 1], let r : LaneReq := ⟨0, true, 1, 3, k, 0, 8192, 0⟩
    let s := linked 8192 (link 0 4) [r]
    runs s .lanes = true ∧ fitsDie s 0 = true ∧ dueSpare s 0 3 = some r ∧ r.own = true ∧
      spareIdle s 0 r.spare = true ∧ r.spare < 2 := by decide +kernel

/-- What the lanes of port 0 have received: identity bytes in order, training frames of polarity and marker frames without skew. -/
def aligned (s : State) : State :=
  { s with lanes := { s.lanes with
    rxIdent := (List.range 8).map fun l => (l, BitVec.ofNat 8 l)
    rxTrain := (List.range 8).map fun l => (l, ⟨0xB5, BitVec.ofNat 8 l, 5, 0, 0⟩)
    rxAt := (List.range 8).map fun l => (l, 640) } }

theorem meets_BringupLeadsToCellService :
    (runs dev .lanes = true ∧ fitsPort dev (portNo 0) = true ∧ (linkOf dev 0).state = 0 ∧ (linkOf dev 0).idleUntil = none ∧
      isHalf 0 = splitCfg dev (portNo 0) ∧
      ((codesOf (!splitCfg dev (portNo 0)) (portNo 0)).all fun c => (linkOf dev c).state == 0) = true) ∧
    (∀ n ∈ [1, 2, 3, 4, 5, 6], let s := aligned (linked 2048 { link 0 1 with stage := n, since := 1024 })
     runs s .lanes = true ∧ (linkOf s 0).state = 1 ∧ (linkOf s 0).stage = n ∧ stageHolds s 0 n = true ∧
      (n ≠ 1 → s.mer ≤ (linkOf s 0).since + (stageTimeout n).getD 0)) ∧
    (∀ f ∈ [0, 7], let s := linked 9000 { link 0 1 with stage := 4, since := 1024, fails := f }
     (linkOf s 0).state = 1 ∧ (linkOf s 0).stage ≤ 8 ∧ (linkOf s 0).fails = f) ∧
    (let s := linked 9000 { link 0 0 with stage := 0, idleUntil := some 9000 }
     (linkOf s 0).idleUntil = some 9000 ∧ (linkOf s 0).stage = 0 ∧ 9000 ≤ s.mer) ∧
    (let s := linked 5120 { link 0 1 with stage := 7, since := 2048, up := { BringUp.fresh with sixAt := some 3072 } }
     runs s .lanes = true ∧ fitsPort s (portNo 0) = true ∧ (linkOf s 0).stage = 7 ∧ (linkOf s 0).testEnd = none ∧
      (linkOf s 0).up.sixAt = some 3072 ∧ s.mer = markerFrom (max (linkOf s 0).since 3072 + 2048)) ∧
    (∀ m ∈ [2 ^ 24, 2 ^ 24 + 8192], let s := linked m { link 0 1 with stage := 7, testEnd := some 20000000 }
     (linkOf s 0).stage = 7 ∧ (linkOf s 0).testEnd.isSome = true ∧ (linkOf s 0).up.sub = 0 ∧ (linkOf s 0).up.checked = false ∧
      (linkOf s 0).since + 2 ^ 24 ≤ s.mer ∧ s.mer ≤ (linkOf s 0).since + (2 ^ 24 + 8192)) ∧
    (let s := aligned (linked 20000 { link 0 1 with stage := 7, up := { BringUp.fresh with sub := 6, far := some 0 } })
     (linkOf s 0).state = 1 ∧ (linkOf s 0).stage = 7 ∧ (linkOf s 0).up.sub = 6 ∧ stageHolds s 0 6 = true ∧ (linkOf s 0).up.mask = 0 ∧
      (linkOf s 0).up.far = some 0 ∧ (∀ i ∈ logicalLanes 0, (0 : BitVec 8).getLsbD i = false) ∧
      s.mer ≤ (linkOf s 0).since + (2 ^ 24 + 8192)) ∧
    (let s := linked 5120 { link 0 1 with stage := 8, up := { BringUp.fresh with readyAt := some 3000, readyRx := some 4 } }
     (linkOf s 0).stage = 8 ∧ (linkOf s 0).state = 1 ∧ serviceAt (linkOf s 0) = some s.mer ∧ s.mer ≤ (linkOf s 0).since + 8192) := by
  decide +kernel

theorem meets_MarkersAndTimeCells :
    (∀ m ∈ [4096, 4097], let s := linked m (link 0 4)
     runs s .lanes = true ∧ fitsPort s (portNo 0) = true ∧ sendsFrames (linkOf s 0) = true ∧ sendsPrbs s 0 = false ∧
      (∀ l ∈ logicalLanes 0, laneUnderCheck s 0 l = false) ∧ portNo 0 % 6 = 0 ∧ 0 / 128 ≠ 3 ∧
      ∀ k < 2, spareSends s (portNo 0 / 6) k = true) ∧
    (let s := linked 4096 { link 0 4 with markers := List.replicate 16 (4, 5) }
     2 ≤ (linkOf s 0).state ∧ 16 ≤ (linkOf s 0).markers.length) ∧
    (let s := linked 4096 { link 0 4 with heard := (List.range 16).map fun k => (20480 - 1024 * k, 640) }
     2 ≤ portState s 0 ∧ nearMean s 0 20480 = some 640) ∧
    (let s := running (planOn false []) 1048576
     runs s .lanes = true ∧ (timeParentNode s).isSome = true ∧ s.sync.heardAt + 2 ^ 20 ≤ s.mer) := by decide +kernel

/-- A certificate of the scalar 6, which the scalar 5 signed with the nonce 3. -/
def leafCert : List Byte :=
  let signed := derWrap 0x30 (derWrap 2 [1] ++ sigAlgorithm ++ derWrap 0x30 [] ++ derWrap 0x30 (derWrap 0x18 farDate ++ derWrap 0x18 farDate) ++
    derWrap 0x30 [] ++ keyInfo (publicKey 6))
  let sig := ecdsaSign 5 (beNat (digestBytes (sha384 signed))) 2
  derWrap 0x30 (signed ++ sigAlgorithm ++ derWrap 3 (0 :: derWrap 0x30 (derNumber sig.1 ++ derNumber sig.2)))

/-- An IDENT of node 3, an endpoint, with that certificate as its chain, signed with the scalar 6 and the nonce 3 (R397, R398). -/
def ident : List Byte :=
  let n := leafCert.length
  let body := leBytes 2 3 ++ leBytes 1 2 ++ leBytes 1 0 ++ leBytes 4 0 ++ leBytes 2 1 ++ leBytes 2 n ++ List.replicate 236 0 ++ leafCert ++
    List.replicate ((8 - n % 8) % 8) 0
  let sig := ecdsaSign 6 (beNat (digestBytes (sha384 body))) 2
  body ++ leBytes 48 sig.1 ++ leBytes 48 sig.2

/-- The owner record lists the scalar 5's key as an ENDPOINT key. -/
def anchored (s : State) : State := { s with owner := some ⟨1, 1, false, 0, [⟨5, 0, publicKey 5⟩], []⟩ }

theorem meets_IdentsAreExchanged :
    (let s := linked 4096 (link 0 2)
     runs s .lanes = true ∧ fitsPort s (portNo 0) = true ∧ 2 ≤ (linkOf s 0).state ∧ (linkOf s 0).sentAt = none ∧ 2 ≤ portState s 0 ∧
      identComplete ident = true ∧ identAssembled s 0 ident = true ∧ natAt ident 0x28 16 = (linkOf s 0).nonce.toNat ∧
      identSound (anchored s) ident ⟨true⟩ = some (publicKey 6) ∧ identSound s ident ⟨true⟩ = none) ∧
    (let s := setLink (running (planOn true []) 4194304) (link 0 2)
     runs s .lanes = true ∧ (linkOf s 0).state = 2 ∧ (linkOf s 0).ident = none ∧ (govPlan s).isSome = true ∧
      (linkOf s 0).since + 2 ^ 22 ≤ s.mer ∧ (linkOf s 0).timedOut = false) := by decide +kernel

/-- R396: the first IDENT of DISCOVERY is due whatever it says. -/
theorem first_ident_is_due (body : List Byte) : identDue (linked 4096 (link 0 2)) 0 body = true := by
  have h : (linkOf (linked 4096 (link 0 2)) 0).sentAt = none := by decide +kernel
  simp [identDue, h]

/-! ### Faults, memory, Movers and block resets -/

/-- A MEM_CE message of stack 0, and its record. -/
def ceMsg : FaultMsg := ⟨5, 0x0900, 0x10, 0, 0xFFFF, 0, 0xFFFFFFFF, 0, 0, false⟩
def logged (raised : Nat) : State :=
  { dev with flt := { FaultCol.reset with log := [⟨0, ceMsg, 0, raised, false, false, false⟩] } }

theorem meets_CollectorStoresTheFirstMessage :
    (runs dev .service = true ∧ dev.flt.queue = []) ∧
    (let s := { logged 0 with flt := { (logged 0).flt with queue := [{ ceMsg with time := 9 }, ceMsg] } }
     runs s .service = true ∧ firstMsg s.flt.queue = some ceMsg ∧ s.flt.log.length < 4096 ∧ escalates s ceMsg = true) := by
  decide +kernel

theorem meets_RecordsAreAcknowledgedAndStandbysChecked :
    (∀ x ∈ [(0x0202, 1), (0x0301, 0), (0x0304, 1), (0x0502, 1)],
      ∀ m ∈ [2 ^ 30 - 1, 2 ^ 30], let s := { dev with mer := m }
      runs s .core = true ∧ pagePresent s x.1 = true ∧ [2, 3, 5].contains (pageKind x.1) = true ∧ unitRole s x.1 = x.2 ∧
        ((kvGet s.eng.checked x.1).getD 0 + 2 ^ 30 ≤ s.mer ↔ m = 2 ^ 30) ∧ (s.flt.queue.filter (·.page == x.1)).length < 16) ∧
    (∀ c ∈ [0, 1, 2], let s := logged c
     runs s .service = true ∧ pageListed s 0x0900 = true ∧ c < 3 ∧
      (s.flt.log.find? fun r => !r.acked && r.msg.page == 0x0900 && r.raised == c) = some ⟨0, ceMsg, 0, c, false, false, false⟩ ∧
      (unacked s 2 = [] ↔ c ≠ 2)) ∧
    pageListed dev 0x0914 = false ∧ pageListed dev 0x00FF = false := by decide +kernel

/-- Pseudo-channel 4 of stack 0 is relocated. -/
def relocated (r : Reloc) : State := { dev with mem := { MemSys.reset with relocs := [r] } }
def reloc : Reloc := ⟨0, 4, [], false, 1440, true, true, false, false⟩

theorem meets_RelocationKeepsTheData :
    (runs dev .memory = true ∧ fitsStack dev 0 = true ∧ pcState dev 0 4 = 0 ∧ pcState dev 0 4 ≠ 2) ∧
    (let s := relocated { reloc with repaired := true, repairing := false }
     runs s .memory = true ∧ fitsStack s 0 = true ∧ (relocOf s 0 4).isSome = true ∧ pcState s 0 4 = 2 ∧ pcState s 0 4 ≠ 0) ∧
    (∀ n ∈ [0, 1439], let s := relocated { reloc with copied := n }
     (relocOf s 0 4).isSome = true ∧ pcState s 0 4 = 1 ∧ segmentCopies s { reloc with copied := n } = true) ∧
    (∀ n ∈ [1, 2, 1440], let s := relocated { reloc with copied := n, restoring := true }
     (relocOf s 0 4).isSome = true ∧ pcState s 0 4 = 1 ∧ segmentCopies s { reloc with copied := n, restoring := true } = true ∧
      s.mem.waiting = [] ∧ rowsWaiting s 0 4 = []) ∧
    (let s := relocated reloc
     relocOf s 0 4 = some reloc ∧ pcState s 0 4 = 2 ∧ reloc.repairing = true) := by decide +kernel

theorem meets_LostPseudoChannelSparesTheOthers :
    let s := onLink 2000
    runs s .memory = true ∧ fitsStack s 0 = true ∧ 31 < 32 ∧ relocOf s 0 31 = none ∧ pcLost s 0 31 = false ∧
      (s.mem.relocs.any fun q => q.stack == 0 && q.lost) = false ∧ (physOf s 0).stack = 0 ∧ (physOf s 0).pc ≠ 31 ∧
      stepsRun s = true ∧ pastCut s = false := by decide +kernel

/-- R293: 105 °C is Critical, and a stack leaves it below 102 °C. -/
theorem test_bands : nextBand 0 84 = 0 ∧ nextBand 0 85 = 1 ∧ nextBand 0 95 = 2 ∧ nextBand 0 105 = 3 ∧ nextBand 3 102 = 3 ∧
    nextBand 3 101 = 2 ∧ nextBand 1 81 = 0 := by decide

theorem meets_BandsRefreshAndSplit :
    (runs dev .memory = true ∧ fitsStack dev 0 = true ∧ dev.mer % 1024 = 0 ∧ (onLink 2000).mer % 1024 ≠ 0) ∧
    (let s := { dev with mem := { MemSys.reset with redirects := [fixOf 0 0x400005 1] } }
     runs s .memory = true ∧ fitsStack s 0 = true ∧ selfRef s 0 = false ∧ (s.mem.redirects.any (sameRow (fixOf 0 0x400005 1))) = true) ∧
    (let n := splitMax dev
     splitMax dev < n + 1 ∧ n ≤ splitMax dev ∧ planRuns dev = false ∧ allNormal dev = true ∧
      getF dev 0 Reg.memSplit_nearUnits ≠ n ∧ allNormal (relocated reloc) = false ∧ planRuns (relocated reloc) = false ∧
      splitMax (onLink 2000) = n ∧ planRuns (onLink 2000) = true) := by decide +kernel

/-- MOV_CREC0 to MOV_CREC5 of Mover 0 hold a copy of bytes from 0 to 4096, with a digest (R238, R254). -/
def moverSet (len : Nat) : State :=
  ([0x01 + 0x100 + 0xFFFFFFFF * 2 ^ 32, 0, 0xFFFFFFFF, 4096, len, 0].zipIdx).foldl
    (fun s x => setFI s 0 0 x.2 Reg.movCrec_body x.1) dev
def moverJob : MovJob := ⟨0, 3, crecRec (moverSet 32) 0⟩
def moverRuns : State := let s := setChStat (moverSet 32) 0 3 1; { s with eng := { Engines.reset with movJobs := [moverJob] } }

theorem meets_MoversTransferByCommand :
    (∀ n ∈ [0, 32], let s := moverSet n
     runs s .memory = true ∧ (crecRec s 0).len = n ∧ (crecRec s 0).digest = true ∧ (crecRec s 0).srcOfs = 0 ∧
      (crecRec s 0).dstOfs = 4096 ∧ crecOk s 0 = true ∧
      (!planRuns s && powerState s == 0 && !movStopped s 0 && chStat s 0 3 != 1 && getF s 0 Reg.movStatus_failed != 1) = true) ∧
    (crecOk dev 0 = false ∧ runs dev .memory = true) ∧
    (let s := moverRuns
     runs s .memory = true ∧ powerState s = 0 ∧ (s.eng.movJobs.find? fun j => j.mover == 0 && j.channel == 3) = some moverJob ∧
      (s.eng.movJobs.find? fun j => j.mover == 0 && j.channel == 4) = none ∧ s.mem.ue = [] ∧ s.mem.dead = [] ∧
      (s.mem.relocs.any (·.lost)) = false) ∧
    (let s := setChStat (setF dev 0 Reg.movStatus_stopped 1) 0 3 4
     runs s .memory = true ∧ movStopped s 0 = true ∧ chStat s 0 3 = 4) := by decide +kernel

theorem meets_CancelAndRecoverAreIgnoredWhereTheyDoNotFit :
    (let s := moverRuns
     runs s .memory = true ∧ moverJob ∈ s.eng.movJobs ∧ moverJob.mover = 0 ∧ moverJob.channel = 3 ∧
      (∀ j ∈ s.eng.movJobs, ¬ (j.mover = 0 ∧ j.channel = 4)) ∧ movStopped s 0 = false) := by decide +kernel

theorem meets_BlocksAreResetAndReleased :
    (let s := working 1050 .reset
     runs s .core = true ∧ pagePresent s 0x02FF = false ∧ pagePresent s 0x0200 = true ∧ resettable 0x0200 = true ∧
      pagePresent s 0x0100 = true ∧ resettable 0x0100 = false ∧ (barrierHeld s 0x0200 || blockAsked s 0x0200 0) = false ∧
      (accessPages s).contains 0x0200 = false ∧ blockUsed s 0x0200 = true ∧ stepsRun s = true ∧ pastCut s = false ∧
      pagePresent s 0x0600 = true ∧ 4 < 5 ∧ resettable 0x0600 = true ∧ blockUsed s 0x0700 = false ∧ resettable 0x0700 = true ∧
      blockAsked s 0x0700 0 = false) ∧
    (let b : BlockReset := ⟨0x0200, 0, false, false, 0, false⟩
     let s := { dev with mer := 64, pwr := { Power.reset with blocks := [b] } }
     blockAsked s 0x0200 0 = true ∧ runs s .core = true ∧ pagePresent s 0x0200 = true ∧
      (s.pwr.blocks.find? fun b => b.page == 0x0200 && b.unit == 0 && !b.waits && !b.held) = some b ∧
      s.mer < b.since + getF s 0 Reg.rstCfg_idleTo * 64) ∧
    (∀ m ∈ [63, 64], let b : BlockReset := ⟨0x0200, 0, false, true, 0, false⟩
     let s := { dev with mer := m, pwr := { Power.reset with blocks := [b] } }
     (s.pwr.blocks.find? fun b => b.page == 0x0200 && b.unit == 0 && b.held && !b.forever) = some b ∧
      (b.since + 64 ≤ s.mer ∨ s.mer < b.since + 64)) := by decide +kernel

/-! ### Host ports and the staging responder -/

/-- Fields of selected entries set one after another, each as (index, register, field, value), of page instance 0. -/
def sets (s : State) (l : List (Nat × Nat × Fld × Nat)) : State := l.foldl (fun s x => setFI s x.1 0 x.2.1 x.2.2.1 x.2.2.2) s

/-- H0 and H1 are up; station 0 sits on H0 and station 1 on H1, both forwarding in VID 1. -/
def hosts : State :=
  setF (sets { dev with mer := 100 } [(0, 0, Reg.hostPortStatus_link, 1), (0, 0, Reg.hostStaEntry_mac, 10), (0, 0, Reg.hostStaEntry_vid, 1),
    (0, 0, Reg.hostStaEntry_valid, 1), (0, 0, Reg.hostStaAttr_forward, 1), (1, 0, Reg.hostStaEntry_mac, 11), (1, 0, Reg.hostStaEntry_vid, 1),
    (1, 0, Reg.hostStaEntry_port, 1), (1, 0, Reg.hostStaEntry_valid, 1), (1, 0, Reg.hostStaAttr_forward, 1)]) 1 Reg.hostPortStatus_link 1

/-- A frame of 64 bytes. -/
def frameOf (da sa : Nat) : List Byte := let b := beBytes 6 da ++ beBytes 6 sa ++ beBytes 2 0x88B5 ++ List.replicate 46 0; b ++ fcsOf b

theorem meets_FramesAreCheckedAndQueued :
    (hostLink dev 0 = false ∧ hostLink hosts 0 = true ∧ hostServes hosts (hostDie 0) = true ∧
      formCode hosts 0 (frameOf 11 10) true = 1 ∧ formCode hosts 0 (frameOf 11 10) false = 0 ∧
      stationOf hosts 0 (vidOf hosts 0 (frameOf 11 12)) (netNat (frameOf 11 12) 6 6) = none ∧
      getF hosts (hostDie 0) Reg.hostStranger_valid = 0) ∧
    (let s := { hosts with flt := { FaultCol.reset with stopped := true } }
     hostLink s 0 = true ∧ hostServes s (hostDie 0) = false ∧ portServes s 0 = true ∧ hostLink s 1 = true ∧ portServes s 1 = false) ∧
    (let s := hosts
     let f := frameOf 11 10
     let s1 := bump (bump (bump s 0 Reg.hostCntRxframes) 0 Reg.hostCntRxbytes f.length) 0 Reg.hostCntFecCorr 3
     formCode s 0 f false = 0 ∧ stationOf s 0 (vidOf s 0 f) (netNat f 6 6) = some 0 ∧
      getFI s 0 (hostDie 0) 0 Reg.hostStaAttr_policer = 0 ∧ destOf s 0 (vidOf s 0 f) 0 f = .port 1 ∧
      (queueCode s1 1 (queueFor s 1 (pcpOf f)) 3 f.length).2 = 0 ∧
      (admitFrame (queueCode s1 1 (queueFor s 1 (pcpOf f)) 3 f.length).1 (hostDie 1) f.length (.forward false) (BitVec.ofNat 7 2)).2.isSome
        = true) := by decide +kernel

/-- A frame waits in queue 2 of H1, and one with a later finish time in queue 3. -/
def queued : State :=
  let g : QFrame := ⟨frameOf 11 10, 1, 0, 84, 3, 100, 50, 1, 0, none⟩
  let s := setQueue (setQueue hosts 1 2 ⟨[g], 50, 0, 0, 0⟩) 1 3 ⟨[{ g with finish := 60, buf := 1 }], 60, 0, 0, 0⟩
  { s with host := { s.host with bufs := [⟨0, 1, 0, 2⟩, ⟨0, 1, 1, 2⟩] } }

theorem meets_SchedulerSendsTheSmallestFinishTime :
    (hostServes hosts (hostDie 1) = true ∧ hostLink hosts 1 = true ∧ (∀ q < 8, agedHead hosts 1 q = false) ∧ chosenQueue hosts 1 = none) ∧
    (hostServes queued (hostDie 1) = true ∧ hostLink queued 1 = true ∧ (∀ q < 8, agedHead queued 1 q = false) ∧
      chosenQueue queued 1 = some 2 ∧ queueEligible queued 1 3 = true) := by decide +kernel

/-- R451, R457: the frame leaves untagged, as its VID is the port's PVID. -/
theorem test_frame_leaves : (after (.frameDequeue 1) queued).out = [.frame 100 1 (frameOf 11 10)] := by decide +kernel

theorem meets_HostLinksComeAndGo :
    (let s := setF dev 0 Reg.hostPortCfg_enable 1
     canLink s 0 = true ∧ portServes s 0 = true) ∧ canLink dev 0 = false := by decide +kernel

/-- Queues of H0 that take an answer. -/
def answers (s : State) : State :=
  (List.range 8).foldl (fun s q => setFI (setFI (setFI s 0 0 q Reg.hostQ_weight 1) 0 0 q Reg.hostQ_limit 64) 0 0 q Reg.hostRedG_max 64) s

/-- A session with every privilege, whose client sits behind H0. -/
def ses : Session := ⟨0, some 4, 0xFF, 0, 0, 0, [], ⟨0, 10, 1, 0, false, 7, 4000⟩⟩
def serving (c : Control := .reset) : State := { answers dev with mer := 640, ctl := { c with sessions := [ses] } }

/-- Queue pair 5 of die 0 is valid with expected PSN 7, and window 2 has R_Key 9, 4096 bytes from 8192 and both rights. -/
def staged (s : State) : State :=
  sets (answers s) [(5, 0, Reg.hostQpCfg_valid, 1), (5, 0, Reg.hostQpPsn_epsn, 7), (2, 0, Reg.hostWinKey_rkey, 9), (2, 0, Reg.hostWinKey_valid, 1),
    (2, 0, Reg.hostWinKey_write, 1), (2, 0, Reg.hostWinKey_read, 1), (2, 0, Reg.hostWinBase_base, 8192), (2, 0, Reg.hostWinLen_len, 4096)]

/-- A WRITE Only packet of 4 bytes to virtual address 16 of the window. -/
def pkt (psn : Nat) : RdmaPkt := ⟨0x10005, psn, 0, .only, 9, 16, 4, [1, 2, 3, 4], false, true, false, 0, false, false, 7⟩
def pktAt (psn : Nat) : RdmaPkt := pktAtIndex (pkt psn) 0

/-- Node 1 runs a plan whose region 1, from 8192 on, has the STAGING flag. -/
def stagedPlan : State := staged (running { planOn true [] with regions := [⟨1, 0, 0, 1, 8192, 4096⟩] } 2000)

/-- A whole message waits for HBM. -/
def pendPkt : PendPkt := ⟨0, 5, 7, 2, 8208, [1, 2, 3, 4], true, 1, 0, [(8208, [1, 2, 3, 4])], none, replyAddr dev 0 (pkt 7)⟩
def pended : State :=
  let s := staged dev
  { s with host := { s.host with packets := [pendPkt], bufs := [⟨0, 1, 0, 0x40⟩] } }

theorem packets_come : ∀ s ∈ [staged dev, stagedPlan], PacketComes s 0 (pktLen (pkt 7)) ∧ PacketComes s 0 (16 + frameBytes (pkt 7)) := by
  decide +kernel

theorem answers_leave : ∀ s ∈ [staged dev, stagedPlan, pended, setQp (staged dev) { QueuePair.fresh 0 5 with ackPsn := some 7 }, serving,
    answers hosts], CanAnswer s 0 := by decide +kernel

theorem meets_WritePacketsReachTheirWindow :
    (∀ s ∈ [staged dev, stagedPlan],
      hostServes s 0 = true ∧ (replyAddr s 0 (pkt 7)).port = 0 ∧ (pkt 7).icrcOk = true ∧
      qpnHere 0 (pkt 7) = true ∧ qpLive s 0 5 = true ∧ getFI s 5 0 0 Reg.hostQpCfg_station = (pkt 7).station ∧
      psnAhead s 0 (pktAt 7) = 0 ∧ (pkt 7).other = false ∧ wroteNow s (regKey 5 (pageOf 0xE 0) 0x1A0) = false ∧ s.host.moves = [] ∧
      (pkt 7).data ≠ [] ∧ waitingOf s 0 5 = [] ∧
      pktPlace s 0 (pktAt 7) = some (9, 16, 4) ∧ winGrants s 0 9 16 4 true = some 2 ∧ sealed s (winBase s 0 2 + 16) 4 = false ∧
      SoundHbm s ∧ psnAhead s 0 (pktAt 9) = 2 ∧ 2 ^ 23 ≤ psnAhead s 0 (pktAt 6) ∧
      (qpOf s 0 5).naked = false ∧ pktPlace s 0 { pktAt 7 with pos := .last } = none ∧
      pktPlace s 0 { pktAt 7 with va := 4093 } = some (9, 4093, 4) ∧ winGrants s 0 9 4093 4 true = none) ∧
    (qpOf (setQp (staged dev) { QueuePair.fresh 0 5 with done := some 6 }) 0 5).done = some 6 ∧
    planRuns (staged dev) = false ∧ planRuns stagedPlan = true ∧ { pkt 7 with icrcOk := false }.icrcOk = false := by decide +kernel

/-- A packet whose frame waits for the responder needs no other buffer. -/
theorem meets_packet_in_its_frame :
    let f : LocalFrame := ⟨0, true, 3, 90, [], (1, 0), []⟩
    PacketComes { staged dev with host := { (staged dev).host with locals := [f] } } 0 9000 := by decide +kernel

theorem meets_AcksFollowTheBytesAndReadsAnswer :
    (let s := setQp (staged dev) { QueuePair.fresh 0 5 with ackPsn := some 7, peer := some (replyAddr dev 0 (pkt 7)) }
     hostServes s 0 = true ∧ (qpOf s 0 5).ackPsn = some 7 ∧ (qpOf s 0 5).peer = some (replyAddr dev 0 (pkt 7)) ∧
      (replyAddr dev 0 (pkt 7)).port = 0) ∧
    (let s := staged dev
     (qpOf s 0 5).ackPsn = none ∧ ((pendingOf s 0 5).any (·.ends)) = false ∧ 
      (replyAddr s 0 (pkt 7)).port = 0 ∧ qpnHere 0 (pkt 7) = true ∧ (qpOf s 0 5).message = none ∧
      winGrants s 0 9 16 4 false = some 2 ∧ waitingOf s 0 5 = [] ∧ planRuns s = false ∧
      wroteNow s (regKey 5 (pageOf 0xE 0) 0x1A0) = false ∧ (pkt 7).len ≤ qpMtu s 0 5 ∧ psnAhead s 0 (pktAt 7) = 0) ∧
    (let s := stagedPlan
     planRuns s = true ∧ (pkt 7).len ≠ 0 ∧ winGrants s 0 9 16 4 false = some 2 ∧ (qpOf s 0 5).message = none ∧ waitingOf s 0 5 = [] ∧
      wroteNow s (regKey 5 (pageOf 0xE 0) 0x1A0) = false ∧ psnAhead s 0 (pktAt 7) = 0 ∧ (qpOf s 0 5).ackPsn = none) ∧
    (hostServes pended 0 = true ∧ (qpOf pended 0 5).ackPsn = none ∧ planRuns pended = false ∧ pended.host.moves = [] ∧
      pendingOf pended 0 5 = [pendPkt] ∧ pendPkt.ends = true ∧ pendPkt.left = [(pendPkt.base, pendPkt.data)] ∧
      pendPkt.peer.port = 0) := by
  decide +kernel

theorem meets_WindowsPolicersAndQueuePairs :
    (let s := staged dev
     hostServes s 0 = true ∧ getFI s 2 0 0 Reg.hostWinKey_closed = 0 ∧ winLen s 0 2 ≠ 0 ∧ digestFront s 0 = none) ∧
    (let s := sets (staged dev) [(2, 0, Reg.hostWinLen_len, 0)]
     winLen s 0 2 = 0 ∧ windowBusy s 0 2 = false ∧ digestFront s 0 = none ∧ getFI s 2 0 0 Reg.hostWinKey_closed = 0) ∧
    (let s := sets (staged dev) [(2, 0, Reg.hostWinKey_closed, 1)]
     getFI s 2 0 0 Reg.hostWinKey_closed = 1 ∧ getFI s 2 0 0 Reg.hostWinKey_digesting = 0) ∧
    (∀ m ∈ [126, 127], let s := sets (staged { dev with mer := m }) [(2, 0, Reg.hostWinKey_closed, 1), (2, 0, Reg.hostWinKey_digesting, 1)]
     let s := { s with host := { s.host with digests := [(0, 2)], digestAt := [(0, 0)] } }
     hostServes s 0 = true ∧ s.host.digests = [(0, 2)] ∧ windowBusy s 0 2 = false ∧ s.host.packets = [] ∧ s.host.caps = [] ∧
      (s.mer + 1 < (kvGet s.host.digestAt 0).getD s.mer + ceilDiv (winLen s 0 2) 32 ↔ m = 126) ∧ SoundHbm s) ∧
    (∀ n ∈ [0, 1], let s := staged dev
     bits (BitVec.ofNat 64 (n * 2 ^ 24)) 25 2 ≠ 3 ∧ bits (BitVec.ofNat 64 (n * 2 ^ 24)) 24 1 = n ∧
      getFI s (getF s 0 Reg.hostQpSel_index) 0 0 Reg.hostQpCfg_valid = 0) ∧
    bits (BitVec.ofNat 64 (3 * 2 ^ 25)) 25 2 = 3 := by decide +kernel

/-! ### The control channel -/

/-- A message of a TYPE with its COUNT, TAG 7 and its body (R496). -/
def message (kind count : Nat) (body : List Byte) : List Byte :=
  leBytes 1 kind ++ [0] ++ leBytes 2 count ++ leBytes 4 7 ++ List.replicate 16 0 ++ body

/-- A ClientHello with or without the cookie and the supported suite, of a self-signed client behind H0. -/
def clientOffer (suite cookie : Bool) : HelloAuth := ⟨suite, true, true, true, cookie, none, ⟨0, 10, 1, 0, false, 7, 4000⟩⟩

theorem meets_SessionsOpenCarryAndClose :
    (∀ h ∈ [clientOffer true false, clientOffer true true], let port := (helloClient h 0).port
     port = 0 ∧ portReached dev port = false ∧ runs dev .service = true ∧ portReached hosts port = true ∧ helloSupported h = true ∧
      freeSession hosts 0 = some 0 ∧ anchorPriv hosts none = none ∧ anchorPriv { hosts with owner := none } none = some 1 ∧
      freeSession { hosts with owner := none } 0 = some 0 ∧ portReached { hosts with owner := none } port = true) ∧
    helloSupported (clientOffer false true) = false ∧
    (let s := { hosts with ctl := { Control.reset with sessions := [0, 1, 2, 3].map fun k => { ses with id := k } } }
     portReached s 0 = true ∧ freeSession s 0 = none) ∧
    (parseMsg (message 0 0 []) = (7, .hello) ∧ (parseMsg (message 1 0 [])) = (7, .read 0 []) ∧
      parseMsg (message 2 0 []) = (7, .write 0 []) ∧ parseMsg (message 3 5 (leBytes 8 2)) = (7, .ledgerRead 2 5) ∧
      parseMsg (message 4 0 (leBytes 8 1)) = (7, .certGet 1) ∧ parseMsg (message 5 0 []) = (7, .nop) ∧
      parseMsg (message 6 0 (leBytes 8 1 ++ leBytes 16 3)) = (7, .attest 1 0 3) ∧
      parseMsg (message 7 1 (leBytes 4 2 ++ leBytes 4 0 ++ leBytes 8 9 ++ [5])) = (7, .image 2 0 9 [5]) ∧
      parseMsg (message 9 0 []) = (7, .bad 9 0)) ∧
    (datagramLen (message 9 0 []) ≤ 1400 ∧ datagramLen (List.replicate 1370 0) ≤ 1400 ∧ 1400 < datagramLen (List.replicate 1371 0)) ∧
    (∀ m ∈ [2 ^ 35 - 1, 2 ^ 35], let s := { serving with mer := m }
     runs s .service = true ∧ sessionOf s 0 = some ses ∧ (ses.last + 2 ^ 35 ≤ s.mer ∨ s.mer < ses.last + 2 ^ 35)) ∧
    (∀ n ∈ [2 ^ 24 - 1, 2 ^ 24], let s := { serving with ctl := { Control.reset with sessions := [{ ses with rx := n }] } }
     sessionOf s 0 = some { ses with rx := n } ∧ (2 ^ 24 ≤ n ∨ (n < 2 ^ 24 ∧ ses.tx < 2 ^ 24))) := by decide +kernel

theorem meets_ServiceMessagesAreAnswered : (∀ kind ∈ [0, 3, 4, 5, 6, 7, 1, 2, 9],
    ses.id < 8 ∧ runs serving .service = true ∧ sessionOf serving ses.id = some ses ∧ serving.ctl.requests = [] ∧
      serving.ctl.access = none ∧ ∀ k ∈ ses.kept, ¬ (k.kind = kind ∧ k.tag = 7)) ∧ ses.peer.port = 0 := by decide +kernel

theorem asks (kind : Nat) : Asks serving ses kind 7 :=
  ⟨by decide, by decide +kernel, by decide +kernel, rfl, rfl, fun _ h => nomatch h⟩

theorem meets_HelloNamesTheDevice : Asks serving ses 0 7 := asks 0

theorem meets_ImagesArriveInChunks :
    (let s := serving
     imageDenied s ses.priv 1 = false ∧ imageDenied s 0x0F 1 = true ∧ uploadRefused s 1 = false ∧ uploadRefused s 2 = false ∧
      s.fw.upload = none ∧ [(5 : Byte)].length < 9 ∧ 9 ≤ objectMax 1 ∧ 9 ≤ objectMax 2) ∧
    (∀ o ∈ [1, 2], let b := if o = 2 then 0 else uploadSlot serving
     uploadRefused { serving with fw := { Firmware.shipped with badFlash := [b] } } o = true) ∧
    (∀ o ∈ [1, 2], let u : Upload := ⟨0, o, 9, 1, List.replicate 8 5⟩
     let s := { serving with fw := { Firmware.shipped with upload := some u } }
     s.fw.upload = some u ∧ u.session = ses.id ∧ u.next = 1 ∧ u.data.length + [(5 : Byte)].length = u.total ∧ uploadRefused s o = false ∧
      imageDenied s ses.priv o = false) := by decide +kernel

/-- The access of the session stands: it was sent at tick 0, and one block stays silent, or all answered. -/
def accessing (mer : Nat) (silent : Option Nat) (m : Msg) : State :=
  { serving { Control.reset with requests := [⟨0, 7, m, 0, 0⟩], access := some (0, silent) } with mer := mer }

/-- A write of PLN_LOAD_ADDR. -/
def writeAddr : WriteEntry := ⟨0x0100 * 4096 + 0x100, 0, 0xFF, 64⟩

/-- A read of PLN_STATE. -/
def readState : ReadEntry := ⟨0x0100 * 4096 + 0x120, 0, 0⟩

theorem meets_AccessesAreCheckedFirst :
    (worst ([readState].map (readStatus serving ses.priv))).1 = 0 ∧
    (worst ([{ readState with addr := 0xFF000 }].map (readStatus serving ses.priv))).1 = 2 ∧
    (worst (writeStatuses serving ses.priv [] [writeAddr])).1 = 0 ∧ (worst (rangeStatuses serving [writeAddr])).1 = 0 ∧
    (worst (writeStatuses serving ses.priv [] [writeAddr, writeAddr])).1 = 4 ∧
    (worst (writeStatuses serving ses.priv [] [⟨0x0100 * 4096 + 0x118, 0, 0xFFFFFFFFFFFFFFFF, 1⟩])).1 = 0 ∧
    (worst (rangeStatuses serving [⟨0x0100 * 4096 + 0x118, 0, 0xFFFFFFFFFFFFFFFF, 1⟩])).1 = 7 := by decide +kernel

theorem meets_AccessesActInOneTick :
    (let s := accessing 65 none (.read 1 [readState])
     runs s .service = true ∧ sessionOf s ses.id = some ses ∧ (s.pwr.blocks.any (·.waits)) = false ∧ accessDue s = false) ∧
    (let s := accessing 64 none (.read 1 [readState])
     sessionOf s ses.id = some ses ∧ accessDue s = true ∧ s.ctl.requests = [⟨ses.id, 7, .read 1 [readState], 0, 0⟩] ∧
      ([readState].all fun e => e.flags == 0 || isSelector (addrPage e.addr) (addrOff e.addr)) = true) ∧
    (let s := accessing 64 none (.write 1 [writeAddr])
     accessDue s = true ∧ lockedEntry s [writeAddr] = none ∧
      ([writeAddr].all fun e => !(addrPage e.addr == 0x1400 && addrOff e.addr == 0x138)) = true) ∧
    (let e : WriteEntry := ⟨0x0C00 * 4096 + 0x100, 0, 1, 1⟩
     let s := setF (accessing 64 none (.write 1 [e])) 0 Reg.plnState_active 2
     runs s .service = true ∧ sessionOf s ses.id = some ses ∧ accessDue s = true ∧ lockedEntry s [e] = some 0) ∧
    (∀ m ∈ [16383, 16384], let s := accessing m (some 0) (.read 1 [readState])
     s.ctl.access = some (0, some 0) ∧ s.ctl.requests = [⟨0, 7, .read 1 [readState], 0, 0⟩] ∧ (16384 ≤ s.mer ∨ s.mer < 16384)) := by
  decide +kernel

/-! ### Registers, firmware, resets and power -/

/-- A write entry as registerWrite spells it. -/
def entry (page off : Nat) (mask value : Word) : WriteEntry := ⟨page * 4096 + off, 0, mask, value⟩

theorem meets_RegisterWritesSetMaskedBits :
    (pageListed dev 0x00FF = false ∧ pageListed dev 0x0C00 = true ∧ pageServes dev 0x0C00 = true ∧
      regStands 0x0C00 0xFF8 = false ∧ regStands 0x0C00 0x100 = true) ∧
    (let s := { dev with flt := { FaultCol.reset with stopped := true } }
     pageListed s 0x0C00 = true ∧ pageServes s 0x0C00 = false) ∧
    (let s := running (planOn true []) 2000
     pageListed s 0x0C00 = true ∧ pageServes s 0x0C00 = true ∧ (lockedEntry s [entry 0x0C00 0x100 1 1]).isSome = true) ∧
    (lockedEntry dev [entry 0x0100 0x118 (BitVec.allOnes 64) 1] = none ∧
      rangeStatuses dev [entry 0x0100 0x118 (BitVec.allOnes 64) 1] ≠ [0]) ∧
    (∀ x ∈ [(0x0100, 0x100), (0x0100, 0x108), (0x0100, 0x118), (0x1300, 0x100), (0x1400, 0x100)],
      pageListed dev x.1 = true ∧ pageServes dev x.1 = true ∧ regStands x.1 x.2 = true ∧ 8 ≤ x.2 ∧
        lockedEntry dev [entry x.1 x.2 0 0] = none ∧ rangeStatuses dev [entry x.1 x.2 0 0] = [0] ∧
        (pageKind x.1, x.2) ∈ [(0x1, 0x100), (0x1, 0x108), (0x1, 0x118), (0xF, 0x100), (0x13, 0x100), (0x14, 0x100)]) := by
  decide +kernel

theorem meets_SelectorsFreezeAndLedger :
    (pageListed dev 0x0A00 = true ∧ pageServes dev 0x0A00 = true ∧ getH dev 0x0A00 Reg.cntFreeze_freeze = 0 ∧
      pageListed dev 0x0400 = true ∧ pageServes dev 0x0400 = true ∧ 255 < 256) ∧
    (let s := setF (setF dev 0 Reg.secCtFirst_first 2) 0 Reg.secCtNext_next 5
     runs s .service = true ∧ (1#64).toNat < getF s 0 Reg.secCtFirst_first ∧ getF s 0 Reg.secCtNext_next < (6#64).toNat ∧
      getF s 0 Reg.secCtFirst_first ≤ (2#64).toNat ∧ (5#64).toNat ≤ getF s 0 Reg.secCtNext_next) := by decide +kernel

/-- Both slots hold an image; a handover runs since tick 0. -/
def handing (mer : Nat) (active : Nat) : State :=
  let s := setF (setF { dev with mer := mer, pln := { Sequencer.reset with handover := some 0 } } 0 Reg.secFwState_slotB 1) 0
    Reg.secFwState_active active
  setF { s with fw := { s.fw with slotB := some ⟨[], 6, 2⟩ } } 0 Reg.plnState_active 1

theorem meets_FirmwareCommandsAndHandovers :
    (runs dev .service = true ∧ flashBad dev 0 = false ∧ slotState dev 0 = 1 ∧ slotState dev 1 ≠ 1 ∧ inDusk dev = false ∧
      0 = getF dev 0 Reg.secState_bootSlot ∧ 1 ≠ getF dev 0 Reg.secState_bootSlot ∧ flashBad dev 1 = false ∧
      slotState dev (otherSlot dev) ≠ 1) ∧
    (flashBad { dev with fw := { Firmware.shipped with badFlash := [0] } } 0 = true) ∧
    (let s := setF dev 0 Reg.secFwState_slotB 1
     slotState s (otherSlot s) = 1 ∧ getF s 0 Reg.plnState_staged = 0) ∧
    (dev.pln.handover = none) ∧
    (∀ m ∈ [2 ^ 21 - 1, 2 ^ 21, 2 ^ 21 + 1], let s := handing m 0
     runs s .service = true ∧ s.pln.handover = some 0 ∧ (s.mer < 2 ^ 21 ∨ 2 ^ 21 ≤ s.mer) ∧ (s.mer ≤ 2 ^ 21 ∨ 2 ^ 21 < s.mer) ∧
      slotBoots s (getF s 0 Reg.secFwState_active) = true ∧ (fwSlot s (getF s 0 Reg.secFwState_active)).isSome = true ∧
      planRuns s = true) := by decide +kernel

/-- The device in a phase. -/
def inPhase (p : Phase) : State := { dev with pwr := { Power.reset with phase := p } }

theorem meets_PinResetEndsEveryPlan : ∀ p ∈ [Phase.starting, .failed, .service, .dusk],
    let s := inPhase p
    s.pwr.phase = .starting ∨ s.pwr.phase = .failed ∨ s.pwr.phase = .service ∨ s.pwr.phase = .dusk := by decide +kernel

/-- A device that is held, with its pin, the absence of FREF, a flash pulse and the failed-start count. -/
def held (pin fref pulse : Bool) (n : Nat) : State :=
  setF { dev with pwr := { Power.reset with phase := .held, pin := pin, frefAbsent := fref, pulse := pulse } } 0 Reg.rstStatus_failed n

theorem meets_ResetsHoldAndRelease :
    (runs dev .service = true ∧ planRuns dev = false ∧ planRuns (running (planOn true []) 10) = true ∧
      runs (running (planOn true []) 10) .service = true ∧ dev.pwr.pin = false ∧ dev.pwr.pulse = false) ∧
    (∀ x ∈ [(true, true, false), (true, false, true), (true, false, false), (false, true, false), (false, false, true)], ∀ n ∈ [0, 2, 3],
      let s := held x.1 x.2.1 x.2.2 n
      s.pwr.phase = .held ∧ s.pwr.pin = x.1 ∧ s.pwr.frefAbsent = x.2.1 ∧ s.pwr.pulse = x.2.2 ∧ failCount s = n ∧
        (flashBad s 0 && flashBad s 1) = false) := by decide +kernel

theorem meets_StartsSucceedOrFailByReason :
    (let s := inPhase .rails
     s.pwr.phase = .rails ∧ (s.pwr.rails.drop 1).all (· == 1) = true ∧ s.pwr.pin = false ∧ s.pwr.frefAbsent = false ∧ failCount s ≠ 3 ∧
      (flashBad s 0 && flashBad s 1) = false) ∧
    (∀ r ∈ [0, 2 ^ 32 - 1, 2 ^ 32], let s := { inPhase .starting with pwr := { Power.reset with phase := .starting, ref := r } }
     s.pwr.phase = .starting ∧ s.pwr.scrub = false ∧ (s.pwr.ref < 2 ^ 32 ∨ 2 ^ 32 ≤ s.pwr.ref) ∧ s.pwr.ref ≤ s.pwr.began + 2 ^ 32 ∧
      slotBoots s (getF s 0 Reg.secFwState_active) = true ∧ s.ct.run = none ∧ seedMatches s.mfg = true) ∧
    seedMatches { Mfg.shipped with seed := 1 } = false ∧
    (let s := { inPhase .starting with pwr := { Power.reset with phase := .starting, scrub := true }, fw := ⟨none, none, none, none, [], []⟩ }
     s.pwr.scrub = true ∧ slotBoots s 0 = false ∧ slotBoots s 1 = false) ∧
    (∀ p ∈ [0x0300, 0x0600, 0x0A00, 0x0702, 0x0201, 0x0504], pagePresent dev p = true ∧ stepsRun dev = false) ∧
    dev.pwr.phase ≠ .starting := by decide +kernel

theorem meets_PowerCommandsBeginAChange :
    (let unfit := fun (s : State) => planRuns s || getF s 0 Reg.plnState_staged == 1 || getF s 0 Reg.pwrState_changing == 1
     runs dev .service = true ∧ unfit dev = false ∧ dev.eng.stage = [] ∧ unfit (setStaged dev 1) = true ∧
      (let s := { dev with eng := { Engines.reset with stage := [(64, 5)] } }
       unfit s = false ∧ s.eng.stage ≠ [] ∧ planRuns s = false ∧
        (s.mem.ue = [] ∧ s.mem.dead = [] ∧ (s.mem.relocs.any (·.lost)) = false)) ∧
      planRuns (running (planOn true []) 10) = true) := by decide +kernel

/-- 06 R227: the word of the commit stage stands in HBM once the stage is empty. -/
theorem test_stage_drains :
    let t := after .commitStageEmpty { dev with eng := { Engines.reset with stage := [(64, 0x0102)] } }
    t.mem.hbm = [(64, 2), (65, 1)] ∧ t.eng.stage = [] := by decide +kernel

/-- A change of power state toward a target. -/
def changing (cur target : Nat) : State :=
  setF (setF (setF dev 0 Reg.pwrState_state cur) 0 Reg.pwrState_changing 1) 0 Reg.pwrState_target target

theorem meets_PowerStateIsEntered :
    (runs dev .service = true ∧ getF dev 0 Reg.pwrState_changing ≠ 1) ∧
    (∀ x ∈ [(0, 1), (0, 2), (1, 3), (3, 2), (2, 1), (3, 0), (0, 4)], let s := changing x.1 x.2
     runs s .service = true ∧ powerState s = x.1 ∧ getF s 0 Reg.pwrState_changing = 1 ∧ getF s 0 Reg.pwrState_target = x.2) := by
  decide +kernel

theorem meets_OvertempTurnsTheModuleOff : powered dev = true ∧ powered (inPhase .held) = true ∧ 115 ≤ 115 := by decide +kernel

theorem meets_InputAndRails :
    (∀ mv ∈ [0, 37999, 38000, 39999, 40000, 40999, 41000, 60000, 60001, 62000, 62001],
      (mv < 38000 ∨ (38000 ≤ mv ∧ mv < 40000) ∨ (40000 ≤ mv ∧ mv ≤ 62000) ∨ 62000 < mv)) ∧
    (∀ x ∈ [(false, false), (true, false), (true, true)],
      let s := { dev with pwr := { Power.reset with phase := .off, vin := x.1, vinGood := x.2 } }
      (s.pwr.vin && s.pwr.vinGood) = (x.1 && x.2) ∧ s.pwr.phase = .off) ∧
    (∀ x ∈ [(640000, 0), (639999, 0), (1280000, 0), (1280000, 1)],
      let s := { dev with pwr := { Power.reset with phase := .rails, rail := 3, ref := x.1, railTry := x.2, retryAt := some 600000 } }
      s.pwr.phase = .rails ∧ 3 = s.pwr.rail ∧ (s.pwr.railAt + 640000 ≤ s.pwr.ref ∨ s.pwr.ref < s.pwr.railAt + 640000) ∧
        s.pwr.retryAt = some 600000 ∧ 600000 ≤ s.pwr.ref) ∧
    (∀ x ∈ [(0, 1), (3, 8), (8, 6)], x.2 < railFitted x.1 ∧ powered dev = true ∧ (dev.flt.queue.filter (·.page == 0x1500)).length < 16) ∧
    (let n := railNominal 5
     (95 * n ≤ 100 * 850 ∧ 100 * 850 ≤ 105 * n) ∧ 100 * 807 < 95 * n ∧ 105 * n < 100 * 893 ∧ powered (inPhase .off) = false) := by
  decide +kernel

theorem meets_SmbusAnswersAndLifetimesAreSaved :
    smbusServes dev = true ∧ smbusServes { dev with pwr := { Power.reset with vin := false } } = false ∧
    0x8B ∉ [0x88, 0x89, 0x97, 0x8D, 0x8E, 0x8F, 0xD0] ∧
    (∀ r ∈ [2 ^ 36 - 1, 2 ^ 36], let s := { dev with pwr := { Power.reset with ref := r } }
     s.pwr.phase = .service ∧ (s.pwr.savedAt + 2 ^ 36 ≤ s.pwr.ref ∨ s.pwr.ref < s.pwr.savedAt + 2 ^ 36)) := by decide +kernel

theorem meets_TheDeviceStaysTheDevice :
    let s := { dev with pending := [.sign, .nop ⟨0, 0, 0, 0⟩] }
    (match step s with
      | .next t => decide (t = { dev with pending := [.nop ⟨0, 0, 0, 0⟩], ct := { dev.ct with signReq := true } })
      | _ => false) = true ∧ s.mfg = Mfg.shipped := by decide +kernel

/-- A running device with an undefined range takes a step. -/
theorem meets_EveryByteKeepsOneHome :
    let s := makeUndef { dev with pending := [.sign] } 64 32 none
    (keysRise none s.mem.hbm = true ∧ keysRise none s.regs = true ∧ (∀ u ∈ s.mem.undef, u.epoch < s.mem.epoch) ∧ s.mem.undef ≠ []) ∧
    (match step s with
      | .next t => decide (t.mem.undef = s.mem.undef)
      | _ => false) = true := by decide +kernel

theorem meets_OnlyServiceServesInDuskAndAfterAStop :
    (inPhase .dusk).pwr.phase = .dusk ∧ fitsPort (inPhase .dusk) (portNo 0) = true ∧ fitsStack (inPhase .dusk) 0 = true ∧ 31 < 32 ∧
    (let s := { dev with flt := { FaultCol.reset with stopped := true } }
     s.pwr.phase = .service ∧ s.flt.stopped = true) := by decide +kernel

/-- A sink's burst waits while FIRM runs of region 1 cover the whole step, and while there are none. -/
def sinking (firm : Bool) : State :=
  let t : SlotTable := ⟨pcRes 4 0, 100000, 7, 0, 0, [⟨0, 100000, 8, 0, 0, 0, 1⟩]⟩
  let p := { planOn true [] with tables := if firm then [t] else [] }
  let x : MemAcc := ⟨.sink, 1, true, 4096, 32, 0, List.replicate 32 7, 50, 1⟩
  { running p 100 with eng := { Engines.reset with todo := [x] } }

theorem meets_AnEmptyQueueLetsATickPass :
    dev.pending = [] ∧ merRuns dev = true ∧ merRuns (inPhase .held) = false ∧ Quiet dev ∧ dev.eng.todo = [] ∧
    (∀ f, let s := sinking f
     let x : MemAcc := ⟨.sink, 1, true, 4096, 32, 0, List.replicate 32 7, 50, 1⟩
     s.pending = [] ∧ Quiet s ∧ s.eng.todo = [x] ∧ x.user = .sink ∧ x.len = x.bytes.length ∧ runs s .memory = true ∧ SoundHbm s ∧
      accServed s [] x = f ∧ x.left ≤ 1) := by decide +kernel

/-- Ports, dies and units that the shipped grade has and has not. -/
theorem meets_EveryCommandCompletes :
    ([.engineRun 0x001, .markerFrameSend 3, .laneLos 0 0, .vacateStart 0 31, .start 4 99, .hello ⟨7, 0, 0, 0⟩] : List Instr).all (unitsStand dev) = true ∧
    ([.engineRun 0, .markerFrameSend 96, .vacateStart 0 32, .hello ⟨8, 0, 0, 0⟩] : List Instr).all (fun c => !unitsStand dev c) = true := by
  decide +kernel

/-! ## Results that the manual or a standard gives -/

/-- The FP32 sum of FP32 codes, converted by an OCD. -/
def summed (o : Ocd) (l : List Nat) : Nat × NumFlags :=
  convert 0x100 o 149 (exaResult ((l.foldl (accCode 0x100 2) (exaInit, 0)).1))

/-- 03, the edge of FP16: 65520 is half-way between MAXF and 2^16, under each rounding and OVF_MODE; 65519 only sets INX. -/
theorem test_fp16_edge :
    (∀ x ∈ [(0, 0, 0x7C00, fOvf ||| fInx), (1, 0, 0x7BFF, fInx), (3, 0, 0x7BFF, fInx), (2, 0, 0x7C00, fOvf ||| fInx)],
      summed { ocd with fmt := 1, rnd := x.1, ovf := x.2.1 } [0x477FF000] = (x.2.2.1, x.2.2.2)) ∧
    summed { ocd with fmt := 1, ovf := 2 } [0x477FF000] = (0x7BFF, fOvf ||| fInx) ∧
    summed { ocd with fmt := 1 } [0x477FEF00] = (0x7BFF, fInx) := by decide +kernel

/-- 03, just beyond the largest FP32 code: MAXF plus 2^102, and plus 2^103, a tie. -/
theorem test_fp32_edge :
    summed ocd [0x7F7FFFFF, 0x72800000] = (0x7F7FFFFF, fInx) ∧ summed ocd [0x7F7FFFFF, 0x73000000] = (0x7F800000, fOvf ||| fInx) ∧
    summed { ocd with rnd := 1 } [0x7F7FFFFF, 0x72800000] = (0x7F7FFFFF, fInx) := by decide +kernel

/-- 03, the worked example: the partial sums of the two leaves and the zenith's result. -/
theorem test_two_level_tree :
    encodePsf 149 (exaResult (([0x4B800000, 0x3F800000].foldl (accCode 0x100 2) (exaInit, 0)).1))
      = (0xFFAA4000004000000000000000000000, false) ∧
    encodePsf 149 (exaResult (([0x3F800000].foldl (accCode 0x100 2) (exaInit, 0)).1)) = (0xFF924000000000000000000000000000, false) ∧
    encodePsf 149 (exaResult (([0x7B800000, 0x3A800000].foldl (accCode 0x100 2) (exaInit, 0)).1))
      = (0x000A4000000000000000000000000001, true) ∧
    summed ocd [0x4B800000, 0x3F800000, 0x3F800000] = (0x4B800001, 0) := by decide +kernel

/-- 03, a zero scale with BIAS 1.5 and FP16 output: a finite accumulation gives 1.5, an infinite one is invalid. -/
theorem test_zero_scale :
    let o := { ocd with fmt := 1, scale := 0, bias := 0x3FC00000 }
    summed o [0xC0E00000] = (0x3E00, 0) ∧ summed o [0x7F800000] = (0x7E00, fInv) := by decide +kernel

/-- R522, R523, R527: the record as shipped, whose keys a computation outside the model gave: the seed gives IK_PUB by HKDF-SHA-384 and
P-384, and the stored bytes are the record's fields. -/
theorem test_shipped_record : mfgSound Mfg.shipped = true := by decide +kernel

/-- R360: D21.5 at either disparity, K28.5, and the run of D17.7 at negative disparity, as IEEE 802.3 Clause 36 tabulates them. -/
theorem test_8b10b :
    (encodeGroup false (.data 0xB5)).1 = [1,0,1,0,1,0,1,0,1,0] ∧ (encodeGroup true (.data 0xB5)).1 = [1,0,1,0,1,0,1,0,1,0] ∧
    encodeGroup false .k285 = ([0,0,1,1,1,1,1,0,1,0], true) ∧ encodeGroup true .k285 = ([1,1,0,0,0,0,0,1,0,1], false) ∧
    encodeGroup false (.data 0xF1) = ([1,0,0,0,1,1,0,1,1,1], true) := by decide +kernel

/-- CRC-32C and the frame check of IEEE 802.3 over the digits 1 to 9, the check values of both codes. -/
theorem test_crc : crc32c ((List.range 9).map fun k => BitVec.ofNat 8 (0x31 + k)) = 0xE3069283 ∧
    leNat (fcsOf ((List.range 9).map fun k => BitVec.ofNat 8 (0x31 + k))) = 0xCBF43926 := by decide +kernel

/-- SHA-384 of the three bytes of FIPS 180-4's example, its first and its last four. -/
theorem test_sha : (digestBytes (sha384 [0x61, 0x62, 0x63])).take 4 = [0xCB, 0x00, 0x75, 0x3F] ∧
    (digestBytes (sha384 [0x61, 0x62, 0x63])).drop 44 = [0x34, 0xC8, 0x25, 0xA7] := by decide +kernel

/-- R626: with DEPTH 1 the cut lies 123 ticks before E; with DEPTH 2 and CABLE_MAX 10 the zenith's 191 and the leaf's 316. -/
theorem test_cuts : cutBefore 1 10 1 = 123 ∧ cutBefore 2 10 2 = 191 ∧ cutBefore 2 10 1 = 316 ∧ downBefore 2 10 1 = 58 := by decide

/-- R39, R138: the reduction of 1.0, from the endpoint, and the partial sum 1.0, from the other T4896, completes at the zenith with
2.0 in its region. -/
theorem test_reduction_result :
    let one : Arrival := ⟨redW.rid, 3, 5, 1, 0, payOf (elemBytes 2 [0x3F800000, 0, 0, 0]), 500, 524, 0⟩
    let psf : Nat := 0xFF924000000000000000000000000000
    let s := working 1050 { Engines.reset with
      jobs := [job 1 7 none]
      arrivals := [one, ⟨redW.rid, 2, 5, 1, 0, payOf (elemBytes 3 [psf, 0, 0]), 500, 524, 1⟩, ⟨redW.rid, 2, 5, 1, 1, 0, 501, 525, 1⟩] }
    ((after (.recordComplete 1) s).eng.job 1 7).map (fun j => (j.doneAt, j.writes.map (·.2.take 8)))
      = some (some 1050, [leBytes 4 0x40000000 ++ leBytes 4 0]) := by decide +kernel

/-- R40, R83: a record that has not completed at its RELEASE tick voids the step with cause LATE. -/
theorem test_late : (after (.releaseTick 1) (working 2000 { Engines.reset with jobs := [job 1 7 none] })).pln.reports = [⟨1, 1, 2000⟩] := by
  decide +kernel

/-- R79: ABORT before the cut sets this device's bit and reports cause 9. -/
theorem test_abort : let t := after .abort (running (planOn true []) 10)
    t.pln.abort = true ∧ t.pln.reports = [⟨9, 1, 10⟩] := by decide +kernel

/-- R78, R95: after VOID the step runs again with attempt 1, from E on; after COMMIT the next step begins. -/
theorem test_boundary :
    (∀ x ∈ [(commit, 1, 0), (voided, 0, 1)],
      let t := after .stepBoundary (running (planOn true []) 100000 { Sequencer.reset with held := some x.1 })
      getF t 0 Reg.plnExec_exec = 1 ∧ getF t 0 Reg.plnStepBase_base = 100000 ∧ getF t 0 Reg.plnStep_step = x.2.1 ∧
        getF t 0 Reg.plnStep_attempt = x.2.2) := by decide +kernel

/-- R330: of two cells of a flow that arrive out of order the later waits in the window, and both are delivered in order. -/
theorem test_reorder :
    let s := after (.cellReceive 0 (dataCell 1 3 1) .sound) (onLink 2000)
    let t := after (.cellReceive 0 (dataCell 1 3 0) .sound) s
    ((s.fab.rx.map fun r => (r.next, r.window.length)) = [(0, 1)]) ∧ ((t.fab.rx.map fun r => (r.next, r.window.length)) = [(2, 0)]) := by
  decide +kernel

/-- R332: an ACK whose NEXT is 2 frees the retained cell with SEQ 0. -/
theorem test_ack : (egressOf (after (.ackReceive 0 (svcAbout 0x10)) (retaining 2000)) 0).ret = [] := by decide +kernel

/-- R377, 10 worked example: loss of signal is counted, and the port drops incoming cells. -/
theorem test_los : let t := after (.laneLos 0 3) (linked 2000 (link 0 4))
    getF t 0 Reg.laneCntLos = 1 ∧ (linkOf t 0).dropping = true ∧ t.flt.queue.map (·.kind) = [0x21] := by decide +kernel

/-- R291: a lost pseudo-channel reads LOST, the step reports cause 4, and MEM_LOST_REGIONS names the plan's region with a byte on it. -/
theorem test_pc_lost : let t := after (.memPcLost 0 0) (onLink 2000)
    pcState t 0 0 = 3 ∧ t.pln.reports.map (·.cause) = [4] ∧ t.flt.queue.map (·.kind) = [0x14] := by decide +kernel

/-- R254: a copy moves its bytes, and the channel reads DONE. -/
theorem test_mover_copy :
    let s := putBytes moverRuns 0 [1, 2, 3]
    let t := after (.moverTransferDone 0 3) s
    readBytes t 4096 4 = [1, 2, 3, 0] ∧ chStat t 0 3 = 2 ∧ getF t 0 Reg.movCntBytes = 32 := by decide +kernel

/-- R469, R470: a WRITE Only packet outside a plan is in HBM at once, and its ACK waits on H0 for its turn. -/
theorem test_rdma_write :
    let t := after (.rdmaWritePacket 0 (pkt 7)) (staged dev)
    readBytes t 8208 4 = [1, 2, 3, 4] ∧
      ((queueOf (after (.rdmaWriteAck 0 5) t) 0 0).frames.map fun f => (f.said, f.vid)) = [(some (.rdma 0 5 7 0x11 [0]), 0)] := by
  decide +kernel

/-- R498: the response to HELLO has TYPE 0x80 and the device's grade, stepping and NODE_ID. -/
theorem test_hello :
    (match (queueOf (after (.hello ⟨0, 7, 0, 0⟩) serving) 0 0).frames.map (·.said) with
      | [some (.response 0 bs)] => bs.take 8 == [0x80, 0, 0, 0, 7, 0, 0, 0] &&
          (bs.drop 24).take 4 == [1, BitVec.ofNat 8 Config.stepping, 0, 0] && (bs.drop 30).take 2 == [1, 0]
      | _ => false) = true := by decide +kernel

/-- R501, R505: a write set is applied at its tick, and the response says OK. -/
theorem test_write_set :
    let t := after .writeApply (accessing 64 none (.write 1 [writeAddr]))
    getF t 0 Reg.plnLoadAddr_offset = 64 ∧ t.ctl.access = none ∧ getF t 0 Reg.secCtlCntWrite = 1 := by decide +kernel

/-- R99, R570: MOD_RESET_N ends the plan, and the device is held. -/
theorem test_pin_reset : let t := after (.modResetNAssert true) (running (planOn true []) 10)
    t.pwr.phase = .held ∧ t.pln.active = none ∧ planRuns t = false := by decide +kernel

/-- R600: 115 °C takes the module to Off, 114 °C does not. -/
theorem test_overtemp : (after (.overtemp 0 115) dev).pwr.phase = .off ∧ (after (.overtemp 0 114) dev).pwr.phase = .service := by
  decide +kernel

/-- R608: a Read Word of MFR_STATUS in service. -/
theorem test_smbus : (after (.smbusReadWord 0xD0) dev).out = [.smbus (some (mfrStatus dev))] ∧ mfrStatus dev % 2 = 1 := by decide +kernel

/-! ## The smoke test of WellFormed: an ill-formed command for each check -/

theorem test_ill_formed : ([.markerFrameSend 96, .markerFrameSend 128, .engineRun 0, .engineRun 0x041, .engineRun 0x013B, .engineRun 0x0200,
    .ackIdleTimeout ⟨65536, 0, 0, 0⟩, .ackIdleTimeout ⟨0, 0, 4, 0⟩, .resendReqTimeout ⟨0, 0, 0, 4096⟩, .ackWaitTimeout 96 ⟨0, 0, 0, 0⟩,
    .cellEgress 0x20000000, .markerFrameReceive 0 50 ⟨0, 0, none⟩ 0, .laneLos 16 0, .laneLos 0 50, .laneTestWrite 16 0, .softRepairDone 20 0,
    .standbySelfCheck 65536 true, .vacateStart 0 32, .thermalReading 20 0, .memSplitWrite 256, .start 4 0, .cancel 0 16, .recover 4,
    .frameDequeue 8, .finish 2 0, .dtlsIdleTimeout 8, .hello ⟨8, 0, 0, 0⟩, .registerWrite 0 4096 0 0, .registerWrite 65536 0 0 0, .select 2,
    .pwrRail 16 0] : List Instr).all (fun i => !wellFormed i) = true := by decide

theorem test_well_formed : ([.load, .markerFrameSend 95, .markerFrameSend (256 + 3), .engineRun 0x001, .engineRun 0x102, .engineRun 0x033,
    .engineRun 0xF34, .engineRun 0x3F5, .cellEgress 0x10000000, .laneLos 15 49, .softRepairDone 19 0, .start 3 15, .frameDequeue 7,
    .hello ⟨7, 0, 0, 0⟩, .registerWrite 0x1500 0xFF8 0 0, .select 1, .pwrRail 8 800] : List Instr).all wellFormed = true := by decide

/-- The table gives its rows no bits, so no word spells a command, and withFetchWord changes nothing. -/
theorem test_no_words : decodeTableWord 16 0 = none ∧ (State.reset.withFetchWord 16 0).pending = [] := by decide +kernel


end Sys2Proof.Tests
end

section
/-! SUPPORT. What the operations that a reset runs through leave of the module power controller: all of it, or at least the level of
MOD_RESET_N, where they note a write of NV, a block or a phase. -/

namespace Sys2Proof.Safety.Touches

open Machine

/-- What touches no part of the power controller leaves it as it is. -/
theorem pwr_eq {c : List Part} {ks : List Nat} {s t : State} (h : Touches c ks s t) (hc : .pwr ∉ c) : t.pwr = s.pwr := h.1 .pwr hc

end Sys2Proof.Safety.Touches

namespace Sys2Proof.Machine

/-! ## NV storage, free values and lifetime counters -/

@[simp] theorem noteNv_pin (s : State) : (noteNv s).pwr.pin = s.pwr.pin := rfl
@[simp] theorem noteNvWrite_pin (s : State) (was : NvWas) : (noteNvWrite s was).pwr.pin = s.pwr.pin := rfl
@[simp] theorem drawNat_pwr (s : State) : (drawNat s).2.pwr = s.pwr := rfl
@[simp] theorem drawBool_pwr (s : State) : (drawBool s).2.pwr = s.pwr := rfl
@[simp] theorem bumpLife_pwr (s : State) (i n : Nat) : (bumpLife s i n).pwr = s.pwr := rfl

/-! ## Repairs of rows -/

@[simp] theorem takeStripe_pin (s : State) : (takeStripe s).pwr.pin = s.pwr.pin := rfl
@[simp] theorem noteRepair_pwr (s : State) : (noteRepair s).pwr = s.pwr := by simp [noteRepair, apply_ite State.pwr]
@[simp] theorem setRowFix_pwr (s : State) (f : RowFix) : (setRowFix s f).pwr = s.pwr := rfl
@[simp] theorem retireRow_pwr (s : State) (f : RowFix) : (retireRow s f).pwr = s.pwr := by simp [retireRow]
@[simp] theorem retire_pin (s : State) (stack sub addr : Nat) : (retire s stack sub addr).pwr.pin = s.pwr.pin := by
  unfold retire; dsimp only; split_ifs <;> simp
@[simp] theorem withdrawWaiting_pin (s : State) : (withdrawWaiting s).pwr.pin = s.pwr.pin := by
  unfold withdrawWaiting; dsimp only; split
  · rfl
  · exact foldl_keeps (fun s : State => s.pwr.pin) (fun _ _ => by simp) _ _
@[simp] theorem remap_pin (s : State) (stack sub addr : Nat) : (remap s stack sub addr).pwr.pin = s.pwr.pin := by
  unfold remap; dsimp only; split_ifs <;> simp
@[simp] theorem rowRepair_pin (s : State) (stack sub addr : Nat) : (rowRepair s stack sub addr).pwr.pin = s.pwr.pin := by
  unfold rowRepair; dsimp only; split_ifs <;> simp

/-! ## Failed and spared units -/

@[simp] theorem setRole_pwr (s : State) (page role logical : Nat) : (setRole s page role logical).pwr = s.pwr := rfl
@[simp] theorem spareUnit_pwr (s : State) (page : Nat) : (spareUnit s page).pwr = s.pwr := by
  unfold spareUnit; dsimp only; split <;> simp
@[simp] theorem spareUnits_pwr (s : State) : (spareUnits s).pwr = s.pwr :=
  foldl_keeps State.pwr (fun _ _ => by simp) { s with eng := { s.eng with toSpare := [] } } _
@[simp] theorem reportUnspared_pwr (s : State) : (reportUnspared s).pwr = s.pwr :=
  foldl_keeps State.pwr (fun _ _ => by simp [apply_ite State.pwr]) s _
@[simp] theorem failUnit_pin (s : State) (page : Nat) (void : Bool) : (failUnit s page void).pwr.pin = s.pwr.pin := by
  unfold failUnit; dsimp only; split_ifs <;> simp
@[simp] theorem failSingle_pin (s : State) (kind die : Nat) (void : Bool) : (failSingle s kind die void).pwr.pin = s.pwr.pin := by
  unfold failSingle; dsimp only; split_ifs <;> simp
@[simp] theorem failSource_pin (s : State) (m : FaultMsg) : (failSource s m).pwr.pin = s.pwr.pin := by
  unfold failSource; dsimp only; split <;> simp [apply_ite State.pwr, apply_ite Power.pin]

/-! ## Blocks, host dies and rails -/

@[simp] theorem resetHostDie_pwr (s : State) (die : Nat) : (resetHostDie s die).pwr = s.pwr := rfl
@[simp] theorem holdHostDie_pin (s : State) (die : Nat) : (holdHostDie s die).pwr.pin = s.pwr.pin := rfl
@[simp] theorem shedPhase_pin (s : State) (rail phase : Nat) : (shedPhase s rail phase).pwr.pin = s.pwr.pin := by
  unfold shedPhase; split <;> simp
@[simp] theorem sendIdle_pin (s : State) (page unit : Nat) : (sendIdle s page unit).pwr.pin = s.pwr.pin := by
  unfold sendIdle; dsimp only; split_ifs <;> simp
@[simp] theorem beginBlock_pin (s : State) (page unit : Nat) : (beginBlock s page unit).pwr.pin = s.pwr.pin := by
  unfold beginBlock; split_ifs <;> simp

/-! ## Links, ports and memory errors -/

@[simp] theorem setLink_pwr (s : State) (l : Link) : (setLink s l).pwr = s.pwr := rfl
@[simp] theorem setLane_pwr (s : State) (die lane : Nat) (f : Fld) (v : Nat) : (setLane s die lane f v).pwr = s.pwr := rfl
@[simp] theorem linkDown_pwr (s : State) (code : Nat) : (linkDown s code).pwr = s.pwr :=
  ((Safety.Touches.refl [.regs, .lanes] [0xB, 0xC] s).linkDown code (by decide) (by decide) (by decide) (by decide)).pwr_eq (by decide)
@[simp] theorem losePort_pwr (s : State) (code : Nat) : (losePort s code).pwr = s.pwr :=
  ((Safety.Touches.refl [.pln] [] s).losePort code (by decide)).pwr_eq (by decide)
@[simp] theorem recheckPorts_pwr (s : State) : (recheckPorts s).pwr = s.pwr :=
  ((Safety.Touches.refl [.regs, .lanes, .pln, .sync] [0xB, 0xD] s).recheckPorts (by decide) (by decide) (by decide) (by decide)
    (by decide) (by decide)).pwr_eq (by decide)
@[simp] theorem memUe_pwr (s : State) (a : Nat) : (memUe s a).pwr = s.pwr :=
  ((Safety.Touches.refl [.regs, .flt] [8, 9, 0x13] s).memUe a (by decide) (by decide) (by decide) (by decide) (by decide)).pwr_eq
    (by decide)

/-! ## The end of a step and of a plan -/

@[simp] theorem idleLinks_pwr (s : State) : (idleLinks s).pwr = s.pwr := foldl_keeps State.pwr (fun _ _ => by simp) s _
@[simp] theorem setChStat_pwr (s : State) (die ch v : Nat) : (setChStat s die ch v).pwr = s.pwr := rfl
@[simp] theorem stopChannels_pwr (s : State) : (stopChannels s).pwr = s.pwr :=
  foldl_keeps State.pwr (fun s _ => foldl_keeps State.pwr (fun _ _ => by simp [apply_ite State.pwr]) s _) s _
@[simp] theorem poolFreed_pwr (s t : State) : (poolFreed s t).pwr = t.pwr := by
  unfold poolFreed; dsimp only; split <;> rfl
@[simp] theorem poolNote_pwr (s : State) : (poolNote s).pwr = s.pwr := by
  unfold poolNote; dsimp only
  rw [foldl_keeps State.pwr (fun _ _ => by simp [apply_ite State.pwr])]
  simp [apply_ite State.pwr]
@[simp] theorem flushStep_pwr (s : State) : (flushStep s).pwr = s.pwr := by simp [flushStep]
@[simp] theorem clearStep_pwr (s : State) : (clearStep s).pwr = s.pwr := by simp [clearStep]
@[simp] theorem setActive_pwr (s : State) (v : Nat) : (setActive s v).pwr = s.pwr := rfl
@[simp] theorem dropPlan_pwr (s : State) : (dropPlan s).pwr = s.pwr := by simp [dropPlan]
@[simp] theorem voidStep_pwr (s : State) : (voidStep s).pwr = s.pwr :=
  foldl_keeps State.pwr (fun _ _ => by split <;> simp) s _

/-! ## Certificates and the ledger, and a device that stops -/

@[simp] theorem ringNote_pwr (s : State) : (ringNote s).pwr = s.pwr := by simp [ringNote, apply_ite State.pwr]
@[simp] theorem ledgerPut_pwr (s : State) (kind : Nat) (body : List Byte) : (ledgerPut s kind body).pwr = s.pwr := by simp [ledgerPut]
@[simp] theorem noteDropped_pwr (s : State) : (noteDropped s).pwr = s.pwr := by simp [noteDropped]
@[simp] theorem ledgerAppend_pwr (s : State) (kind : Nat) (body : List Byte) : (ledgerAppend s kind body).pwr = s.pwr := by
  unfold ledgerAppend; dsimp only; split_ifs <;> simp
@[simp] theorem akSign_pwr (s : State) (msg : List Byte) : (akSign s msg).2.pwr = s.pwr := rfl
@[simp] theorem signCert_pwr (s : State) (kind last : Nat) : (signCert s kind last).pwr = s.pwr := by
  unfold signCert; dsimp only; split
  · rfl
  · split_ifs <;> simp
@[simp] theorem stopPlan_pwr (s : State) : (stopPlan s).pwr = s.pwr := by
  unfold stopPlan; dsimp only; split_ifs <;> simp
@[simp] theorem deviceStops_pwr (s : State) : (deviceStops s).pwr = s.pwr := by
  unfold deviceStops; split <;> simp

/-! ## Lanes -/

@[simp] theorem laneFault_pwr (s : State) (kind die sub detail : Nat) : (laneFault s kind die sub detail).pwr = s.pwr := by
  simp [laneFault]
@[simp] theorem loseLaneDie_pwr (s : State) (die : Nat) : (loseLaneDie s die).pwr = s.pwr :=
  foldl_keeps State.pwr (fun _ _ => by simp) s _
@[simp] theorem failSpare_pwr (s : State) (die k : Nat) : (failSpare s die k).pwr = s.pwr := by
  simp [failSpare, apply_ite State.pwr]
@[simp] theorem cross_pwr (s : State) (dir link : Nat) (c : FabCell) (reach : Nat) (sink : Option (Nat × Nat)) :
    (cross s dir link c reach sink).pwr = s.pwr := by simp [cross, apply_ite State.pwr]
@[simp] theorem poolTake_pwr (s : State) (who : Nat) : (poolTake s who).1.pwr = s.pwr := by
  simp [poolTake, renameBufs, apply_ite State.pwr]
@[simp] theorem setEgress_pwr (s : State) (e : Egress) : (setEgress s e).pwr = s.pwr := rfl
@[simp] theorem pushSvc_pwr (s : State) (code : Nat) (c : FabCell) (readyAt : Nat) (buf : Option Nat) :
    (pushSvc s code c readyAt buf).pwr = s.pwr := by
  unfold pushSvc; dsimp only; split
  · simp
  · cases buf <;> simp
@[simp] theorem sendReq_pwr (s : State) (r : LaneReq) : (sendReq s r).pwr = s.pwr := by simp [sendReq]
@[simp] theorem portLost_pwr (s : State) (code lane : Nat) : (portLost s code lane).pwr = s.pwr := by simp [portLost, lastFail]
@[simp] theorem requestSpare_pwr (s : State) (code l : Nat) : (requestSpare s code l).pwr = s.pwr := by
  unfold requestSpare; dsimp only; split <;> simp
@[simp] theorem replaceLane_pwr (s : State) (die lane : Nat) : (replaceLane s die lane).pwr = s.pwr := by
  unfold replaceLane; split
  · simp
  · split <;> simp

/-! ## Fault messages: their reaction, their record and their judgement -/

@[simp] theorem lastingReaction_pin (s : State) (m : FaultMsg) : (lastingReaction s m).pwr.pin = s.pwr.pin := by
  unfold lastingReaction; dsimp only; split
  case h_4 => split <;> simp
  case h_8 => split <;> rfl
  all_goals simp

@[simp] theorem setReloc_pwr (s : State) (r : Reloc) : (setReloc s r).pwr = s.pwr := rfl
@[simp] theorem startVacate_pwr (s : State) (stack : Nat) : (startVacate s stack).pwr = s.pwr := by
  unfold startVacate; dsimp only; split
  · rfl
  · split <;> simp
@[simp] theorem askVacate_pwr (s : State) (stack pc : Nat) (commanded : Bool) : (askVacate s stack pc commanded).pwr = s.pwr := by
  unfold askVacate; dsimp only; split <;> simp
@[simp] theorem pinLasting_pwr (s : State) (stack sub pin : Nat) : (pinLasting s stack sub pin).pwr = s.pwr := by simp [pinLasting]
@[simp] theorem react_pin (s : State) (m : FaultMsg) (keys : List CountEntry) : (react s m keys).pwr.pin = s.pwr.pin :=
  foldl_keeps (fun s : State => s.pwr.pin) (fun _ _ => by split_ifs <;> simp) s keys
@[simp] theorem appendRecord_pwr (s : State) (r : FaultRec) (rest : List FaultRec) : (appendRecord s r rest).pwr = s.pwr := rfl
@[simp] theorem loseRecord_pwr (s : State) : (loseRecord s).pwr = s.pwr := by simp [loseRecord]
@[simp] theorem storeRecord_pwr (s : State) (r : FaultRec) : (storeRecord s r).pwr = s.pwr := by
  unfold storeRecord; dsimp only
  split
  · simp
  · split
    · simp
    · split
      · simp
      · split <;> simp
@[simp] theorem reportFatal_pwr (s : State) : (reportFatal s).pwr = s.pwr := by
  unfold reportFatal; split_ifs <;> simp
@[simp] theorem countKey_pwr (s : State) (key : CountEntry) (m : FaultMsg) : (countKey s key m).1.pwr = s.pwr := rfl
@[simp] theorem countAll_pwr (s : State) (m : FaultMsg) : (countAll s m).1.pwr = s.pwr := by
  unfold countAll
  exact foldl_keeps (fun a : State × List CountEntry => a.1.pwr) (fun _ _ => by simp) (s, []) _
@[simp] theorem clearPending_pwr (s : State) : (clearPending s).pwr = s.pwr := by unfold clearPending; split <;> rfl
@[simp] theorem emptyStaged_pwr (s : State) : (emptyStaged s).pwr = s.pwr := by
  simp [emptyStaged, setStaged]
@[simp] theorem enterFaultState_pin (s : State) : (enterFaultState s).pwr.pin = s.pwr.pin := by
  unfold enterFaultState; dsimp only; split_ifs <;> simp
@[simp] theorem judge_pin (s : State) (m : FaultMsg) : (judge s m).pwr.pin = s.pwr.pin := by
  simp [judge, apply_ite State.pwr, apply_ite Power.pin]
@[simp] theorem handleFault_pin (s : State) : (handleFault s).pwr.pin = s.pwr.pin := by
  unfold handleFault; split <;> simp
@[simp] theorem flushFaults_pin (n : Nat) (s : State) : (flushFaults n s).pwr.pin = s.pwr.pin := by
  induction n generalizing s with
  | zero => rfl
  | succ n ih => rw [flushFaults, ih, handleFault_pin]

/-! ## The steps of a reset -/

@[simp] theorem dropMovJobs_pwr (s : State) (die : Nat) (only : Nat → Bool) : (dropMovJobs s die only).pwr = s.pwr :=
  foldl_keeps State.pwr (fun _ _ => by simp)
    { s with eng := { s.eng with movJobs := s.eng.movJobs.filter fun j => !(j.mover == die && only j.channel) } } _
@[simp] theorem applyRetain_pwr (s : State) : (applyRetain s).pwr = s.pwr := by unfold applyRetain; split <;> rfl
@[simp] theorem dropUpload_pwr (s : State) : (dropUpload s).pwr = s.pwr := by
  unfold dropUpload setSlot; dsimp only; split
  · simp [apply_ite State.pwr]
  · rfl
@[simp] theorem writeBurst_pwr (s : State) (a : Nat) (bs : List Byte) : (writeBurst s a bs).1.pwr = s.pwr := by
  unfold writeBurst freshBurst clearUe; split_ifs <;> simp
@[simp] theorem drainWord_pwr (s : State) (kw : Nat × Word) : (drainWord s kw).pwr = s.pwr := by
  unfold drainWord; split <;> simp
@[simp] theorem cutStage_pwr (s : State) : (cutStage s).pwr = s.pwr :=
  foldl_keeps State.pwr (fun _ _ => by simp [apply_ite State.pwr]) s _
@[simp] theorem dropVolatile_pin (s : State) : (dropVolatile s).pwr.pin = s.pwr.pin := rfl
@[simp] theorem resetRegs_pwr (s : State) (pick : Nat → Bool) (keeps : Fld → Bool) : (resetRegs s pick keeps).pwr = s.pwr := rfl
@[simp] theorem showFailed_pwr (s : State) : (showFailed s).pwr = s.pwr := by
  unfold showFailed
  rw [foldl_keeps State.pwr (fun _ _ => by simp [apply_ite State.pwr]), foldl_keeps State.pwr (fun _ _ => by simp [apply_ite State.pwr])]
@[simp] theorem clearDevice_pin (s : State) : (clearDevice s).pwr.pin = s.pwr.pin := by
  unfold clearDevice; dsimp only
  simp [apply_ite State.pwr]
@[simp] theorem failStartup_pin (s : State) (reason detail : Nat) : (failStartup s reason detail).pwr.pin = s.pwr.pin := by
  simp [failStartup, logReason]
@[simp] theorem catchPulse_pin (s : State) : (catchPulse s).pwr.pin = s.pwr.pin := by
  unfold catchPulse; split
  · split <;> rfl
  · rfl
@[simp] theorem undoWrite_pwr (s : State) (was : NvWas) : (undoWrite s was).pwr = s.pwr := by cases was <;> rfl
@[simp] theorem cutWrites_pwr (s : State) : (cutWrites s).pwr = s.pwr :=
  foldl_keeps State.pwr (fun _ _ => by simp [apply_ite State.pwr]) { s with fw := { s.fw with writes := [] } } _
@[simp] theorem enterReset_phase (s : State) (cause : Nat) : (enterReset s cause).pwr.phase = .held := rfl
@[simp] theorem countPin_pwr (s : State) : (countPin s).pwr = s.pwr := by simp [countPin]
@[simp] theorem enterReset_pin (s : State) (cause : Nat) : (enterReset s cause).pwr.pin = s.pwr.pin := by
  simp [enterReset, apply_ite State.pwr, apply_ite Power.pin]

end Sys2Proof.Machine
end

section
/-! SUPPORT. What a register reads after a reset of its page (00 R15, 18 R588). -/

namespace Sys2Proof.Machine

theorem kvGet_eq_none {α : Type} {l : List (Nat × α)} {q : Nat} (h : ∀ c ∈ l, c.1 ≠ q) : kvGet l q = none := by
  induction l with
  | nil => rfl
  | cons c l ih =>
    obtain ⟨hk, hl⟩ := List.forall_mem_cons.1 h
    simp only [kvGet, if_neg hk, ih hl]

/-- Where no field is kept, the word after a reset is the power-on value. -/
theorem resetWord_of_none_kept {kind off : Nat} {keeps : Fld → Bool} (h : ∀ f ∈ fieldsAt kind off, keeps f = false) (v : Word) :
    resetWord kind off v keeps = regReset kind off := by
  unfold resetWord regReset
  refine List.foldl_ext _ _ _ fun a f hf => ?_
  simp [h f hf]

/-- What the store lists after a reset of a page is a word that the reset gave and that is not the power-on value. -/
theorem mem_resetRegs {s : State} {pick : Nat → Bool} {keeps : Fld → Bool} {c : Nat × Word} (hc : c ∈ (resetRegs s pick keeps).regs)
    (hpick : pick (c.1 / 4096 % 65536) = true) :
    c.2 ≠ keyReset c.1 ∧ ∃ v, c.2 = resetWord (pageKind (c.1 / 4096 % 65536)) (c.1 % 4096) v keeps := by
  obtain ⟨⟨k, v⟩, -, hkv⟩ := List.mem_filterMap.1 hc
  dsimp only at hkv
  split at hkv
  · split at hkv
    · cases hkv
    · next hne => cases hkv; exact ⟨hne, v, rfl⟩
  · next hnot => cases hkv; exact absurd hpick hnot

/-- A register of a page that is reset reads its power-on value where none of its fields is kept. -/
theorem getReg_resetRegs_of_none_kept (s : State) {pick : Nat → Bool} {keeps : Fld → Bool} (idx : Nat) {page off : Nat}
    (hp : page < 65536) (ho : off < 4096) (hpick : pick page = true) (h : ∀ f ∈ fieldsAt (pageKind page) off, keeps f = false) :
    getReg (resetRegs s pick keeps) idx page off = regReset (pageKind page) off := by
  have hpage : regKey idx page off / 4096 % 65536 = page := by unfold regKey; omega
  have hoff : regKey idx page off % 4096 = off := by unfold regKey; omega
  have hnone : ∀ c ∈ (resetRegs s pick keeps).regs, c.1 ≠ regKey idx page off := by
    intro c hc hkey
    obtain ⟨hne, v, hv⟩ := mem_resetRegs hc (by rw [hkey, hpage, hpick])
    rw [hkey, hpage, hoff, resetWord_of_none_kept h] at hv
    rw [hkey, keyReset, hpage, hoff] at hne
    exact hne hv
  rw [getReg_eq, kvGet_eq_none hnone, Option.getD_none]

/-- No field of the PLN page survives a reset (02 R99). -/
theorem survivesReset_pln {off : Nat} : ∀ f ∈ fieldsAt 1 off, survivesReset f = false := by
  have hall : ∀ f ∈ Reg.headerFields ++ kindFields 1, survivesReset f = false := by decide
  intro f hf
  refine hall f (List.mem_append.2 ?_)
  have hmem := (List.mem_filter.1 hf).1
  split at hmem
  · exact .inl hmem
  · exact .inr hmem

end Sys2Proof.Machine

namespace Sys2Proof.Safety.Touches

open Machine

variable {c : List Part} {ks : List Nat} {s t : State}

/-- A fold whose steps touch what is named for the members of its list. -/
theorem foldl_mem {α : Type} {f : State → α → State} {l : List α}
    (hf : ∀ u, ∀ a ∈ l, Touches c ks s u → Touches c ks s (f u a))
    (h : Touches c ks s t) : Touches c ks s (l.foldl f t) := by
  induction l generalizing t with
  | nil => exact h
  | cons a l ih => exact ih (fun u b hb => hf u b (List.mem_cons_of_mem _ hb)) (hf t a (List.mem_cons_self ..) h)

/-- STATUS of a failed unit stands on the page of the unit. -/
theorem showFailed (h : Touches c ks s t) (hr : .regs ∈ c) (h2 : 2 ∈ ks) (h3 : 3 ∈ ks) (h5 : 5 ∈ ks) (h7 : 7 ∈ ks) :
    Touches c ks s (Machine.showFailed t) := by
  have hunits : ∀ p ∈ (List.range 12).map (pageOf 2) ++ (List.range 5).map (pageOf 3) ++ (List.range 12).map (pageOf 5),
      p < 65536 ∧ (pageKind p = 2 ∨ pageKind p = 3 ∨ pageKind p = 5) := by decide
  have hmovers : ∀ d ∈ List.range 4, pageOf 7 d < 65536 ∧ pageKind (pageOf 7 d) = 7 := by decide
  refine foldl_mem (fun u p hp hu => iff_then ?_ hu) (foldl_mem (fun u d hd hu => iff_then ?_ hu) h)
  · obtain ⟨hlt, hk⟩ := hunits p hp
    refine hu.setReg _ hr ?_ hlt (by decide)
    rcases hk with hk | hk | hk <;> rwa [hk]
  · obtain ⟨hlt, hk⟩ := hmovers d hd
    exact hu.setReg _ hr (by rwa [hk]) hlt (by decide)

/-- Another state of the power controller. -/
theorem withPwr (q : Power) (h : Touches c ks s t) (hp : .pwr ∈ c) : Touches c ks s { t with pwr := q } := by
  refine h.upd (fun p hp' => ?_) rfl
  cases p
  case pwr => exact absurd hp hp'
  all_goals rfl

/-- A pin reset that counts raises its counter and its lifetime counter. -/
theorem countPin (h : Touches c ks s t) (hr : .regs ∈ c) (h14 : 0x14 ∈ ks) (h15 : 0x15 ∈ ks) : Touches c ks s (Machine.countPin t) :=
  (h.bump 1 hr h14 (by decide) (by decide) (by decide)).setFI _ hr h15 (by decide) (by decide) (by decide)

end Sys2Proof.Safety.Touches
end

section
/-! What a pin reset leaves of a plan: nothing (02 R99). -/

namespace Sys2Proof.Safety

open Machine

/-- No plan is left: both banks are empty, and every register of the PLN page reads its power-on value. -/
def PlanGone (s : State) : Prop :=
  s.pln.active = none ∧ s.pln.staged = none ∧ ∀ idx off, off < 4096 → getReg s idx 0x0100 off = regReset 1 off

/-- After it has cleared the device a reset touches RST_STATUS and the power controller alone. -/
theorem enterReset_touches (s : State) (cause : Nat) :
    ∃ u, Touches [.regs, .pwr] [0x14] (clearDevice u) (enterReset s cause) := by
  unfold enterReset
  dsimp only
  generalize cutWrites _ = u
  have hretained : Touches [.regs, .pwr] [0x14] (clearDevice u)
      (setB (clearDevice u) 0 Reg.rstStatus_retained (s.pwr.phase != .dusk && decide (retainMode s ≠ 0))) :=
    (Touches.refl _ _ _).setF _ (by decide) (by decide) (by decide) (by decide) (by decide)
  have hhold := hretained.setF (inst := 0) (f := Reg.rstStatus_hold) 0 (by decide) (by decide) (by decide) (by decide) (by decide)
  exact ⟨u, hhold.withPwr _ (by decide)⟩

namespace PlanGone

/-- What touches neither the sequencer nor the PLN page brings no plan back. -/
theorem touches {c : List Part} {ks : List Nat} {s t : State} (h : PlanGone s) (ht : Touches c ks s t) (hc : .pln ∉ c) (hk : 1 ∉ ks) :
    PlanGone t := by
  obtain ⟨hactive, hstaged, hregs⟩ := h
  have hpln : t.pln = s.pln := ht.1 .pln hc
  exact ⟨hpln ▸ hactive, hpln ▸ hstaged, fun idx off ho => (ht.2 idx 0x0100 off (by decide) ho hk).trans (hregs idx off ho)⟩

/-- The power-on value of the active state is IDLE. -/
theorem planRuns_eq_false {s : State} (h : PlanGone s) : planRuns s = false := by
  obtain ⟨-, -, hregs⟩ := h
  have hidle : getF s 0 Reg.plnState_active = 0 := by
    have hreg : getReg s 0 (pageOf Reg.plnState_active.kind 0) (Reg.plnState_active.off + 8 * 0) = _ := hregs 0 _ (by decide)
    rw [getF, getFI, hreg]
    decide
  simp [planRuns, hidle]

/-- The registers after a reset, with the sequencer as no reset keeps it. -/
theorem resetRegs_dropVolatile (s : State) : PlanGone (resetRegs (dropVolatile s) (fun _ => true) survivesReset) :=
  ⟨rfl, rfl, fun idx _ ho => getReg_resetRegs_of_none_kept _ idx (by decide) ho rfl survivesReset_pln⟩

theorem clearDevice (s : State) : PlanGone (Machine.clearDevice s) :=
  (resetRegs_dropVolatile _).touches
    ((Touches.refl [.regs] [2, 3, 5, 7] _).showFailed (by decide) (by decide) (by decide) (by decide) (by decide)) (by decide) (by decide)

/-- A reset ends every plan, whatever its cause. -/
theorem enterReset (s : State) (cause : Nat) : PlanGone (Machine.enterReset s cause) := by
  obtain ⟨u, hu⟩ := enterReset_touches s cause
  exact (clearDevice u).touches hu (by decide) (by decide)

theorem countPin {s : State} (h : PlanGone s) : PlanGone (Machine.countPin s) :=
  h.touches ((Touches.refl [.regs] [0x14, 0x15] s).countPin (by decide) (by decide) (by decide)) (by decide) (by decide)

theorem keepFixed {t : State} (h : PlanGone t) (s : State) : PlanGone (Machine.keepFixed s t) := h

end PlanGone

/-- MOD_RESET_N acts in every phase. -/
theorem exec_modResetNAssert (s : State) (long : Bool) :
    exec (.modResetNAssert long) s = .next (keepFixed s (assertPin s long)) := rfl

/-- A pulse of more than 1 µs resets a device that starts or runs, and counts. -/
theorem assertPin_long {s : State}
    (h : s.pwr.phase = .starting ∨ s.pwr.phase = .failed ∨ s.pwr.phase = .service ∨ s.pwr.phase = .dusk) :
    assertPin s true = countPin (enterReset { s with pwr := { s.pwr with pin := true } } 1) := by
  rcases h with h | h | h | h <;> simp [assertPin, h]

/-- Settles O47: the reset resets the PLN page and drops both banks, and what follows it touches neither. -/
theorem pinResetEndsEveryPlan : Obligations.PinResetEndsEveryPlan := by
  intro s hphase
  have hgone : PlanGone (keepFixed s (assertPin s true)) := assertPin_long hphase ▸ ((PlanGone.enterReset _ 1).countPin.keepFixed s)
  have hpwr : (keepFixed s (assertPin s true)).pwr = (enterReset { s with pwr := { s.pwr with pin := true } } 1).pwr := by
    rw [assertPin_long hphase, keepFixed_pwr, countPin_pwr]
  have hruns := hgone.planRuns_eq_false
  obtain ⟨hactive, hstaged, hregs⟩ := hgone
  exact ⟨_, exec_modResetNAssert s true, by rw [hpwr, enterReset_phase], by rw [hpwr, enterReset_pin], hregs, hactive, hstaged, hruns⟩

end Sys2Proof.Safety
end

section
/-! SUPPORT. What a byte reads after its range became undefined, after a change of registers, and after a status of a channel was set. -/

namespace Sys2Proof.Machine

/-! ## Undefined ranges -/

/-- Taking out the entries of some keys leaves what the other keys read as. -/
theorem kvGet_filter {α : Type} (p : Nat → Bool) (l : List (Nat × α)) (q : Nat) :
    kvGet (l.filter fun c => p c.1) q = if p q then kvGet l q else none := by
  induction l with
  | nil => simp [kvGet]
  | cons c l ih =>
    obtain ⟨k, v⟩ := c
    by_cases hk : k = q
    · subst hk; cases hp : p k <;> simp [hp, kvGet, ih]
    · cases hp : p k <;> simp [hp, kvGet, ih, hk]

/-- The newest undefined range decides the bytes that it covers, and no other byte. -/
theorem memDefault_push_undef {s t : State} {u : Undef} (hr : t.regs = s.regs) (hm : t.mfg = s.mfg)
    (hu : t.mem.undef = u :: s.mem.undef) (a : Nat) :
    memDefault t a = if Undef.covers s u a then Config.freeByte u.epoch a else memDefault s a := by
  unfold memDefault
  simp only [hu, List.find?_cons, covers_congr hr hm]
  cases Undef.covers s u a <;> rfl

/-- A byte that becomes undefined holds a free value of this event, and every other byte what it held. -/
theorem rawByte_makeUndef (s : State) (base len : Nat) (onlyPc : Option (Nat × Nat × Nat)) (a : Nat) :
    rawByte (makeUndef s base len onlyPc) a =
      if Undef.covers s ⟨base, len, onlyPc, s.mem.epoch⟩ a then Config.freeByte s.mem.epoch a else rawByte s a := by
  obtain rfl | hlen := eq_or_ne len 0
  · have hnone : ¬ Undef.covers s ⟨base, 0, onlyPc, s.mem.epoch⟩ a = true := by
      simp only [Undef.covers, Bool.and_eq_true, decide_eq_true_eq]; omega
    rw [if_neg hnone]; rfl
  · have hkept : kvGet (makeUndef s base len onlyPc).mem.hbm a =
        if !Undef.covers s ⟨base, len, onlyPc, s.mem.epoch⟩ a then kvGet s.mem.hbm a else none := by
      rw [makeUndef, if_neg hlen]
      exact kvGet_filter (fun k => !Undef.covers s ⟨base, len, onlyPc, s.mem.epoch⟩ k) s.mem.hbm a
    have hdefault := memDefault_push_undef (t := makeUndef s base len onlyPc) (u := ⟨base, len, onlyPc, s.mem.epoch⟩)
      (makeUndef_regs ..) (makeUndef_mfg ..) (by rw [makeUndef, if_neg hlen]) a
    unfold rawByte
    rw [hkept, hdefault]
    cases Undef.covers s ⟨base, len, onlyPc, s.mem.epoch⟩ a <;> rfl

/-- A range of every pseudo-channel covers the bytes between its ends. -/
theorem covers_all_iff (s : State) (base len e a : Nat) :
    Undef.covers s ⟨base, len, none, e⟩ a = true ↔ base ≤ a ∧ a < base + len := by
  simp [Undef.covers]

/-! ## Bytes that a change leaves -/

theorem SameHbm.rawByte {s t : State} (h : SameHbm s t) (a : Nat) : rawByte t a = Machine.rawByte s a := by
  unfold Machine.rawByte; rw [h.hbm, h.memDefault]

/-- With the same words in the commit stage a byte reads the same where HBM stores the same. -/
theorem readByte_congr {s t : State} (hs : t.eng.stage = s.eng.stage) {a : Nat} (h : rawByte t a = rawByte s a) :
    readByte t a = readByte s a := by
  unfold readByte stagedWord; rw [hs, h]

/-! ## The status of a channel (07 R257) -/

section
variable (s : State) {die ch : Nat} (v : Nat)

/-- BUSY stands beside the status. -/
theorem getReg_setChStat :
    getReg (setChStat s die ch v) 0 (movPage die) 0x108 = putBits (getReg s 0 (movPage die) 0x108) (4 * ch) 4 v := by
  rw [setChStat, getReg_setReg_ne _ _ (by unfold regKey; omega), getReg_setReg_self]

theorem chStat_setChStat_self (hc : ch < 16) : chStat (setChStat s die ch v) die ch = v % 2 ^ 4 := by
  rw [chStat, getReg_setChStat, bits_putBits_self _ _ _ _ (by omega)]

theorem chStat_setChStat_ne {c : Nat} (h : c ≠ ch) : chStat (setChStat s die ch v) die c = chStat s die c := by
  rw [chStat, getReg_setChStat, bits_putBits_ne _ _ _ _ _ _ (by omega), chStat]

@[simp] theorem setChStat_eng : (setChStat s die ch v).eng = s.eng := rfl

/-- No byte moves with the registers of a Mover. -/
theorem sameHbm_setChStat (hd : die < 256) : SameHbm s (setChStat s die ch v) :=
  ((SameHbm.refl s).setReg _ (by unfold regKey movPage pageOf; omega)).setReg _ (by unfold regKey movPage pageOf; omega)

end

theorem chStat_congr {s t : State} (h : t.regs = s.regs) (die ch : Nat) : chStat t die ch = chStat s die ch := by
  unfold chStat; rw [getReg_congr h]

/-! ## Transfers that are dropped (07 R250, R255) -/

/-- The destinations of transfers become undefined one after the other. -/
def undefDests (s : State) (l : List MovJob) : State := l.foldl (fun s j => makeUndef s j.cmd.dstOfs j.cmd.len none) s

/-- A byte of the destination of a transfer. -/
def MovJob.writes (j : MovJob) (a : Nat) : Prop := j.cmd.dstOfs ≤ a ∧ a < j.cmd.dstOfs + j.cmd.len

/-- A transfer of a Mover on one of the channels that are meant. -/
def MovJob.on (die : Nat) (only : Nat → Bool) (j : MovJob) : Bool := j.mover == die && only j.channel

/-- Dropped transfers leave the list, and then their destinations become undefined. -/
theorem dropMovJobs_eq (s : State) (die : Nat) (only : Nat → Bool) :
    dropMovJobs s die only = undefDests { s with eng := { s.eng with movJobs := s.eng.movJobs.filter fun j => !j.on die only } }
      (s.eng.movJobs.filter (MovJob.on die only)) := rfl

theorem undefDests_cons (s : State) (j : MovJob) (l : List MovJob) :
    undefDests s (j :: l) = undefDests (makeUndef s j.cmd.dstOfs j.cmd.len none) l := rfl

@[simp] theorem undefDests_eng (s : State) (l : List MovJob) : (undefDests s l).eng = s.eng :=
  foldl_keeps State.eng (fun _ _ => makeUndef_eng ..) s l

/-- A byte that no transfer writes is as it was. -/
theorem rawByte_undefDests_out {l : List MovJob} {a : Nat} (h : ∀ j ∈ l, ¬ j.writes a) (s : State) :
    rawByte (undefDests s l) a = rawByte s a := by
  induction l generalizing s with
  | nil => rfl
  | cons j l ih =>
    obtain ⟨hj, hl⟩ := List.forall_mem_cons.1 h
    rw [undefDests_cons, ih hl, rawByte_makeUndef, if_neg fun hc => hj ((covers_all_iff ..).1 hc)]

/-- A byte that holds a free value, or that a transfer writes, holds a free value then. -/
theorem rawByte_undefDests_free {l : List MovJob} {s : State} {a : Nat}
    (h : (∃ e, rawByte s a = Config.freeByte e a) ∨ ∃ j ∈ l, j.writes a) :
    ∃ e, rawByte (undefDests s l) a = Config.freeByte e a := by
  induction l generalizing s with
  | nil => simpa [undefDests] using h
  | cons j l ih =>
    rw [undefDests_cons]
    refine ih ?_
    rw [rawByte_makeUndef]
    by_cases hj : j.writes a
    · exact .inl ⟨_, if_pos ((covers_all_iff ..).2 hj)⟩
    · rw [if_neg fun hc => hj ((covers_all_iff ..).1 hc)]
      exact h.imp_right fun ⟨k, hk, hw⟩ => ⟨k, (List.mem_cons.1 hk).resolve_left fun e => hj (e ▸ hw), hw⟩

section
variable (s : State) (die : Nat) (only : Nat → Bool)

@[simp] theorem dropMovJobs_eng :
    (dropMovJobs s die only).eng = { s.eng with movJobs := s.eng.movJobs.filter fun j => !j.on die only } := by
  rw [dropMovJobs_eq, undefDests_eng]

/-- The destination of a dropped transfer is undefined. -/
theorem rawByte_dropMovJobs_in {j : MovJob} (hj : j ∈ s.eng.movJobs) (hon : j.on die only = true) {a : Nat} (ha : j.writes a) :
    ∃ e, rawByte (dropMovJobs s die only) a = Config.freeByte e a := by
  rw [dropMovJobs_eq]
  exact rawByte_undefDests_free (.inr ⟨j, List.mem_filter.2 ⟨hj, hon⟩, ha⟩)

/-- Every other byte is as it was. -/
theorem rawByte_dropMovJobs_out {a : Nat} (h : ∀ j ∈ s.eng.movJobs, j.on die only = true → ¬ j.writes a) :
    rawByte (dropMovJobs s die only) a = rawByte s a := by
  rw [dropMovJobs_eq, rawByte_undefDests_out fun j hj => ?_]
  · rfl
  · obtain ⟨hmem, hon⟩ := List.mem_filter.1 hj
    exact h j hmem hon

end

end Sys2Proof.Machine

namespace Sys2Proof.Safety.Touches

open Machine

variable {c : List Part} {ks : List Nat} {s t : State}

theorem makeUndef (base len : Nat) (onlyPc : Option (Nat × Nat × Nat)) (h : Touches c ks s t) (hm : .mem ∈ c) :
    Touches c ks s (Machine.makeUndef t base len onlyPc) := by
  unfold Machine.makeUndef
  refine iff_then h (h.upd (fun p hp => ?_) rfl)
  cases p
  case mem => exact absurd hm hp
  all_goals rfl

theorem dropMovJobs (die : Nat) (only : Nat → Bool) (h : Touches c ks s t) (he : .eng ∈ c) (hm : .mem ∈ c) :
    Touches c ks s (Machine.dropMovJobs t die only) := by
  refine foldl _ (fun _ _ hu => hu.makeUndef _ _ _ hm) (h.upd (fun p hp => ?_) rfl)
  cases p
  case eng => exact absurd he hp
  all_goals rfl

theorem setChStat {die : Nat} (ch v : Nat) (h : Touches c ks s t) (hr : .regs ∈ c) (hk : 7 ∈ ks) (hd : die < 256) :
    Touches c ks s (Machine.setChStat t die ch v) := by
  have hkind : pageKind (movPage die) ∈ ks := by
    rwa [show pageKind (movPage die) = 7 by unfold pageKind movPage pageOf; omega]
  have hpage : movPage die < 65536 := by unfold movPage pageOf; omega
  exact (h.setReg _ hr hkind hpage (by decide)).setReg _ hr hkind hpage (by decide)

/-- What touches neither the record of manufacture nor the commands that wait keeps what no command changes. -/
theorem keepFixed_eq (h : Touches c ks s t) (hq : .queue ∉ c) (hm : .mfg ∉ c) : Machine.keepFixed s t = t := by
  have hpending : t.pending = s.pending := h.1 .queue hq
  have hmfg : t.mfg = s.mfg := h.1 .mfg hm
  rw [Machine.keepFixed, ← hpending, ← hmfg]

/-- The answer of a command. -/
theorem withStatus (n : Nat) (h : Touches c ks s t) (hs : .status ∈ c) : Touches c ks s { t with cmdStatus := n } := by
  refine h.upd (fun p hp => ?_) rfl
  cases p
  case status => exact absurd hs hp
  all_goals rfl

end Sys2Proof.Safety.Touches
end

section
/-! CANCEL and RECOVER of a Mover, where they fit and where they do not (07 R255). -/

namespace Sys2Proof.Safety

open Machine

section
variable {s : State} {mov ch : Nat} (hruns : runs s .memory = true) (hmov : mov < 4)
include hruns hmov

/-- CANCEL reaches a Mover of the device. -/
theorem exec_cancel (hch : ch < 16) : exec (.cancel mov ch) s = .next (keepFixed s (movCancel s mov ch)) := by
  have hexec : exec (.cancel mov ch) s = execCancel mov ch s := rfl
  rw [hexec, execCancel, if_neg (by omega), if_pos hch, whenServes_runs hruns]

/-- So does RECOVER. -/
theorem exec_recover : exec (.recover mov) s = .next (keepFixed s (movRecoverCmd s mov)) := by
  have hexec : exec (.recover mov) s = execRecover mov s := rfl
  rw [hexec, execRecover, if_pos hmov, whenServes_runs hruns]

end

/-- The state that CANCEL of a busy channel leaves. -/
def cancelled (s : State) (mov ch : Nat) : State := setChStat (dropMovJobs { s with cmdStatus := 0 } mov (· == ch)) mov ch 5

theorem movJob_on_iff {j : MovJob} {mov ch : Nat} : j.on mov (· == ch) = true ↔ j.mover = mov ∧ j.channel = ch := by
  simp [MovJob.on]

/-- CANCEL of a channel that runs a transfer. -/
theorem movCancel_of_runs {s : State} {mov ch : Nat} {j : MovJob} (hj : j ∈ s.eng.movJobs) (hm : j.mover = mov) (hc : j.channel = ch) :
    movCancel s mov ch = cancelled s mov ch :=
  if_pos (List.any_eq_true.2 ⟨j, hj, movJob_on_iff.2 ⟨hm, hc⟩⟩)

/-- CANCEL of a channel that runs none. -/
theorem movCancel_of_idle {s : State} {mov ch : Nat} (h : ∀ j ∈ s.eng.movJobs, ¬ (j.mover = mov ∧ j.channel = ch)) :
    movCancel s mov ch = { s with cmdStatus := 8 } :=
  if_neg fun hany => by
    obtain ⟨j, hj, hon⟩ := List.any_eq_true.1 hany
    exact h j hj (movJob_on_iff.1 hon)

section
variable (s : State) {mov ch : Nat}

/-- CANCEL changes the transfers, memory and its own page. -/
theorem cancelled_touches (hmov : mov < 4) : Touches [.status, .regs, .eng, .mem] [7] s (cancelled s mov ch) :=
  (((Touches.refl _ _ s).withStatus 0 (by decide)).dropMovJobs mov _ (by decide) (by decide)).setChStat ch 5 (by decide) (by decide)
    (by omega)

/-- The status of the channel reads CANCELLED. -/
theorem chStat_cancelled_self (hch : ch < 16) : chStat (cancelled s mov ch) mov ch = 5 := chStat_setChStat_self _ 5 hch

/-- Every other channel of the Mover keeps its status. -/
theorem chStat_cancelled_ne {c : Nat} (h : c ≠ ch) : chStat (cancelled s mov ch) mov c = chStat s mov c := by
  have hdrop : Touches [.eng, .mem] [] { s with cmdStatus := 0 } (dropMovJobs { s with cmdStatus := 0 } mov (· == ch)) :=
    (Touches.refl _ _ _).dropMovJobs mov _ (by decide) (by decide)
  rw [cancelled, chStat_setChStat_ne _ _ h, chStat_congr (hdrop.1 .regs (by decide))]
  rfl

theorem cancelled_cmdStatus : (cancelled s mov ch).cmdStatus = 0 :=
  ((Touches.refl [.eng, .mem] [] { s with cmdStatus := 0 }).dropMovJobs mov (· == ch) (by decide) (by decide)).1 .status (by decide)

/-- The transfers of the channel leave the list. -/
theorem cancelled_eng :
    (cancelled s mov ch).eng = { s.eng with movJobs := s.eng.movJobs.filter fun k => !(k.mover == mov && k.channel == ch) } := by
  rw [cancelled, setChStat_eng, dropMovJobs_eng]
  rfl

/-- The destination of a transfer of the channel is undefined. -/
theorem rawByte_cancelled_in (hmov : mov < 4) {j : MovJob} (hj : j ∈ s.eng.movJobs) (hm : j.mover = mov) (hc : j.channel = ch)
    {a : Nat} (ha : j.writes a) : ∃ e, rawByte (cancelled s mov ch) a = Config.freeByte e a := by
  rw [cancelled, (sameHbm_setChStat _ 5 (by omega)).rawByte]
  exact rawByte_dropMovJobs_in { s with cmdStatus := 0 } mov _ hj (movJob_on_iff.2 ⟨hm, hc⟩) ha

/-- A byte that no transfer of the channel writes reads as before. -/
theorem readByte_cancelled_out (hmov : mov < 4) {a : Nat}
    (h : ∀ k ∈ s.eng.movJobs, k.mover = mov → k.channel = ch → ¬ k.writes a) :
    readByte (cancelled s mov ch) a = readByte s a := by
  refine readByte_congr (by rw [cancelled_eng]) ?_
  rw [cancelled, (sameHbm_setChStat _ 5 (by omega)).rawByte]
  refine rawByte_dropMovJobs_out { s with cmdStatus := 0 } mov _ fun k hk hon => ?_
  obtain ⟨hm, hc⟩ := movJob_on_iff.1 hon
  exact h k hk hm hc

end

/-- Settles O30: CANCEL drops the transfers of its channel, which makes their destinations undefined; else both commands answer STATE. -/
theorem cancelAndRecoverAreIgnoredWhereTheyDoNotFit : Obligations.CancelAndRecoverAreIgnoredWhereTheyDoNotFit := by
  intro s mov ch hruns hmov hch
  refine ⟨fun j hj hm hc => ?_, fun hidle => ?_, fun hstopped => ?_⟩
  · have htouches := cancelled_touches s hmov (ch := ch)
    have hexec : exec (.cancel mov ch) s = .next (cancelled s mov ch) := by
      rw [exec_cancel hruns hmov hch, movCancel_of_runs hj hm hc, htouches.keepFixed_eq (by decide) (by decide)]
    obtain ⟨hframe, hpages⟩ := htouches
    exact ⟨_, hexec, cancelled_cmdStatus s, chStat_cancelled_self s hch, congrArg Engines.movJobs (cancelled_eng s),
      fun a hlo hhi => rawByte_cancelled_in s hmov hj hm hc ⟨hlo, hhi⟩, fun a hfar => readByte_cancelled_out s hmov hfar,
      fun c _ hne => chStat_cancelled_ne s hne, hpages, hframe⟩
  · rw [exec_cancel hruns hmov hch, movCancel_of_idle hidle]; rfl
  · rw [exec_recover hruns hmov, movRecoverCmd, hstopped]; rfl

end Sys2Proof.Safety
end

section
/-! SUPPORT. The length of the frames that the device sends, and the bytes of a little-endian number. -/

namespace Sys2Proof.Machine

/-! ## Bytes of a number (00 R11) -/

@[simp] theorem length_leBytes (n v : Nat) : (leBytes n v).length = n := by
  induction n generalizing v with
  | zero => rfl
  | succ n ih => rw [leBytes, List.length_cons, ih]

@[simp] theorem length_beBytes (n v : Nat) : (beBytes n v).length = n := by
  rw [beBytes, List.length_reverse, length_leBytes]

/-- Little-endian bytes spell their number as far as they reach. -/
theorem leNat_leBytes (n v : Nat) : leNat (leBytes n v) = v % 256 ^ n := by
  induction n generalizing v with
  | zero => rw [leBytes, leNat, Nat.pow_zero, Nat.mod_one]
  | succ n ih => rw [leBytes, leNat, ih, BitVec.toNat_ofNat, Nat.pow_succ' (m := 256), Nat.mod_mul]

/-! ## Frames (13 R450, R454) -/

@[simp] theorem length_fcsOf (bs : List Byte) : (fcsOf bs).length = 4 := length_leBytes 4 _

theorem length_closeFrame (b : List Byte) : (closeFrame b).length = max b.length 60 + 4 := by
  simp only [closeFrame, List.length_append, List.length_replicate, length_fcsOf]; omega

/-- The headers of a datagram take at most 62 bytes, and its FCS four. -/
theorem length_udpFrame_le (s : State) (peer : ReplyTo) (sport dport : Nat) (data : List Byte) :
    (udpFrame s peer sport dport data).length ≤ data.length + 66 := by
  unfold udpFrame
  dsimp only
  split
  · rw [length_closeFrame]; simp only [List.length_append, length_beBytes, List.length_map, List.length_range]; omega
  · rw [length_closeFrame]; simp only [List.length_append, length_beBytes, List.length_map, List.length_range]; omega

/-! ## Messages of the control channel (15 R492, R496) -/

@[simp] theorem length_responseBytes (kind tag status count index tick : Nat) (body : List Byte) :
    (responseBytes kind tag status count index tick body).length = 24 + body.length := by
  simp only [responseBytes, List.length_append, length_leBytes]

@[simp] theorem length_dtlsDatagram (count : Nat) (msg : List Byte) : (dtlsDatagram count msg).length = msg.length + 22 := by
  rw [dtlsDatagram, List.length_map, List.length_range]

end Sys2Proof.Machine
end

section
/-! SUPPORT. How an answer of the device takes its way out through a host port: into an empty queue with a buffer from a pool that is hardly
used, or at once where only the port logic runs (13 R454, R457, R459; 14 R480, R485, R488; 18 R579). -/

namespace Sys2Proof.Machine

open Safety

/-! ## Levels of a store (14 R485) -/

/-- Every threshold above level 0 lies beyond half of the store. -/
theorem lt_levelAt {n use : Nat} (h : 2 * (use + 1) < n) (l : Nat) : use < levelAt n l := by
  unfold levelAt; split_ifs <;> omega

/-- A store that is less than half full and at level 0 stays there. -/
theorem nextLevel_of_low {n use : Nat} (h : 2 * (use + 1) < n) : nextLevel n 0 use = 0 := by
  have hup : ((List.range 5).filter fun l => decide (l = 0) || decide (levelAt n l ≤ use)) = [0] := by
    simp only [Nat.not_le.2 (lt_levelAt h _), decide_false, Bool.or_false]; rfl
  have hstay : ((List.range 5).filter fun l => decide (l ≤ 0) && (decide (l = 0) || decide (levelAt n l - n / 64 ≤ use))) = [0] := rfl
  rw [nextLevel, hup, hstay]; rfl

/-- No level is entered, so nothing is noted. -/
theorem noteFrames_of_low {s : State} {die pool : Nat} (hlevel : frameLevel s die pool = 0)
    (h : 2 * (framesUsed s die pool + 1) < framePoolSize pool) : noteFrames s die pool = s := by
  unfold noteFrames
  simp only [hlevel, nextLevel_of_low h, Nat.not_lt_zero, if_true, if_false]
  refine foldl_keeps id (fun u l => if_neg ?_) s _
  omega

/-! ## A buffer for an answer (14 R480, R488) -/

/-- A pool at level 0 whose list stands takes an answer. -/
theorem poolTakes_local {s : State} {die pool : Nat} (hlevel : frameLevel s die pool = 0)
    (hsound : (framePoolOf s die pool).broken = false) : poolTakes s die pool .local = (s, true) := by
  unfold poolTakes
  simp [hlevel, hsound]

/-- What a taken buffer leaves: the pool without it, and the buffer with its owners. -/
def withBuffer (s : State) (die pool : Nat) (mask : BitVec 7) : State :=
  let p := framePoolOf s die pool
  let w := p.words01 p.first
  let t := setFramePool s { p with first := w.1, words := kvPut p.words p.first (w.1, 0) }
  { t with host := { t.host with bufs := ⟨die, pool, p.first, mask⟩ :: t.host.bufs } }

theorem framesUsed_withBuffer (s : State) (die pool : Nat) (mask : BitVec 7) :
    framesUsed (withBuffer s die pool mask) die pool = framesUsed s die pool + 1 := by
  simp [framesUsed, withBuffer, setFramePool]

/-- A pool that is ready gives its first buffer, and its level stands. -/
theorem takeFrame_of_ready {s : State} {die pool : Nat} (h : PoolReady s die pool) (mask : BitVec 7) :
    takeFrame s die pool mask = (withBuffer s die pool mask, some (framePoolOf s die pool).first) := by
  obtain ⟨hlevel, hroom, hsound, -, hfree⟩ := h
  obtain ⟨hend, hmark⟩ := hfree (framePoolOf s die pool).first (List.mem_cons_self ..)
  have hnote : noteFrames (withBuffer s die pool mask) die pool = withBuffer s die pool mask :=
    noteFrames_of_low hlevel (by rw [framesUsed_withBuffer]; omega)
  unfold takeFrame
  dsimp only
  rw [if_neg (by simp [hsound, hend]), if_neg (not_not.2 hmark)]
  exact congrArg (·, _) hnote

/-- An answer finds a buffer in the pool of its length. -/
theorem admitFrame_of_ready {s : State} {die len : Nat} (h : PoolReady s die (poolFor len)) (mask : BitVec 7) :
    admitFrame s die len .local mask =
      (withBuffer s die (poolFor len) mask, some (poolFor len, (framePoolOf s die (poolFor len)).first)) := by
  have htakes : poolTakes s die (poolFor len) .local = (s, true) := by
    obtain ⟨hlevel, -, hsound, -⟩ := h
    exact poolTakes_local hlevel hsound
  unfold admitFrame
  simp only [htakes, takeFrame_of_ready h, if_true, Option.map_some]

theorem poolFor_mem (len : Nat) : poolFor len ∈ [1, 2, 3] := by
  unfold poolFor; split_ifs <;> decide

/-! ## Queues of a port (13 R457) -/

theorem hostPortOf_port (s : State) (port : Nat) : (hostPortOf s port).port = port := by
  unfold hostPortOf
  cases h : s.host.ports.find? (·.port == port) with
  | none => rfl
  | some p => simpa using List.find?_some h

/-- The queues of a port read as they were kept. -/
theorem hostPortOf_setHostPort (s : State) {p : HostPort} {port : Nat} (hp : p.port = port) : hostPortOf (setHostPort s p) port = p := by
  simp [hostPortOf, setHostPort, hp]

/-- A queue reads as it was kept. -/
theorem queueOf_setQueue_self (s : State) (port : Nat) {q : Nat} (hq : q < 8) (v : HostQueue) :
    queueOf (setQueue s port q v) port q = v := by
  rw [queueOf, setQueue, hostPortOf_setHostPort s]
  · simp [List.getD_eq_getElem?_getD, List.getElem?_map, List.getElem?_range hq]
  · exact hostPortOf_port s port

theorem queueFor_lt (s : State) (port pcp : Nat) : queueFor s port pcp < 8 := Nat.mod_lt _ (by decide)

/-- An empty queue that was always empty has the average 0. -/
theorem nextAvg_zero (w : Nat) : nextAvg 0 0 w = 0 := by simp [nextAvg]

/-- A queue that takes frames takes a green one of at most 10 KiB. -/
theorem queueCode_of_takes {s : State} {port q len : Nat} (h : QueueTakes s port q) (hlen : len ≤ 10240) :
    queueCode s port q 0 len = (setQueue s port q (queueOf s port q), 0) := by
  obtain ⟨hempty, havg, hweight, hlimit, hmax, hred⟩ := h
  have hbytes : (queueOf s port q).bytes = 0 := by rw [HostQueue.bytes, hempty]; rfl
  have hsame : ({ queueOf s port q with avg := 0 } : HostQueue) = queueOf s port q := by rw [← havg]
  have hregs : ∀ n f, getFI (setQueue s port q (queueOf s port q)) 0 port n f = getFI s 0 port n f := fun n f => getFI_congr rfl ..
  have hgreen : ¬ (getFI s 0 port q Reg.hostRedG_max * 1024 * 65536 ≤ 0) := by omega
  have hfits : ¬ (getFI s 0 port q Reg.hostQ_limit * 1024 < 0 + len) := by omega
  unfold queueCode
  simp only [hbytes, havg, nextAvg_zero, hsame, hregs, if_neg hweight, if_neg (show ¬ ((0 : Nat) = 1) by decide), if_neg hgreen,
    Nat.zero_le, true_or, or_true, if_true, Bool.false_eq_true, if_false, if_neg hfits]

/-- A frame that joins a queue stands last in it. -/
theorem queueOf_enqueueFrame (s : State) (port : Nat) {q : Nat} (hq : q < 8) (f : QFrame) :
    ∃ fin, (queueOf (enqueueFrame s port q f) port q).frames = (queueOf s port q).frames ++ [{ f with finish := fin }] :=
  ⟨_, by rw [enqueueFrame, queueOf_setQueue_self _ _ hq]⟩

end Sys2Proof.Machine

namespace Sys2Proof.Safety

open Machine

namespace Touches

variable {c : List Part} {ks : List Nat} {s t : State}

/-- Another state of the host dies. -/
theorem withHost (v : Hosts) (h : Touches c ks s t) (hh : .host ∈ c) : Touches c ks s { t with host := v } := by
  refine h.upd (fun p hp => ?_) rfl
  cases p
  case host => exact absurd hh hp
  all_goals rfl

theorem setQueue (port q : Nat) (v : HostQueue) (h : Touches c ks s t) (hh : .host ∈ c) :
    Touches c ks s (Machine.setQueue t port q v) := h.withHost _ hh

theorem enqueueFrame (port q : Nat) (f : QFrame) (h : Touches c ks s t) (hh : .host ∈ c) :
    Touches c ks s (Machine.enqueueFrame t port q f) := h.setQueue _ _ _ hh

theorem withBuffer (die pool : Nat) (mask : BitVec 7) (h : Touches c ks s t) (hh : .host ∈ c) :
    Touches c ks s (Machine.withBuffer t die pool mask) := h.withHost _ hh

end Touches

/-- A frame of the device that its queue and its pool accept joins the queue. -/
theorem forwardFrame_of_accepted {s u v : State} {port pcp : Nat} {f : List Byte} {buf : Nat × Nat} (vid : Nat) (said : Option Says)
    (hqueue : queueCode s port (queueFor s port pcp) 0 f.length = (u, 0))
    (hbuf : admitFrame u (hostDie port) f.length .local (BitVec.ofNat 7 (2 ^ (port % 4))) = (v, some buf)) :
    forwardFrame s port none f vid pcp 0 said = queueFrame v port f vid pcp 0 v.mer buf said := by
  unfold forwardFrame
  simp only [hqueue, hbuf, ne_eq, not_true_eq_false, if_false]

/-- An answer that joins a queue waits last there. -/
theorem queueFrame_told (s : State) (port : Nat) (f : List Byte) (vid pcp colour stamp : Nat) (buf : Nat × Nat) (what : Says) :
    Told (queueFrame s port f vid pcp colour stamp buf (some what)) port what := by
  obtain ⟨fin, hfin⟩ := queueOf_enqueueFrame s port (queueFor_lt s port pcp)
    ⟨f, vid, pcp, policedLen s (hostDie port) f.length, colour, stamp, 0, buf.1, buf.2, some what⟩
  exact .inl ⟨_, queueFor_lt s port pcp, _, _, hfin, rfl⟩

/-- A host port whose die serves queues an answer. -/
theorem forwardFrame_told {s : State} {port : Nat} {f : List Byte} (vid pcp : Nat) (what : Says) (hlen : f.length ≤ 10240)
    (hqueues : ∀ q < 8, QueueTakes s port q) (hpools : ∀ pool ∈ [1, 2, 3], PoolReady s (hostDie port) pool) :
    Told (forwardFrame s port none f vid pcp 0 (some what)) port what ∧
      Touches [.host] [] s (forwardFrame s port none f vid pcp 0 (some what)) := by
  have htakes := hqueues _ (queueFor_lt s port pcp)
  have hready : PoolReady (setQueue s port (queueFor s port pcp) (queueOf s port (queueFor s port pcp))) (hostDie port)
      (poolFor f.length) := hpools _ (poolFor_mem _)
  rw [forwardFrame_of_accepted vid (some what) (queueCode_of_takes htakes hlen) (admitFrame_of_ready hready _)]
  exact ⟨queueFrame_told ..,
    (((Touches.refl _ _ s).setQueue _ _ _ (by decide)).withBuffer _ _ _ (by decide)).enqueueFrame _ _ _ (by decide)⟩

/-- Where only the port logic runs an answer leaves at once, and is the last thing that has left. -/
theorem sendReply_of_bare {s : State} {peer : ReplyTo} (hserves : hostServes s (hostDie peer.port) = false)
    (hport : portServes s peer.port = true) (hlink : hostLink s peer.port = true) (f : List Byte) (what : Says) :
    sendReply s peer f what =
      emit (emit s (.frame s.mer peer.port (egressForm s peer.port peer.vid peer.pcp f))) (.said s.mer peer.port what) := by
  simp [sendReply, hserves, hport, hlink]

/-- An answer of at most 10 KiB that can go out does, and touches the outbox and the host dies alone. -/
theorem sendReply_told {s : State} {peer : ReplyTo} {f : List Byte} (what : Says) (hlen : f.length ≤ 10240)
    (h : CanAnswer s peer.port) :
    Told (sendReply s peer f what) peer.port what ∧ Touches [.out, .host] [] s (sendReply s peer f what) := by
  obtain ⟨-, ⟨hserves, hqueues, hpools⟩ | ⟨hbare, hport, hlink⟩⟩ := h
  · rw [sendReply, if_pos hserves]
    exact (forwardFrame_told _ _ what hlen hqueues hpools).imp_right fun ht => ht.mono (by decide) (by decide)
  · rw [sendReply_of_bare hbare hport hlink]
    exact ⟨.inr ⟨_, _, rfl⟩, ((Touches.refl _ _ s).emit _ (by decide)).emit _ (by decide)⟩

/-- A way out rests on the registers, the power controller, the fault collector, the host dies and the tick alone. -/
theorem CanAnswer.congr {s t : State} {port : Nat} (h : CanAnswer s port) (hregs : t.regs = s.regs) (hpwr : t.pwr = s.pwr)
    (hflt : t.flt = s.flt) (hhost : t.host = s.host) (hmer : t.mer = s.mer) : CanAnswer t port := by
  cases s; cases t
  dsimp only at hregs hpwr hflt hhost hmer
  subst hregs hpwr hflt hhost hmer
  exact h

/-- A datagram of at most 10 KiB that can go out does; it draws the bytes of one record. -/
theorem sendDatagram_told {s : State} {peer : ReplyTo} {bytes : List Byte} (what : Says) (hlen : bytes.length + 66 ≤ 10240)
    (h : CanAnswer s peer.port) :
    Told (sendDatagram s peer bytes what) peer.port what ∧
      Touches [.out, .free, .host] [] s (sendDatagram s peer bytes what) := by
  have hframe := length_udpFrame_le s peer (getF s (hostDie peer.port) Reg.hostCfg_ctrlPort) peer.udp bytes
  have hcan : CanAnswer { s with freeCtr := s.freeCtr + 1 } peer.port := h.congr rfl rfl rfl rfl rfl
  have hdrawn : Touches [.out, .free, .host] [] s { s with freeCtr := s.freeCtr + 1 } := by
    refine (Touches.refl _ _ s).upd (fun p hp => ?_) rfl
    cases p
    case free => exact absurd (by decide) hp
    all_goals rfl
  obtain ⟨htold, htouches⟩ := sendReply_told what (Nat.le_trans hframe hlen) hcan
  exact ⟨htold, hdrawn.trans (htouches.mono (by decide) (by decide))⟩

end Sys2Proof.Safety
end

section
/-! SUPPORT. What leaves through a host port leaves the control channel as it is: frames, their drops and their capture records (13 R450 to
R464). -/

namespace Sys2Proof.Machine

/-! ## Writes to HBM -/

@[simp] theorem memUe_ctl (s : State) (a : Nat) : (memUe s a).ctl = s.ctl :=
  ((Safety.Touches.refl [.regs, .flt] [8, 9, 0x13] s).memUe a (by decide) (by decide) (by decide) (by decide) (by decide)).1 .ctl
    (by decide)
@[simp] theorem writeBurst_ctl (s : State) (a : Nat) (bs : List Byte) : (writeBurst s a bs).1.ctl = s.ctl := by
  unfold writeBurst freshBurst clearUe; split_ifs <;> simp
@[simp] theorem overStage_ctl (s : State) (a : Nat) (bs : List Byte) : (overStage s a bs).ctl = s.ctl := rfl
@[simp] theorem writeChecked_ctl (s : State) (a : Nat) (bs : List Byte) : (writeChecked s a bs).1.ctl = s.ctl :=
  foldl_keeps (fun r : State × List Nat => r.1.ctl) (fun r p => by dsimp only; split <;> simp) _ _

/-! ## Frame pools and queues -/

@[simp] theorem drawBool_ctl (s : State) : (drawBool s).2.ctl = s.ctl := rfl
@[simp] theorem setFramePool_ctl (s : State) (p : FramePool) : (setFramePool s p).ctl = s.ctl := rfl
@[simp] theorem noteFrames_ctl (s : State) (die pool : Nat) : (noteFrames s die pool).ctl = s.ctl := by
  unfold noteFrames; dsimp only
  rw [foldl_keeps State.ctl (fun _ _ => by split <;> simp)]
  split_ifs <;> simp
@[simp] theorem takeFrame_ctl (s : State) (die pool : Nat) (mask : BitVec 7) : (takeFrame s die pool mask).1.ctl = s.ctl := by
  unfold takeFrame; dsimp only; split_ifs <;> simp
@[simp] theorem poolTakes_ctl (s : State) (die pool : Nat) (use : FrameUse) : (poolTakes s die pool use).1.ctl = s.ctl := by
  unfold poolTakes; dsimp only
  split
  · rfl
  · cases use <;> dsimp only <;> split_ifs <;> simp
@[simp] theorem admitFrame_ctl (s : State) (die len : Nat) (use : FrameUse) (mask : BitVec 7) :
    (admitFrame s die len use mask).1.ctl = s.ctl := by
  unfold admitFrame; dsimp only; split <;> simp
@[simp] theorem setHostPort_ctl (s : State) (p : HostPort) : (setHostPort s p).ctl = s.ctl := rfl
@[simp] theorem setQueue_ctl (s : State) (port q : Nat) (v : HostQueue) : (setQueue s port q v).ctl = s.ctl := rfl
@[simp] theorem queueCode_ctl (s : State) (port q colour len : Nat) : (queueCode s port q colour len).1.ctl = s.ctl := by
  unfold queueCode; dsimp only; split_ifs <;> simp
@[simp] theorem queueFrame_ctl (s : State) (port : Nat) (f : List Byte) (vid pcp colour stamp : Nat) (buf : Nat × Nat)
    (said : Option Says) : (queueFrame s port f vid pcp colour stamp buf said).ctl = s.ctl := rfl

/-! ## Capture records and drops -/

@[simp] theorem capPut_ctl (s : State) (die : Nat) (rec : List Byte) : (capPut s die rec).ctl = s.ctl := by
  unfold capPut; split <;> simp
@[simp] theorem placeCap_ctl (s : State) (c : CapWait) : (placeCap s c).ctl = s.ctl := by
  unfold placeCap; dsimp only
  split
  · split <;> rfl
  · rfl
@[simp] theorem holdBuf_ctl (s : State) (die : Nat) (buf : Option (Nat × Nat)) : (holdBuf s die buf).ctl = s.ctl := by
  cases buf <;> rfl
@[simp] theorem capWrite_ctl (s : State) (die link : Nat) (rec : List Byte) (buf : Option (Nat × Nat)) :
    (capWrite s die link rec buf).ctl = s.ctl := by
  unfold capWrite; dsimp only; split_ifs <;> simp
@[simp] theorem capFrame_ctl (s : State) (kind port reason colour time : Nat) (f : List Byte) (buf : Option (Nat × Nat)) :
    (capFrame s kind port reason colour time f buf).ctl = s.ctl := by
  unfold capFrame; dsimp only
  rw [apply_ite State.ctl, capWrite_ctl, ite_self]
@[simp] theorem dropFrame_ctl (s : State) (port : Nat) (ingress : Option Nat) (code colour stamp : Nat) (f : List Byte) :
    (dropFrame s port ingress code colour stamp f).ctl = s.ctl := by
  unfold dropFrame; dsimp only; split
  · simp
  · cases ingress <;> simp

/-! ## Answers -/

@[simp] theorem forwardFrame_ctl (s : State) (port : Nat) (ingress : Option Nat) (f : List Byte) (vid pcp colour : Nat)
    (said : Option Says) : (forwardFrame s port ingress f vid pcp colour said).ctl = s.ctl := by
  unfold forwardFrame; dsimp only
  split
  · simp
  · split
    · simp
    · cases ingress <;> simp
@[simp] theorem sendReply_ctl (s : State) (peer : ReplyTo) (f : List Byte) (said : Says) : (sendReply s peer f said).ctl = s.ctl := by
  unfold sendReply; split_ifs <;> simp
@[simp] theorem sendRecord_ctl (s : State) (id pcp : Nat) (peer : ReplyTo) (bs : List Byte) : (sendRecord s id pcp peer bs).ctl = s.ctl :=
  sendReply_ctl ..

end Sys2Proof.Machine
end

section
/-! SUPPORT. How a request of an open session is taken up and answered at once, for the messages that are no accesses (13 R465; 15 R493 to
R496). -/

namespace Sys2Proof.Machine

open Safety

/-! ## Sessions and requests -/

/-- A session is found under its own number. -/
theorem sessionOf_id {s : State} {id : Nat} {x : Session} (hx : sessionOf s id = some x) : x.id = id := by
  simpa using List.find?_some hx

/-- A session that changes reads as changed. -/
theorem sessionOf_onSession {s : State} {id : Nat} {x : Session} {f : Session → Session} (hx : sessionOf s id = some x)
    (hf : ∀ y, (f y).id = y.id) : sessionOf (onSession s id f) id = some (f x) := by
  have hpick : ((fun y : Session => y.id == id) ∘ fun y => if y.id = id then f y else y) = fun y => y.id == id := by
    funext y; dsimp only [Function.comp]; split_ifs <;> simp [hf]
  have hfind : s.ctl.sessions.find? (fun y => y.id == id) = some x := hx
  simp only [sessionOf, onSession, List.find?_map, hpick, hfind, Option.map_some, if_pos (sessionOf_id hx)]

/-- Sessions are read from the control channel alone. -/
theorem sessionOf_congr {s t : State} (h : t.ctl.sessions = s.ctl.sessions) (id : Nat) : sessionOf t id = sessionOf s id := by
  rw [sessionOf, h, sessionOf]

/-- Other requests wait. -/
def setRequests (s : State) (l : List Request) : State := { s with ctl := { s.ctl with requests := l } }

/-! ## A request is taken up (15 R493, R495) -/

/-- A session with one more valid record. -/
def Session.heard (tick : Nat) (x : Session) : Session := { x with last := tick, rx := x.rx + 1 }

/-- A request as its record brings it. -/
def requestOf (hdr : MsgHdr) (msg : Msg) : Request := ⟨hdr.session, hdr.tag, msg, hdr.seq, hdr.pcp⟩

/-- A request of a session has been taken up, and it alone waits. -/
def taken (s : State) (hdr : MsgHdr) (msg : Msg) : State := setRequests (onSession s hdr.session (.heard s.mer)) [requestOf hdr msg]

theorem sessionOf_taken {s : State} {hdr : MsgHdr} {x : Session} (hx : sessionOf s hdr.session = some x) (msg : Msg) :
    sessionOf (taken s hdr msg) hdr.session = some (x.heard s.mer) :=
  sessionOf_onSession hx fun _ => rfl

/-- A request joins none that waits, beside no access. -/
theorem withRequest_of_none {s : State} (hrequests : s.ctl.requests = []) (haccess : s.ctl.access = none) (r : Request) :
    withRequest s r = [r] := by
  simp [withRequest, hrequests, haccess, joinRequest]

/-- A request that the session kept no response to is taken up where none waits. -/
theorem arrive_of_asks {s : State} {x : Session} {hdr : MsgHdr} {msg : Msg} (hsession : hdr.session = x.id)
    (h : Asks s x msg.kind hdr.tag) : arrive s hdr msg = pumpAll (taken s hdr msg) := by
  obtain ⟨-, -, hx, hrequests, haccess, hkept⟩ := h
  rw [← hsession] at hx
  have hnew : x.kept.find? (fun k => k.kind == msg.kind && k.tag == hdr.tag) = none :=
    List.find?_eq_none.2 fun k hk hsame => hkept k hk (by simpa using hsame)
  have hwith : withRequest (onSession s hdr.session (.heard s.mer)) (requestOf hdr msg) = [requestOf hdr msg] :=
    withRequest_of_none hrequests haccess _
  unfold arrive
  simp only [hx, hnew]
  rw [if_neg (by simp [onSession, hrequests]), if_neg (by simp [onSession, hrequests])]
  exact congrArg (fun l => pumpAll (setRequests (onSession s hdr.session (.heard s.mer)) l)) hwith

/-- A request alone that is no access is answered at once, and then nothing waits. -/
theorem pumpAll_of_alone {s : State} {r : Request} {x : Session} (hr : s.ctl.requests = [r]) (haccess : isAccess r = false)
    (hx : sessionOf s r.session = some x) (hdone : (answer s r x.priv).ctl.requests = []) : pumpAll s = answer s r x.priv := by
  have hnext : nextRequest s [] s.ctl.requests = some r := by rw [hr]; simp [nextRequest, haccess]
  have hserve : serve s r = answer s r x.priv := by simp [serve, hx, haccess]
  rw [pumpAll, hr, List.length_singleton, pump, hnext]
  dsimp only
  rw [hserve, pump, hdone]
  rfl

/-! ## Its response (15 R493, R494, R496) -/

/-- A session with one more response. -/
def Session.answered (k : Kept) (x : Session) : Session := { x with tx := x.tx + 1, kept := (k :: x.kept).take 16 }

/-- The response to a request. -/
def Request.response (r : Request) (status count index tick : Nat) (body : List Byte) : List Byte :=
  responseBytes r.msg.kind r.tag status count index tick body

/-- A request has its response: the session keeps it, and the request no longer waits. -/
def keepResponse (s : State) (r : Request) (bs : List Byte) : State :=
  setRequests (onSession s r.session (.answered ⟨r.msg.kind, r.tag, bs⟩)) (s.ctl.requests.erase r)

/-- A response with status OK goes to the session's client in a record, and is kept. -/
theorem respond_ok {s : State} {r : Request} {x : Session} (hx : sessionOf s r.session = some x) (count index tick : Nat)
    (body : List Byte) :
    respond s r 0 count index tick body =
      keepResponse (sendRecord s r.session r.pcp x.peer (r.response 0 count index tick body)) r (r.response 0 count index tick body) := by
  have hclient : clientOf s r.session = some x.peer := by rw [clientOf, hx]; rfl
  rw [respond, hclient]
  rfl

end Sys2Proof.Machine

namespace Sys2Proof.Safety

open Machine

theorem Touches.withCtl {c : List Part} {ks : List Nat} {s t : State} (v : Control) (h : Touches c ks s t) (hc : .ctl ∈ c) :
    Touches c ks s { t with ctl := v } := by
  refine h.upd (fun p hp => ?_) rfl
  cases p
  case ctl => exact absurd hc hp
  all_goals rfl

/-- What touches neither memory, the commit stage, the record of manufacture nor a register leaves every byte. -/
theorem Touches.sameBytes {c : List Part} {ks : List Nat} {s t : State} (h : Touches c ks s t) (hr : .regs ∉ c) (hg : .mfg ∉ c)
    (hm : .mem ∉ c) (he : .eng ∉ c) : SameBytes s t := by
  obtain ⟨hframe, -⟩ := h
  have hstage : t.eng.stage = s.eng.stage := congrArg Engines.stage (hframe .eng he)
  exact fun a => readByte_congr hstage (rawByte_congr (hframe .regs hr) (hframe .mfg hg) (hframe .mem hm) a)

/-- A record whose datagram has at most 10 KiB goes out where it can. -/
theorem sendRecord_told {s : State} {peer : ReplyTo} {bs : List Byte} (id pcp : Nat) (hlen : bs.length + 88 ≤ 10240)
    (h : CanAnswer s peer.port) :
    Told (sendRecord s id pcp peer bs) peer.port (.response id bs) ∧
      Touches [.out, .free, .host] [] s (sendRecord s id pcp peer bs) :=
  sendDatagram_told (peer := { peer with pcp := pcp }) _ (by rw [length_dtlsDatagram]; omega) h

/-- A response is kept by its session. -/
theorem keepResponse_kept {s : State} {r : Request} {x : Session} (hx : sessionOf s r.session = some x) (bs : List Byte) :
    KeptAnswer (keepResponse s r bs) r.session bs :=
  ⟨_, sessionOf_onSession hx fun _ => rfl, ⟨r.msg.kind, r.tag, bs⟩, List.mem_cons_self .., rfl⟩

/-- What goes out where it can, and touches the control channel, the way out and free values alone, is sent. -/
theorem Sent.of_touches {s t : State} {port : Nat} {what : Says}
    (h : CanAnswer s port → Told t port what ∧ Touches [.ctl, .out, .free, .host] [] s t) : Sent s t port what [] [.ctl] := by
  intro hcan
  obtain ⟨htold, htouches⟩ := h hcan
  have hbytes := htouches.sameBytes (by decide) (by decide) (by decide) (by decide)
  obtain ⟨hframe, hpages⟩ := htouches
  exact ⟨htold, hbytes, hpages, hframe⟩

/-- A response with status OK is kept, and goes out where it can. -/
theorem respond_answered {s : State} {r : Request} {x : Session} (hx : sessionOf s r.session = some x) (count index tick : Nat)
    {body : List Byte} (hlen : body.length + 112 ≤ 10240) :
    Answered s (respond s r 0 count index tick body) x (r.response 0 count index tick body) [] [.ctl] := by
  have hid := sessionOf_id hx
  rw [respond_ok hx, Answered, hid]
  have hsent : sessionOf (sendRecord s r.session r.pcp x.peer (r.response 0 count index tick body)) r.session = some x :=
    (sessionOf_congr (congrArg Control.sessions (sendRecord_ctl ..)) _).trans hx
  have hfits : (r.response 0 count index tick body).length + 88 ≤ 10240 := by rw [Request.response, length_responseBytes]; omega
  refine ⟨keepResponse_kept hsent _, .of_touches fun hcan => ?_⟩
  obtain ⟨htold, htouches⟩ := sendRecord_told r.session r.pcp hfits hcan
  exact ⟨htold, (htouches.mono (by decide) (by decide)).withCtl _ (by decide)⟩

/-- After the response nothing waits where the request waited alone. -/
theorem respond_requests {s : State} {r : Request} {x : Session} (hx : sessionOf s r.session = some x) (hr : s.ctl.requests = [r])
    (count index tick : Nat) (body : List Byte) : (respond s r 0 count index tick body).ctl.requests = [] := by
  rw [respond_ok hx]
  change (sendRecord ..).ctl.requests.erase r = []
  rw [sendRecord_ctl, hr, List.erase_cons_head]

/-- An answer of the state that has taken up a request is an answer of the state before. -/
theorem Answered.of_taken {s t : State} {x : Session} {hdr : MsgHdr} {msg : Msg} {bytes : List Byte}
    (h : Answered (taken s hdr msg) t x bytes [] [.ctl]) : Answered s (keepFixed s t) x bytes [] [.ctl] := by
  obtain ⟨hkept, hsent⟩ := h
  have htaken : Touches [.ctl, .out, .free, .host] [] s (taken s hdr msg) := (Touches.refl _ _ s).withCtl _ (by decide)
  refine ⟨hkept, .of_touches fun hcan => ?_⟩
  obtain ⟨htold, -, hpages, hframe⟩ := hsent (hcan.congr rfl rfl rfl rfl rfl)
  exact ⟨htold, (htaken.trans ⟨hframe, hpages⟩).keepFixed⟩

/-- A request that is no access and that SD0 answers with status OK draws its response at once, and then none waits. -/
theorem onChannel_arrive_answered {s : State} {x : Session} {hdr : MsgHdr} {msg : Msg} {count index tick : Nat} {body : List Byte}
    (hsession : hdr.session = x.id) (h : Asks s x msg.kind hdr.tag) (haccess : isAccess (requestOf hdr msg) = false)
    (hbody : body.length + 112 ≤ 10240)
    (hanswer : answer (taken s hdr msg) (requestOf hdr msg) x.priv =
      respond (taken s hdr msg) (requestOf hdr msg) 0 count index tick body) :
    ∃ t, onChannel s hdr.session (arrive s hdr msg) = .next t ∧
      Answered s t x (responseBytes msg.kind hdr.tag 0 count index tick body) [] [.ctl] ∧ t.ctl.requests = [] := by
  have hpump := arrive_of_asks hsession h
  obtain ⟨hid, hruns, hx, -⟩ := h
  rw [← hsession] at hx hid
  have hheard : sessionOf (taken s hdr msg) hdr.session = some (x.heard s.mer) := sessionOf_taken hx msg
  have hdone := respond_requests (r := requestOf hdr msg) hheard rfl count index tick body
  have harrive : arrive s hdr msg = respond (taken s hdr msg) (requestOf hdr msg) 0 count index tick body := by
    rw [hpump, pumpAll_of_alone (x := x.heard s.mer) rfl haccess hheard (hanswer ▸ hdone)]
    exact hanswer
  have hnext : onChannel s hdr.session (arrive s hdr msg) = .next (keepFixed s (arrive s hdr msg)) := by
    rw [onChannel, if_pos hid, whenRuns, if_pos hruns, settled]
  rw [hnext, harrive]
  exact ⟨_, rfl, (respond_answered (r := requestOf hdr msg) hheard count index tick hbody).of_taken, hdone⟩

end Sys2Proof.Safety
end

section
/-! What HELLO says of the device (15 R498). -/

namespace Sys2Proof.Machine

/-- The MODE byte. -/
theorem leBytes_mode (s : State) : leBytes 1 (if inDusk s then 1 else 0) = [if s.pwr.phase = .dusk then 1 else 0] := by
  by_cases hdusk : s.pwr.phase = .dusk <;> simp [inDusk, hdusk, leBytes]

/-- The fields of the body in their order. -/
theorem helloBody_eq (s : State) (id : Nat) :
    helloBody s id =
      [BitVec.ofNat 8 s.mfg.grade, BitVec.ofNat 8 s.mfg.stepping, if s.pwr.phase = .dusk then 1 else 0, BitVec.ofNat 8 id] ++
        leBytes 2 (directory s).length ++ leBytes 2 (nodeId s) ++ List.replicate 8 0 := by
  rw [helloBody, leBytes_mode]; rfl

theorem length_helloBody (s : State) (id : Nat) : (helloBody s id).length = 16 := by
  simp only [helloBody, List.length_append, length_leBytes]

end Sys2Proof.Machine

namespace Sys2Proof.Safety

open Machine

/-- SD0 answers HELLO at once with the body that it has before the request, since the body rests on neither sessions nor requests. -/
theorem exec_hello_answered {s : State} {x : Session} {tag : Nat} (seq pcp : Nat) (h : Asks s x 0 tag) :
    ∃ t, exec (.hello ⟨x.id, tag, seq, pcp⟩) s = .next t ∧
      Answered s t x (responseBytes 0 tag 0 0 0xFFFF 0 (helloBody s x.id)) [] [.ctl] ∧ t.ctl.requests = [] :=
  onChannel_arrive_answered (hdr := ⟨x.id, tag, seq, pcp⟩) (msg := .hello) rfl h rfl (by rw [length_helloBody]; decide) rfl

/-- Settles O40: the response to HELLO carries the body of R498, whose fields stand one after the other. -/
theorem helloNamesTheDevice : Obligations.HelloNamesTheDevice := by
  intro s x tag seq pcp hasks
  obtain ⟨t, hnext, hanswered, -⟩ := exec_hello_answered seq pcp hasks
  refine ⟨t, helloBody s x.id, hnext, hanswered, length_helloBody s x.id, ?_⟩
  rw [helloBody_eq]
  have hpages : leNat (leBytes 2 (directory s).length) = (directory s).length % 2 ^ 16 := leNat_leBytes 2 _
  have hnode : leNat (leBytes 2 (nodeId s)) = nodeId s % 2 ^ 16 := leNat_leBytes 2 _
  exact ⟨rfl, rfl, rfl, rfl, hpages, hnode, rfl⟩

end Sys2Proof.Safety
end

section
/-! SUPPORT. What a power-off runs through sends no fault message (19 R600). -/

namespace Sys2Proof.Machine

@[simp] theorem drawBool_flt (s : State) : (drawBool s).2.flt = s.flt := rfl
@[simp] theorem logReason_flt (s : State) (reason detail : Nat) : (logReason s reason detail).flt = s.flt := by simp [logReason]
@[simp] theorem failStartup_flt (s : State) (reason detail : Nat) : (failStartup s reason detail).flt = s.flt := by simp [failStartup]
@[simp] theorem setRole_flt (s : State) (page role logical : Nat) : (setRole s page role logical).flt = s.flt := by simp [setRole]
@[simp] theorem undoWrite_flt (s : State) (was : NvWas) : (undoWrite s was).flt = s.flt := by
  cases was <;> simp [undoWrite]
@[simp] theorem cutWrites_flt (s : State) : (cutWrites s).flt = s.flt :=
  foldl_keeps State.flt (fun _ _ => by simp [apply_ite State.flt]) { s with fw := { s.fw with writes := [] } } _
@[simp] theorem restoreLife_flt (s : State) : (restoreLife s).flt = s.flt := foldl_keeps State.flt (fun _ _ => by simp) s _

end Sys2Proof.Machine
end

section
/-! What takes the module to Off (19 R600). -/

namespace Sys2Proof.Machine

/-- The power controller acts alone: no power-off sends a fault message. -/
@[simp] theorem enterOff_flt (s : State) (event : Nat) (mfr : BitVec 5) : (enterOff s event mfr).flt = s.flt := by
  simp [enterOff, apply_ite State.flt]

@[simp] theorem enterOff_phase (s : State) (event : Nat) (mfr : BitVec 5) : (enterOff s event mfr).pwr.phase = .off := by
  unfold enterOff; split
  · assumption
  · rfl

theorem enterOff_event {s : State} (h : s.pwr.phase ≠ .off) (event : Nat) (mfr : BitVec 5) :
    (enterOff s event mfr).pwr.event = some event := by rw [enterOff, if_neg h]

theorem phase_ne_off_of_powered {s : State} (h : powered s = true) : s.pwr.phase ≠ .off := by
  intro hoff; simp [powered, hoff] at h

/-- A die that reads 115 °C or more leads to Off once its reading is in the lifetime counters. -/
theorem dieTemp_of_hot {s : State} {temp : Nat} (h : powered s = true) (hhot : 115 ≤ temp) :
    dieTemp s temp = enterOff (setFI s 10 0 0 Reg.pwrLife_value (max (lifeOf s 10) temp)) 3 4 := by
  simp [dieTemp, h, hhot]

/-- The reading reaches the power controller in every phase; no domain of the device need run. -/
theorem exec_overtemp (s : State) (die temp : Nat) : exec (.overtemp die temp) s = .next (keepFixed s (dieTemp s temp)) := rfl

end Sys2Proof.Machine

namespace Sys2Proof.Safety

open Machine

/-- Settles O52: the reading changes a lifetime counter alone before the module enters Off, and entering Off sends no message. -/
theorem overtempTurnsTheModuleOff : Obligations.OvertempTurnsTheModuleOff := by
  intro s die temp hpowered hhot
  refine ⟨_, exec_overtemp s die temp, ?_⟩
  rw [dieTemp_of_hot hpowered hhot, keepFixed_pwr, keepFixed_flt]
  refine ⟨enterOff_phase .., enterOff_event ?_ .., ?_⟩
  · rw [setFI_pwr]; exact phase_ne_off_of_powered hpowered
  · rw [enterOff_flt, setFI_flt]

end Sys2Proof.Safety
end
